-- ==== Sys2Proof/Word.lean ====
section
/-! DEFINITION. The word types of the model (02 R32, 08 R194). -/

namespace Sys2Proof

/-- A scalar register or a memory word: 64 bits. -/
abbrev Word := BitVec 64

/-- A tile row: 256 bytes, byte 0 in bits [7:0] (00 R2). -/
abbrev Row := BitVec 2048

/-- A mask register: 256 bits. -/
abbrev Mask := BitVec 256

/-- The settings of a permutation register: 352 switches (09 R213). -/
abbrev Switches := BitVec 352

/-- One byte of memory. -/
abbrev Byte := BitVec 8

end Sys2Proof
end

