-- ==== Sys2Proof/Machine/Bits.lean ====
section
/-! DEFINITION. Byte order, lanes and lists of bits: the helpers every other file uses (00 R2, 08 R194). -/

namespace Sys2Proof.Machine

/-- The `n` bytes of `v`, least significant first (R2). -/
def leBytes : Nat → Nat → List Byte
  | 0, _ => []
  | n + 1, v => BitVec.ofNat 8 v :: leBytes n (v / 256)

/-- The number whose little-endian bytes these are (R2). -/
def ofBytes : List Byte → Nat
  | [] => 0
  | b :: t => b.toNat + 256 * ofBytes t

/-- The 64-bit word at byte offset `o` of a list of bytes. -/
def wordAt (bs : List Byte) (o : Nat) : Word := BitVec.ofNat 64 (ofBytes ((bs.drop o).take 8))

/-- The 32-bit word at byte offset `o`. -/
def half32At (bs : List Byte) (o : Nat) : BitVec 32 := BitVec.ofNat 32 (ofBytes ((bs.drop o).take 4))

/-- Bits [lo + n - 1 : lo] of `x`. -/
def seg {w : Nat} (x : BitVec w) (lo n : Nat) : BitVec n := x.extractLsb' lo n

/-- `x` with bits [lo + n - 1 : lo] replaced by `v`. -/
def setSeg {w n : Nat} (x : BitVec w) (lo : Nat) (v : BitVec n) : BitVec w :=
  (x &&& ~~~((BitVec.allOnes n).setWidth w <<< lo)) ||| (v.setWidth w <<< lo)

/-- A Bool as a bit. -/
def bit (b : Bool) : Nat := if b then 1 else 0

/-- Lane `i` of a row of `w`-bit lanes (R194). -/
def lane (w : Nat) (r : Row) (i : Nat) : BitVec w := r.extractLsb' (i * w) w

/-- The number that packs `w`-bit lanes, lane 0 lowest. -/
def packLanes (w : Nat) : List (BitVec w) → Nat
  | [] => 0
  | x :: t => x.toNat + 2 ^ w * packLanes w t

/-- The row whose lanes are given by `f`. -/
def ofLanes (w : Nat) (f : Nat → BitVec w) : Row :=
  BitVec.ofNat 2048 (packLanes w ((List.range (2048 / w)).map f))

/-- The mask whose bit `i` is `f i`. -/
def ofBits (w : Nat) (f : Nat → Bool) : BitVec w :=
  BitVec.ofNat w (packLanes 1 ((List.range w).map (fun i => BitVec.ofBool (f i))))

/-- The bytes of a row selected by `sel`, as a row of ones and zeros. -/
def spread (sel : Mask) : Row := ofLanes 8 (fun i => if sel.getLsbD i then 0xFF else 0)

/-- `new` where `sel` selects the byte, `old` elsewhere (R47, R196). -/
def blend (old new : Row) (sel : Mask) : Row :=
  if sel = BitVec.allOnes 256 then new else (new &&& spread sel) ||| (old &&& ~~~ spread sel)

/-- The byte selector of a lane mask: lane `n` of `w` bytes is selected when bit `n` is set (R196). -/
def laneSel (w : Nat) (m : Mask) : Mask :=
  if m = BitVec.allOnes 256 then m else ofBits 256 (fun i => m.getLsbD (i / w))

/-- The bytes of a row, byte 0 first. -/
def rowBytes (r : Row) : List Byte := leBytes 256 r.toNat

/-- The row of 256 bytes. -/
def rowOf (bs : List Byte) : Row := BitVec.ofNat 2048 (ofBytes bs)

/-- `n` as a 64-bit word. -/
def w64 (n : Nat) : Word := BitVec.ofNat 64 n

/-- Sign-extension of the low `n` bits to 64 (R3). -/
def sext64 (n : Nat) (v : Word) : Word := (v.setWidth n).signExtend 64

/-- Zero-extension of the low `n` bits to 64 (R3). -/
def zext64 (n : Nat) (v : Word) : Word := (v.setWidth n).setWidth 64

/-- `x` rounded down to a multiple of `2 ^ k`. -/
def alignDown (x : Word) (k : Nat) : Word := (x >>> k) <<< k

/-- The longest leading run of `true`s, counted. -/
def countTrue : List Bool → Nat
  | [] => 0
  | b :: t => bit b + countTrue t

/-- Replace the element at position `i`. -/
def listSet {α : Type} : List α → Nat → α → List α
  | [], _, _ => []
  | _ :: t, 0, x => x :: t
  | h :: t, n + 1, x => h :: listSet t n x

/-- Insert into a strictly rising list. -/
def insertAsc : List Nat → Nat → List Nat
  | [], k => [k]
  | h :: t, k => if k < h then k :: h :: t else if k = h then h :: t else h :: insertAsc t k

/-- Remove from a strictly rising list. -/
def eraseAsc (l : List Nat) (k : Nat) : List Nat := l.filter (fun x => x != k)

/-- The smallest of a list under a strict order, if any. -/
def minBy {α : Type} (lt : α → α → Bool) : List α → Option α
  | [] => none
  | x :: t =>
    match minBy lt t with
    | none => some x
    | some y => if lt y x then some y else some x

end Sys2Proof.Machine
end

