-- ==== Sys2Proof/Machine/Flags.lean ====
section
/-! DEFINITION. Number formats, exact values, rounding and the flags it raises (03 R59-R64, R70-R76, R83). -/

namespace Sys2Proof.Machine

/-! ## Flags (R83) -/

/-- The six sticky flags, bit for bit as FFL holds them. -/
abbrev Flags := BitVec 6

def fNV : Flags := 0x01
def fDZ : Flags := 0x02
def fOF : Flags := 0x04
def fUF : Flags := 0x08
def fNX : Flags := 0x10
def fSAT : Flags := 0x20

/-- Flags raised when a condition holds. -/
def flagIf (b : Bool) (f : Flags) : Flags := if b then f else 0

/-- The trap enables of RM, bit for bit as the flags (R70). -/
def enables (rm : Word) : Flags := seg rm 8 6

/-! ## Rounding modes (R70) -/

/-- The rounding modes of RM. -/
inductive RMode where
  | rne | rtz | rup | rdn | rna | sr
  deriving DecidableEq, Repr

/-- The mode a code names; 6 and 7 are never held (R70). -/
def RMode.ofCode (n : Nat) : RMode :=
  match n with
  | 0 => .rne
  | 1 => .rtz
  | 2 => .rup
  | 3 => .rdn
  | 4 => .rna
  | _ => .sr

/-- The mode RM selects, and its flush bit. -/
def modeOf (rm : Word) : RMode := RMode.ofCode (seg rm 0 3).toNat
def ftzOf (rm : Word) : Bool := rm.getLsbD 3

/-- A rounding that draws nothing uses RNE while rnd = 5 (R71). -/
def RMode.plain : RMode → RMode
  | .sr => .rne
  | m => m

/-! ## Formats (R59, R61, R62) -/

/-- A binary floating-point format: bits, fraction bits, bias, the encoding of its largest finite magnitude, infinity
and canonical NaN if it has them. -/
structure FF where
  w : Nat
  f : Nat
  bias : Int
  big : Nat
  inf : Option Nat
  nan : Option Nat
  /-- FTZ applies to it (R73) -/
  flushes : Bool
  deriving DecidableEq, Repr

def ffF32 : FF := { w := 32, f := 23, bias := 127, big := 0x7F7FFFFF, inf := some 0x7F800000, nan := some 0x7FC00000, flushes := true }
def ffBf16 : FF := { w := 16, f := 7, bias := 127, big := 0x7F7F, inf := some 0x7F80, nan := some 0x7FC0, flushes := true }
def ffF16 : FF := { w := 16, f := 10, bias := 15, big := 0x7BFF, inf := some 0x7C00, nan := some 0x7E00, flushes := true }
def ffF64 : FF := { w := 64, f := 52, bias := 1023, big := 0x7FEFFFFFFFFFFFFF, inf := some 0x7FF0000000000000,
                    nan := some 0x7FF8000000000000, flushes := true }
def ffE4m3 : FF := { w := 8, f := 3, bias := 7, big := 0x7E, inf := none, nan := some 0x7F, flushes := false }
def ffE5m2 : FF := { w := 8, f := 2, bias := 15, big := 0x7B, inf := some 0x7C, nan := some 0x7E, flushes := false }
def ffE2m1 : FF := { w := 4, f := 1, bias := 1, big := 0x7, inf := none, nan := none, flushes := false }

/-- An integer format: bits and sign. -/
structure IFm where
  w : Nat
  signed : Bool
  deriving DecidableEq, Repr

/-- What a format code names (R59). -/
inductive Fmt where
  | flt (f : FF)
  | int (i : IFm)
  | cb2
  | bad
  deriving DecidableEq, Repr

/-- The format of a code (R59). -/
def fmtOf (c : BitVec 4) : Fmt :=
  match c with
  | 0 => .flt ffF32
  | 1 => .flt ffBf16
  | 2 => .flt ffF16
  | 3 => .flt ffF64
  | 4 => .int { w := 32, signed := true }
  | 5 => .int { w := 16, signed := true }
  | 6 => .int { w := 8, signed := true }
  | 7 => .int { w := 64, signed := true }
  | 8 => .flt ffE4m3
  | 9 => .flt ffE5m2
  | 10 => .flt ffE2m1
  | 11 => .int { w := 4, signed := true }
  | 12 => .cb2
  | 13 => .int { w := 8, signed := false }
  | _ => .bad

/-- The bits of an element (16 per index for cb2; 0 for a reserved code). -/
def Fmt.bits : Fmt → Nat
  | .flt f => f.w
  | .int i => i.w
  | .cb2 => 16
  | .bad => 0

/-- The lane width of a row type (R60). -/
def typW (typ : BitVec 3) : Nat :=
  match typ with
  | 0 => 32
  | 1 => 16
  | 2 => 16
  | 3 => 64
  | 4 => 32
  | 5 => 16
  | 6 => 8
  | _ => 64

/-- Lanes of a row type (R60). -/
def typLanes (typ : BitVec 3) : Nat := 2048 / typW typ

/-- Whether a row type is floating (class F of R194). -/
def typFloat (typ : BitVec 3) : Bool := typ.toNat < 4

/-- The floating format of a row type. -/
def typFF (typ : BitVec 3) : FF :=
  match typ with
  | 0 => ffF32
  | 1 => ffBf16
  | 2 => ffF16
  | _ => ffF64

/-! ## Exact values -/

/-- What an element stands for: a NaN, an infinity, or exactly (-1)^neg × mag × 2^exp. -/
inductive FVal where
  | nan (signalling : Bool)
  | inf (neg : Bool)
  | fin (neg : Bool) (mag : Nat) (exp : Int)
  deriving DecidableEq, Repr

/-- Whether a value is a zero. -/
def FVal.isZero : FVal → Bool
  | .fin _ m _ => m == 0
  | _ => false

/-- The sign of a value. -/
def FVal.neg : FVal → Bool
  | .nan _ => false
  | .inf n => n
  | .fin n _ _ => n

/-- A value with its sign changed. -/
def FVal.negate : FVal → FVal
  | .nan q => .nan q
  | .inf n => .inf (!n)
  | .fin n m e => .fin (!n) m e

/-- The value an encoding stands for, without regard to FTZ (R61, R62). -/
def FF.decode (f : FF) (bits : Nat) : FVal :=
  let neg := bits.testBit (f.w - 1)
  let m := bits % 2 ^ (f.w - 1)
  if f.inf = some m then .inf neg
  else if (match f.inf with
      | some i => decide (i < m)
      | none => f.nan == some m) then .nan (f.inf.isSome && !m.testBit (f.f - 1))
  else
    let e := m / 2 ^ f.f
    let q := 1 - f.bias - f.f
    if e = 0 then .fin neg m q
    else .fin neg (2 ^ f.f + m % 2 ^ f.f) (q + (e - 1 : Int))

/-- Whether an encoding is a subnormal. -/
def FF.subnormal (f : FF) (bits : Nat) : Bool :=
  let m := bits % 2 ^ (f.w - 1)
  decide (m < 2 ^ f.f) && m != 0

/-- The value an operand is read as: a subnormal as a zero of its sign under FTZ (R73). -/
def FF.read (f : FF) (ftz : Bool) (bits : Nat) : FVal :=
  if ftz && f.flushes && f.subnormal bits then .fin (bits.testBit (f.w - 1)) 0 0 else f.decode bits

/-- The value an integer stands for. -/
def FVal.ofInt (i : Int) : FVal := .fin (decide (i < 0)) i.natAbs 0

/-- The value an integer encoding stands for (u8 is unsigned). -/
def IFm.decode (i : IFm) (bits : Nat) : Int :=
  let m : Nat := bits % 2 ^ i.w
  if i.signed && m.testBit (i.w - 1) then (m : Int) - 2 ^ i.w else m

/-- The least and the greatest integer of a format (R63). -/
def IFm.lo (i : IFm) : Int := if i.signed then -(2 ^ (i.w - 1) : Int) else 0
def IFm.hi (i : IFm) : Int := if i.signed then 2 ^ (i.w - 1) - 1 else 2 ^ i.w - 1

/-- The encoding of an integer modulo 2^w. -/
def IFm.encode (i : IFm) (v : Int) : Nat := (v % (2 ^ i.w : Int)).toNat

/-- An integer clamped to the range. -/
def IFm.clamp (i : IFm) (v : Int) : Int := max i.lo (min i.hi v)

/-! ## Rounding (R70, R71, R73) -/

/-- Number of bits of a number. -/
def bitLen (n : Nat) : Nat := if n = 0 then 0 else Nat.log2 n + 1

/-- Whether a magnitude between `n` and `n + 1` goes up: `r / d` is the fraction, `sticky` says there is more below it,
`draw` is the number SR compares with (R71). -/
def roundsUp (mode : RMode) (neg : Bool) (n r d : Nat) (sticky : Bool) (draw : Nat) : Bool :=
  let any := r != 0 || sticky
  match mode with
  | .rne => decide (d < 2 * r) || (2 * r == d && (sticky || n % 2 == 1))
  | .rtz => false
  | .rup => any && !neg
  | .rdn => any && neg
  | .rna => decide (d ≤ 2 * r)
  | .sr => decide (draw < r * 2 ^ 32 / d)

/-- A magnitude on a grid of spacing 2^q: the grid number, and whether it is inexact. A magnitude below 2^-64 of the spacing
is rounded as any other fraction so small. -/
def onGrid (mode : RMode) (neg : Bool) (mag : Nat) (exp q : Int) (sticky : Bool) (draw : Nat) : Nat × Bool :=
  if q ≤ exp then
    let n := mag * 2 ^ (exp - q).toNat
    (if roundsUp mode neg n 0 1 sticky draw then n + 1 else n, sticky)
  else
    let d := 2 ^ min (q - exp).toNat (bitLen mag + 64)
    let n := mag / d
    let r := mag % d
    (if roundsUp mode neg n r d sticky draw then n + 1 else n, r != 0 || sticky)

/-- What an overflow gives by mode: true for infinity, false for the largest finite (IEEE 754-2019; SR as RNE, R76). -/
def overflowsToInf (mode : RMode) (neg : Bool) : Bool :=
  match mode with
  | .rtz => false
  | .rup => !neg
  | .rdn => neg
  | _ => true

/-- An encoding with the sign of `neg`. -/
def FF.signed (f : FF) (neg : Bool) (m : Nat) : Nat := m + (if neg then 2 ^ (f.w - 1) else 0)

/-- The canonical NaN; e2m1 has none and takes +0 (R76). -/
def FF.canon (f : FF) : Nat := f.nan.getD 0

/-- An exact magnitude (with `sticky` for more below its last bit) rounded to a format: the encoding and the flags. -/
def FF.round (f : FF) (mode : RMode) (ftz sat : Bool) (neg : Bool) (mag : Nat) (exp : Int) (sticky : Bool) (draw : Nat) :
    Nat × Flags :=
  if mag = 0 && !sticky then (f.signed neg 0, 0)
  else
    let emin := 1 - f.bias
    let top := exp + bitLen mag - 1
    let q := max top emin - f.f
    let (n, nx) := onGrid mode neg mag exp q sticky draw
    let enc := n + (q - (emin - f.f)).toNat * 2 ^ f.f
    if f.big < enc then
      let big := if sat || f.w = 4 then f.signed neg f.big
        else if overflowsToInf mode neg then
          (match f.inf with
            | some i => f.signed neg i
            | none => f.canon)
        else f.signed neg f.big
      (big, fOF ||| fNX)
    else
      let tiny :=
        if top < emin then
          match mode with
          | .sr => decide (enc < 2 ^ f.f)
          | _ =>
            let (n1, _) := onGrid mode neg mag exp (top - f.f) sticky draw
            !(n1 == 2 ^ (f.f + 1) && top + 1 == emin)
        else false
      if ftz && f.flushes && decide (enc < 2 ^ f.f) && (n != 0 || nx) then (f.signed neg 0, fUF ||| fNX)
      else (f.signed neg enc, flagIf nx fNX ||| flagIf (tiny && nx) fUF)

/-- A value rounded to a format: NaN canonical (the caller raises NV), infinities kept where the format has them. -/
def FF.result (f : FF) (mode : RMode) (ftz : Bool) (v : FVal) : Nat × Flags :=
  match v with
  | .nan _ => (f.canon, 0)
  | .inf neg => ((f.inf.map (f.signed neg)).getD (f.signed neg f.big), 0)
  | .fin neg m e => f.round mode ftz false neg m e false 0

/-! ## Conversions (R76) -/

/-- A value converted to a floating format, plain or saturating. -/
def FF.convert (f : FF) (mode : RMode) (ftz sat : Bool) (v : FVal) (draw : Nat) : Nat × Flags :=
  match v with
  | .nan sig => if f.w = 4 then (0, fNV) else (f.canon, flagIf sig fNV)
  | .inf neg =>
    match f.inf with
    | some i => if sat then (f.signed neg f.big, fNV) else (f.signed neg i, 0)
    | none => if sat || f.w = 4 then (f.signed neg f.big, fNV) else (f.canon, fNV)
  | .fin neg m e => f.round mode ftz sat neg m e false draw

/-- An exact value rounded to an integer, and whether it changed. -/
def roundInt (mode : RMode) (neg : Bool) (mag : Nat) (exp : Int) : Int × Bool :=
  let (n, nx) := onGrid mode neg mag exp 0 false 0
  (if neg then -(n : Int) else n, nx)

/-- A value converted to an integer format under RM; out of range it is clamped with NV alone. -/
def IFm.convert (i : IFm) (mode : RMode) (v : FVal) : Nat × Flags :=
  match v with
  | .nan _ => (0, fNV)
  | .inf neg => (i.encode (if neg then i.lo else i.hi), fNV)
  | .fin neg m e =>
    let (n, nx) := roundInt mode.plain neg m e
    if n < i.lo ∨ i.hi < n then (i.encode (i.clamp n), fNV) else (i.encode n, flagIf nx fNX)

/-- Integer to integer: the low bits in the plain form, clamped with SAT in the saturating form. -/
def IFm.narrow (i : IFm) (sat : Bool) (v : Int) : Nat × Flags :=
  if sat && (decide (v < i.lo) || decide (i.hi < v)) then (i.encode (i.clamp v), fSAT) else (i.encode v, 0)

/-- Whether roundings to a format draw under SR (R71). -/
def Fmt.draws : Fmt → Bool
  | .flt f => !f.flushes
  | _ => false

/-- The mode a conversion to a floating format uses: SR only where it draws (R71). -/
def FF.modeFor (f : FF) (m : RMode) : RMode := if f.flushes then m.plain else m

/-! ## The cb2 codebook (R64) -/

/-- The signs of coordinates 0 to 6 of an index, and their parity. -/
def cb2Neg (x : Nat) : Bool := (List.range 7).foldl (fun b j => b != x.testBit (1 + j)) false

/-- Twice weight `j` of an index (R64). -/
def cb2Twice (x j : Nat) : Int :=
  let m : Int := (if x.testBit (8 + j) then 3 else 1) - (if x.testBit 0 then 1 else 0)
  let s := if j < 7 then x.testBit (1 + j) else cb2Neg x
  if s then -m else m

/-- Weight `j` of an index, exactly. -/
def cb2Val (x j : Nat) : FVal :=
  let t := cb2Twice x j
  .fin (decide (t < 0)) t.natAbs (-1)

/-! ## The stochastic generator (R71) -/

/-- The next state of the generator. -/
def srNext (st : Word) : Word := st + 0x9E3779B97F4A7C15

/-- The draw at a state already advanced: its number is bits [63:32]. -/
def srOut (st : Word) : Word :=
  let z1 := (st ^^^ (st >>> 30)) * 0xBF58476D1CE4E5B9
  let z2 := (z1 ^^^ (z1 >>> 27)) * 0x94D049BB133111EB
  z2 ^^^ (z2 >>> 31)

/-- The numbers of the next `n` draws, and the state after them. -/
def srDraws (st : Word) : Nat → List Nat × Word
  | 0 => ([], st)
  | n + 1 =>
    let st1 := srNext st
    let (l, st2) := srDraws st1 n
    ((srOut st1).toNat / 2 ^ 32 :: l, st2)

end Sys2Proof.Machine
end

