-- ==== Sys2Proof/Config.lean ====
section
/-! DEFINITION. The free values of the model: what the spec leaves open, as constants without a body (notes/assumptions
names each). No proof can see a value of one. -/

namespace Sys2Proof

/-- The n-th free number drawn (timing within the bounds the spec gives, choices it allows). -/
opaque Config.free : Nat → Nat
/-- The n-th free choice: whether a translation still cached is used although the tables have changed (R373). -/
opaque Config.useCached : Nat → Word → Bool
/-- The n-th free choice: whether a held packet is used although memory has changed (R134). -/
opaque Config.usePacket : Nat → Word → Bool
/-- The bundle after one whose packet has no translation (R160 leaves it open). -/
opaque Config.seqOpen : Nat → Word → Word
/-- The n-th free 64-bit value. -/
opaque Config.freeWord : Nat → Word
/-- The n-th free row. -/
opaque Config.freeRow : Nat → Row
/-- The n-th free choice: whether a clean copy of a pooled line is still cached although its home has changed (R96). -/
opaque Config.useLine : Nat → Nat → Bool
/-- The bytes of a recording's log: its items, each a kind with its data, as the log lays them out (R416). -/
opaque Config.logBytes : List (Nat × List Byte) → List Byte
/-- The items that the bytes of a log hold, or nothing where they are those of a log that has stopped full (R416, R417). -/
opaque Config.logItems : List Byte → Option (List (Nat × List Byte))
/-- SHA-384 and ECDSA P-384 verification of a supervisor image against the fused key (R362). -/
opaque Config.imageVerifies : List Byte → Bool
/-- The PCIe AtomicOp sizes the host port advertised at bring-up: 32-bit, 64-bit, 128-bit (R386). -/
opaque Config.hostAtomicSupport : Nat → Bool
/-- The direction bit of the nonces of what a port sends; its other end sends under the other (R407). -/
opaque Config.linkDir : Nat → Bool

end Sys2Proof
end

