-- ==== Sys2Proof/Machine/Aes.lean ====
section
/-! DEFINITION. AES-XTS-256 of one 64-byte line (20 R378). -/

namespace Sys2Proof.Machine

/-- Doubling in GF(2^8) modulo x^8 + x^4 + x^3 + x + 1. -/
def gfDouble (a : Byte) : Byte := if a.getLsbD 7 then (a <<< 1) ^^^ 0x1B else a <<< 1

/-- Multiplication in GF(2^8), over the low `n` bits of `b`. -/
def gfMulN : Nat → Byte → Byte → Byte
  | 0, _, _ => 0
  | n + 1, a, b => (if b.getLsbD 0 then a else 0) ^^^ gfMulN n (gfDouble a) (b >>> 1)

/-- Multiplication in GF(2^8). -/
def gfMul (a b : Byte) : Byte := gfMulN 8 a b

/-- The inverse in GF(2^8) (0 for 0): the 254th power. -/
def gfInv (a : Byte) : Byte :=
  let a2 := gfMul a a
  let a4 := gfMul a2 a2
  let a8 := gfMul a4 a4
  let a16 := gfMul a8 a8
  let a32 := gfMul a16 a16
  let a64 := gfMul a32 a32
  let a128 := gfMul a64 a64
  gfMul a128 (gfMul a64 (gfMul a32 (gfMul a16 (gfMul a8 (gfMul a4 a2)))))

/-- The S-box. -/
def sbox (a : Byte) : Byte :=
  let i := gfInv a
  i ^^^ i.rotateLeft 1 ^^^ i.rotateLeft 2 ^^^ i.rotateLeft 3 ^^^ i.rotateLeft 4 ^^^ 0x63

/-- The inverse S-box. -/
def sboxInv (a : Byte) : Byte :=
  gfInv (a.rotateLeft 1 ^^^ a.rotateLeft 3 ^^^ a.rotateLeft 6 ^^^ 0x05)

/-- Bytewise exclusive or. -/
def xorBytes (a b : List Byte) : List Byte := List.zipWith (· ^^^ ·) a b

/-- The next four key bytes of the schedule: word `i` from word `i - 1` and word `i - 8`. -/
def keyWord (i : Nat) (prev old : List Byte) (rcon : Byte) : List Byte :=
  if i % 8 = 0 then
    let r := (prev.drop 1 ++ prev.take 1).map sbox
    xorBytes old (xorBytes r [rcon, 0, 0, 0])
  else if i % 8 = 4 then xorBytes old (prev.map sbox)
  else xorBytes old prev

/-- The key schedule, `n` more words after the words `ws` (newest first). -/
def keySchedule : Nat → Nat → Byte → List (List Byte) → List (List Byte)
  | 0, _, _, ws => ws
  | n + 1, i, rcon, ws =>
    let w := keyWord i (ws.getD 0 []) (ws.getD 7 []) rcon
    keySchedule n (i + 1) (if i % 8 = 0 then gfDouble rcon else rcon) (w :: ws)

/-- Split into pieces of `k` bytes. -/
def pieces (k : Nat) : Nat → List Byte → List (List Byte)
  | 0, _ => []
  | n + 1, l => l.take k :: pieces k n (l.drop k)

/-- The fifteen round keys of a 32-byte key. -/
def roundKeys (key : List Byte) : List (List Byte) :=
  let ws := (keySchedule 52 8 1 (pieces 4 8 key).reverse).reverse
  (List.range 15).map (fun r => ((ws.drop (4 * r)).take 4).flatten)

/-- One column of MixColumns with coefficients `c0..c3`. -/
def mixCol (c0 c1 c2 c3 : Byte) (col : List Byte) : List Byte :=
  (List.range 4).map (fun r =>
    let x := fun k => col.getD ((r + k) % 4) 0
    gfMul c0 (x 0) ^^^ gfMul c1 (x 1) ^^^ gfMul c2 (x 2) ^^^ gfMul c3 (x 3))

/-- ShiftRows by `d` steps (1: forward, 3: inverse). -/
def shiftRows (d : Nat) (s : List Byte) : List Byte :=
  (List.range 16).map (fun i => s.getD ((i / 4 + d * (i % 4)) % 4 * 4 + i % 4) 0)

/-- AES-256 encryption of one block. -/
def aesEnc (key blk : List Byte) : List Byte :=
  let ks := roundKeys key
  let s0 := xorBytes blk (ks.getD 0 [])
  let s13 := (List.range 13).foldl (fun s r =>
    xorBytes ((pieces 4 4 (shiftRows 1 (s.map sbox))).map (mixCol 2 3 1 1)).flatten (ks.getD (r + 1) [])) s0
  xorBytes (shiftRows 1 (s13.map sbox)) (ks.getD 14 [])

/-- AES-256 decryption of one block. -/
def aesDec (key blk : List Byte) : List Byte :=
  let ks := roundKeys key
  let s0 := (shiftRows 3 (xorBytes blk (ks.getD 14 []))).map sboxInv
  let s13 := (List.range 13).foldl (fun s r =>
    let m := ((pieces 4 4 (xorBytes s (ks.getD (13 - r) []))).map (mixCol 14 11 13 9)).flatten
    (shiftRows 3 m).map sboxInv) s0
  xorBytes s13 (ks.getD 0 [])

/-- Doubling of a tweak in GF(2^128), little-endian. -/
def tweakDouble (t : BitVec 128) : BitVec 128 := (t <<< 1) ^^^ (if t.getLsbD 127 then 0x87 else 0)

/-- XTS over the blocks of a line: `f` is the block cipher under the data key. -/
def xtsBlocks (f : List Byte → List Byte) : Nat → BitVec 128 → List Byte → List Byte
  | 0, _, _ => []
  | n + 1, t, l =>
    let tb := leBytes 16 t.toNat
    xorBytes (f (xorBytes (l.take 16) tb)) tb ++ xtsBlocks f n (tweakDouble t) (l.drop 16)

/-- The first tweak of the line at pooled address `a`. -/
def xtsTweak (key : BitVec 512) (a : Nat) : BitVec 128 :=
  BitVec.ofNat 128 (ofBytes (aesEnc (leBytes 32 (key.toNat / 2 ^ 256)) (leBytes 16 a)))

/-- The 64 bytes of a line encrypted (R378): the data key is the low half of the material, the tweak key the high. -/
def xtsEnc (key : BitVec 512) (a : Nat) (l : List Byte) : List Byte :=
  xtsBlocks (aesEnc (leBytes 32 (key.toNat % 2 ^ 256))) 4 (xtsTweak key a) l

/-- The 64 bytes of a line decrypted. -/
def xtsDec (key : BitVec 512) (a : Nat) (l : List Byte) : List Byte :=
  xtsBlocks (aesDec (leBytes 32 (key.toNat % 2 ^ 256))) 4 (xtsTweak key a) l

end Sys2Proof.Machine
end

