-- ==== Sys2Proof/Syntax.lean ====
section
/-! DEFINITION. The syntax of the Z2's operations: one constructor per row of spec/opcode_table.json. 239
are instruction words of encoding version 3 (06 R145-R153), 12 the matrix unit's routine steps (10 R232), and the last
90 the events of the device (95_what_each_step_holds.md). Constructors without operands stand after those with operands. An instruction's chain bit C (R138) belongs to its bundle
and is no field of it. -/

namespace Sys2Proof

/-- What a PEER access asks of the home it reaches (R375). -/
inductive PeerOp where
  | read (n : Nat)
  | write (data : List Byte)
  | atomic (fn : BitVec 5) (sz : BitVec 1) (b c : Word)
  /-- the lanes of a VAMO at one device: target type and address of each, with its operand -/
  | vamo (op : BitVec 3) (lanes : List (BitVec 3 × BitVec 52 × Word))
  /-- an arrival on an object, with a status merged first (R276, R277) -/
  | arrive (status : Option Word)
  deriving DecidableEq, Repr

/-- What management messages say of a launch, named by its partition with its id (R22, R23, R359, R365, R408): its packet, replicated;
a device in the start barrier, with the generation number and its incarnation; a refused copy; an abort; a teardown; the end on a
device. -/
inductive Manage where
  | replica (packet : List Byte)
  | entered (dom : BitVec 36) (gen : BitVec 32) (inc : BitVec 4)
  | refused (dom : BitVec 36) (status : Word)
  | aborted (dom : BitVec 36)
  | teardown (dom : BitVec 36)
  | ended (dom : BitVec 36)
  deriving DecidableEq, Repr

/-- The body of a message a frame's beats carry (R402, R404): a request names a place of its destination by target type, an own
scratchpad address (2) or an offset in the peer aperture (4), and address. -/
inductive MsgBody where
  | request (tt : BitVec 3) (pa : BitVec 52) (op : PeerOp)
  | response (data : List Byte) (poison : Bool)
  | rejoin
  | manage (m : Manage)
  deriving DecidableEq, Repr

/-- A message, with the sequence number of its ordered pair of devices (R404). -/
structure Msg where
  msn : BitVec 32
  body : MsgBody
  deriving DecidableEq, Repr

/-- An Evmatal frame as its receiver checks it (R402): the header fields, whether FCS and tag are intact, the key and the nonce it was
sealed under (R407), and the messages its beats carry. -/
structure Frame where
  fcsOk : Bool
  etherType : BitVec 16
  dst : BitVec 17
  src : BitVec 17
  cls : BitVec 2
  inc : BitVec 4
  flow : BitVec 8
  lseq : BitVec 24
  lack : BitVec 24
  kidx : BitVec 1
  rsv : BitVec 15
  tagOk : Bool
  key : BitVec 256
  nonce : BitVec 96
  msgs : List Msg
  deriving DecidableEq, Repr

/-- How the host answers a request of the device (R385, R270, R386). -/
inductive HostResp where
  /-- ownership granted, or the access completed -/
  | ok
  /-- Unsupported Request -/
  | unsupported
  /-- Completer Abort -/
  | abort
  deriving DecidableEq, Repr

/-- The operations of the Z2. -/
inductive Instr where
  -- SALU, major 1 (R166-R170)
  | add (d a b : BitVec 5) (wa wb : BitVec 1)
  | sub (d a b : BitVec 5) (wa wb : BitVec 1)
  | and_ (d a b : BitVec 5) (wa wb : BitVec 1)
  | or_ (d a b : BitVec 5) (wa wb : BitVec 1)
  | xor_ (d a b : BitVec 5) (wa wb : BitVec 1)
  | andn (d a b : BitVec 5) (wa wb : BitVec 1)
  | orn (d a b : BitVec 5) (wa wb : BitVec 1)
  | shl (d a b : BitVec 5) (wa wb : BitVec 1)
  | shr (d a b : BitVec 5) (wa wb : BitVec 1)
  | sra (d a b : BitVec 5) (wa wb : BitVec 1)
  | ror (d a b : BitVec 5) (wa wb : BitVec 1)
  | mul (d a b : BitVec 5) (wa wb : BitVec 1)
  | mulh (d a b : BitVec 5) (wa wb : BitVec 1)
  | mulhu (d a b : BitVec 5) (wa wb : BitVec 1)
  | div (d a b : BitVec 5) (wa wb : BitVec 1)
  | divu (d a b : BitVec 5) (wa wb : BitVec 1)
  | rem (d a b : BitVec 5) (wa wb : BitVec 1)
  | remu (d a b : BitVec 5) (wa wb : BitVec 1)
  | min (d a b : BitVec 5) (wa wb : BitVec 1)
  | max (d a b : BitVec 5) (wa wb : BitVec 1)
  | minu (d a b : BitVec 5) (wa wb : BitVec 1)
  | maxu (d a b : BitVec 5) (wa wb : BitVec 1)
  | slt (d a b : BitVec 5) (wa wb : BitVec 1)
  | sltu (d a b : BitVec 5) (wa wb : BitVec 1)
  | seq (d a b : BitVec 5) (wa wb : BitVec 1)
  | sne (d a b : BitVec 5) (wa wb : BitVec 1)
  | clz (d a : BitVec 5) (wa : BitVec 1)
  | ctz (d a : BitVec 5) (wa : BitVec 1)
  | popc (d a : BitVec 5) (wa : BitVec 1)
  | sext (d a : BitVec 5) (wa : BitVec 1) (sb : BitVec 3)
  | zext (d a : BitVec 5) (wa : BitVec 1) (sb : BitVec 3)
  | cmovz (d a b : BitVec 5) (wa wb : BitVec 1)
  | cmovnz (d a b : BitVec 5) (wa wb : BitVec 1)
  | lea (d a b : BitVec 5) (wa wb : BitVec 1) (sb : BitVec 3)
  | addw (d a b : BitVec 5) (wa wb : BitVec 1)
  | subw (d a b : BitVec 5) (wa wb : BitVec 1)
  | mulw (d a b : BitVec 5) (wa wb : BitVec 1)
  | shlw (d a b : BitVec 5) (wa wb : BitVec 1)
  | shrw (d a b : BitVec 5) (wa wb : BitVec 1)
  | sraw (d a b : BitVec 5) (wa wb : BitVec 1)
  | bswap (d a : BitVec 5) (wa : BitVec 1)
  -- SIMM, major 2 (R171)
  | addi (d a : BitVec 5) (imm : BitVec 13)
  | andi (d a : BitVec 5) (imm : BitVec 13)
  | ori (d a : BitVec 5) (imm : BitVec 13)
  | xori (d a : BitVec 5) (imm : BitVec 13)
  | slti (d a : BitVec 5) (imm : BitVec 13)
  | sltiu (d a : BitVec 5) (imm : BitVec 13)
  | shli (d a : BitVec 5) (n : BitVec 6)
  | shri (d a : BitVec 5) (n : BitVec 6)
  | srai (d a : BitVec 5) (n : BitVec 6)
  -- MOVI, major 3 (R172)
  | movz (d : BitVec 5) (hw : BitVec 2) (imm : BitVec 16)
  | movk (d : BitVec 5) (hw : BitVec 2) (imm : BitVec 16)
  | movn (d : BitVec 5) (hw : BitVec 2) (imm : BitVec 16)
  -- MOVL, major 4, with the literal of the extension word (R173)
  | movl (d : BitVec 5) (x : BitVec 32)
  | movlS (d : BitVec 5) (x : BitVec 32)
  | movlh (d : BitVec 5) (x : BitVec 32)
  -- BRANCH, major 5 (R174)
  | beqz (an : BitVec 2) (a : BitVec 5) (disp : BitVec 16)
  | bnez (an : BitVec 2) (a : BitVec 5) (disp : BitVec 16)
  | bltz (an : BitVec 2) (a : BitVec 5) (disp : BitVec 16)
  | bgez (an : BitVec 2) (a : BitVec 5) (disp : BitVec 16)
  | bgtz (an : BitVec 2) (a : BitVec 5) (disp : BitVec 16)
  | blez (an : BitVec 2) (a : BitVec 5) (disp : BitVec 16)
  | bbs (an : BitVec 2) (a : BitVec 5) (disp : BitVec 16)
  | bbc (an : BitVec 2) (a : BitVec 5) (disp : BitVec 16)
  -- JUMP, major 6 (R175)
  | jmp (disp : BitVec 25)
  | jal (disp : BitVec 25)
  -- CTRL, major 7 (R176-R185)
  | jalr (d a : BitVec 5) (wa : BitVec 1)
  | trap (b : BitVec 5) (sb : BitVec 3)
  | susp (a : BitVec 5) (sb : BitVec 3)
  | csrr (d : BitVec 5) (n : BitVec 10)
  | csrw (d : BitVec 5) (n : BitVec 10)
  | csrx (d : BitVec 5) (n : BitVec 10)
  -- the REP prefix, major 8 (R187)
  | rep (cnt : BitVec 6) (creg : BitVec 1) (stp : BitVec 4) (stride : BitVec 2) (ke : BitVec 1) (k : BitVec 3)
  -- LOAD, major 9 (R255)
  | ld (d base : BitVec 5) (sz : BitVec 2) (zx : BitVec 1) (off : BitVec 9)
  | ldAcq (d base : BitVec 5) (sz : BitVec 2) (zx : BitVec 1) (sc : BitVec 2) (off : BitVec 9)
  -- STORE, major 10 (R255)
  | st (d base : BitVec 5) (sz : BitVec 2) (off : BitVec 9)
  | stRel (d base : BitVec 5) (sz sc : BitVec 2) (off : BitVec 9)
  -- ROWMEM, major 11 (R258)
  | ldr (t : BitVec 4) (row : BitVec 6) (base : BitVec 5) (off : BitVec 8)
  | str (t : BitVec 4) (row : BitVec 6) (base : BitVec 5) (off : BitVec 8)
  | ldrd (t : BitVec 4) (row : BitVec 6) (base : BitVec 5) (off : BitVec 8)
  | strd (t : BitVec 4) (row : BitVec 6) (base : BitVec 5) (off : BitVec 8)
  | ldrb (t : BitVec 4) (row : BitVec 6) (base : BitVec 5) (off : BitVec 8)
  | pft (base : BitVec 5) (off : BitVec 8)
  -- ATOM, major 12 (R263, R267)
  | aadd (d a b : BitVec 5) (sz : BitVec 1)
  | aand (d a b : BitVec 5) (sz : BitVec 1)
  | aor (d a b : BitVec 5) (sz : BitVec 1)
  | axor (d a b : BitVec 5) (sz : BitVec 1)
  | amin (d a b : BitVec 5) (sz : BitVec 1)
  | amax (d a b : BitVec 5) (sz : BitVec 1)
  | aminu (d a b : BitVec 5) (sz : BitVec 1)
  | amaxu (d a b : BitVec 5) (sz : BitVec 1)
  | aswap (d a b : BitVec 5) (sz : BitVec 1)
  | acas (d a b c : BitVec 5) (sz : BitVec 1)
  | aqinc (d a b : BitVec 5) (sz : BitVec 1)
  | aqwrap (d a b : BitVec 5) (sz : BitVec 1)
  | aqdec (d a : BitVec 5) (sz : BitVec 1)
  | aqaddl (d a b : BitVec 5)
  | aqchunk (d a b : BitVec 5)
  | afadd (d a b : BitVec 5) (sz : BitVec 1)
  | vamo (op : BitVec 3) (td ta tb : BitVec 4) (row : BitVec 6)
  -- SYNC, major 13 (R271)
  | fence (ord sc : BitVec 2)
  | relt (a b : BitVec 5) (sc : BitVec 2)
  | acqt (a b : BitVec 5) (sc : BitVec 2)
  | arrb (d a : BitVec 5)
  | waitb (d a b : BitVec 5)
  | waita (d a b : BitVec 5) (ord sc : BitVec 2)
  | evset (a : BitVec 5) (ord sc : BitVec 2)
  | evclr (a : BitVec 5) (ord sc : BitVec 2)
  | evwait (d a : BitVec 5) (ord sc : BitVec 2)
  | swin (d a b : BitVec 5) (sc : BitVec 2)
  | swclose (d a : BitVec 5)
  -- ENG, major 14 (R284)
  | acopy (d a : BitVec 5)
  | agather (d a b : BitVec 5)
  | ascatter (d a b : BitVec 5)
  | acoll (d a b : BitVec 5)
  | sbind (d a : BitVec 5)
  | sunb (d a : BitVec 5)
  | anote (d a b c : BitVec 5)
  | acancel (d : BitVec 5)
  -- TASK, major 15 (R298)
  | tspawn (d a b c : BitVec 5)
  | tabort (a : BitVec 5)
  | twait (d a : BitVec 5)
  | tinfo (d a : BitVec 5)
  -- ROW3A, major 16 (R197)
  | vadd (typ : BitVec 3) (td ta tb : BitVec 4) (row : BitVec 6)
  | vsub (typ : BitVec 3) (td ta tb : BitVec 4) (row : BitVec 6)
  | vmul (typ : BitVec 3) (td ta tb : BitVec 4) (row : BitVec 6)
  | vfma (typ : BitVec 3) (td ta tb : BitVec 4) (row : BitVec 6)
  | vfms (typ : BitVec 3) (td ta tb : BitVec 4) (row : BitVec 6)
  | vfnma (typ : BitVec 3) (td ta tb : BitVec 4) (row : BitVec 6)
  | vmin (typ : BitVec 3) (td ta tb : BitVec 4) (row : BitVec 6)
  | vmax (typ : BitVec 3) (td ta tb : BitVec 4) (row : BitVec 6)
  | vdiv (typ : BitVec 3) (td ta tb : BitVec 4) (row : BitVec 6)
  | vand (typ : BitVec 3) (td ta tb : BitVec 4) (row : BitVec 6)
  | vor (typ : BitVec 3) (td ta tb : BitVec 4) (row : BitVec 6)
  | vxor (typ : BitVec 3) (td ta tb : BitVec 4) (row : BitVec 6)
  | vandn (typ : BitVec 3) (td ta tb : BitVec 4) (row : BitVec 6)
  | vshl (typ : BitVec 3) (td ta tb : BitVec 4) (row : BitVec 6)
  | vshr (typ : BitVec 3) (td ta tb : BitVec 4) (row : BitVec 6)
  | vsra (typ : BitVec 3) (td ta tb : BitVec 4) (row : BitVec 6)
  | vceq (typ : BitVec 3) (td ta tb : BitVec 4) (row : BitVec 6)
  | vclt (typ : BitVec 3) (td ta tb : BitVec 4) (row : BitVec 6)
  | vcle (typ : BitVec 3) (td ta tb : BitVec 4) (row : BitVec 6)
  | vcne (typ : BitVec 3) (td ta tb : BitVec 4) (row : BitVec 6)
  | vadds (typ : BitVec 3) (td ta tb : BitVec 4) (row : BitVec 6)
  | vsubs (typ : BitVec 3) (td ta tb : BitVec 4) (row : BitVec 6)
  | vmulh (typ : BitVec 3) (td ta tb : BitVec 4) (row : BitVec 6)
  | vabsd (typ : BitVec 3) (td ta tb : BitVec 4) (row : BitVec 6)
  | vsel (typ : BitVec 3) (td ta tb : BitVec 4) (row : BitVec 6)
  | vcopysign (typ : BitVec 3) (td ta tb : BitVec 4) (row : BitVec 6)
  -- ROW3B, major 17 (R201)
  | vabs (typ : BitVec 3) (td ta : BitVec 4) (row : BitVec 6)
  | vneg (typ : BitVec 3) (td ta : BitVec 4) (row : BitVec 6)
  | vsqrt (typ : BitVec 3) (td ta : BitVec 4) (row : BitVec 6)
  | vrcp (typ : BitVec 3) (td ta : BitVec 4) (row : BitVec 6)
  | vrsq (typ : BitVec 3) (td ta : BitVec 4) (row : BitVec 6)
  | vexp2 (typ : BitVec 3) (td ta : BitVec 4) (row : BitVec 6)
  | vlog2 (typ : BitVec 3) (td ta : BitVec 4) (row : BitVec 6)
  | vtanh (typ : BitVec 3) (td ta : BitVec 4) (row : BitVec 6)
  | vfloor (typ : BitVec 3) (td ta : BitVec 4) (row : BitVec 6)
  | vceil (typ : BitVec 3) (td ta : BitVec 4) (row : BitVec 6)
  | vrint (typ : BitVec 3) (td ta : BitVec 4) (row : BitVec 6)
  | vcvt (typ : BitVec 3) (td ta tb : BitVec 4) (row : BitVec 6)
  | vcvts (typ : BitVec 3) (td ta tb : BitVec 4) (row : BitVec 6)
  | vclz (typ : BitVec 3) (td ta : BitVec 4) (row : BitVec 6)
  | vpopc (typ : BitVec 3) (td ta : BitVec 4) (row : BitVec 6)
  | vnot (typ : BitVec 3) (td ta : BitVec 4) (row : BitVec 6)
  | vscan (typ : BitVec 3) (td ta : BitVec 4) (row : BitVec 6)
  | vscanmax (typ : BitVec 3) (td ta : BitVec 4) (row : BitVec 6)
  | vsegscan (typ : BitVec 3) (td ta : BitVec 4) (row : BitVec 6)
  | vclass (typ : BitVec 3) (td ta : BitVec 4) (row : BitVec 6)
  -- ROWX, major 18 (R206)
  | vmov (td : BitVec 4) (rd : BitVec 6) (ta : BitVec 4) (ra : BitVec 6)
  | vswap (td : BitVec 4) (rd : BitVec 6) (ta : BitVec 4) (ra : BitVec 6)
  | trn8B (td : BitVec 4) (rd : BitVec 6) (ta : BitVec 4) (ra : BitVec 6)
  | trn8H (td : BitVec 4) (rd : BitVec 6) (ta : BitVec 4) (ra : BitVec 6)
  | trn8W (td : BitVec 4) (rd : BitVec 6) (ta : BitVec 4) (ra : BitVec 6)
  | vrev (td : BitVec 4) (rd : BitVec 6) (ta : BitVec 4) (ra : BitVec 6)
  | vzero (td : BitVec 4) (rd : BitVec 6)
  | tzero (td : BitVec 4)
  | tmov (td ta : BitVec 4)
  -- ROWS, major 19 (R209)
  | vbcast (typ : BitVec 3) (t : BitVec 4) (row : BitVec 6) (s : BitVec 5)
  | vextr (typ : BitVec 3) (t : BitVec 4) (row : BitVec 6) (s : BitVec 5)
  | vredadd (typ : BitVec 3) (t : BitVec 4) (row : BitVec 6) (s : BitVec 5)
  | vredmax (typ : BitVec 3) (t : BitVec 4) (row : BitVec 6) (s : BitVec 5)
  | vredmin (typ : BitVec 3) (t : BitVec 4) (row : BitVec 6) (s : BitVec 5)
  | viota (typ : BitVec 3) (t : BitVec 4) (row : BitVec 6) (s : BitVec 5)
  | kfromrow (typ : BitVec 3) (t : BitVec 4) (row : BitVec 6) (k : BitVec 3)
  | ktorow (typ : BitVec 3) (t : BitVec 4) (row : BitVec 6) (k : BitVec 3)
  | kpopc (typ : BitVec 3) (s : BitVec 5) (k : BitVec 3)
  | kfirst (typ : BitVec 3) (s : BitVec 5) (k : BitVec 3)
  | kmovs (q : BitVec 2) (s : BitVec 5) (k : BitVec 3)
  | kmovd (q : BitVec 2) (s : BitVec 5) (k : BitVec 3)
  | kand (kt ks k : BitVec 3)
  | kor (kt ks k : BitVec 3)
  | kxor (kt ks k : BitVec 3)
  | knot (kt k : BitVec 3)
  -- PERM, major 20 (R216)
  | pload (pd : BitVec 3) (t : BitVec 4) (row : BitVec 6) (s : BitVec 5)
  | pstore (pa : BitVec 3) (t : BitVec 4) (row : BitVec 6)
  | pgetr (pa : BitVec 3) (t : BitVec 4) (row : BitVec 6)
  | psetr (pd : BitVec 3) (t : BitVec 4) (row : BitVec 6)
  | pcomp (pd pa pb : BitVec 3)
  | pinv (pd pa : BitVec 3)
  | prand (pd : BitVec 3) (s : BitVec 5)
  | pid (pd : BitVec 3)
  | pmov (pd pa : BitVec 3)
  | pcyc (pa : BitVec 3) (s : BitVec 5)
  | pfix (pa : BitVec 3) (s : BitVec 5)
  | pord (pa : BitVec 3) (s : BitVec 5)
  | pclen (pa : BitVec 3) (s : BitVec 5)
  | peq (pa pb : BitVec 3) (s : BitVec 5)
  | papplyR (pa : BitVec 3) (td ta : BitVec 4)
  | papplyL (pa : BitVec 3) (td ta : BitVec 4) (row : BitVec 6)
  -- MATRIX, major 21 (R244)
  | mcall (idx : BitVec 8) (obj : BitVec 5) (fl : BitVec 3)
  | mpset (ma : BitVec 3) (s : BitVec 5)
  | mpget (ma : BitVec 3) (s : BitVec 5)
  | mtset (t : BitVec 4) (s a : BitVec 5)
  | mtget (t : BitVec 4) (s : BitVec 5)
  | mtclr (t : BitVec 4)
  | mloadp (s a : BitVec 5)
  | mbmap (t : BitVec 4)
  -- SYS, major 22 (R346)
  | pcsrr (d : BitVec 5) (n : BitVec 10)
  | pcsrw (d : BitVec 5) (n : BitVec 10)
  | tlbinv (a b : BitVec 5) (wa wb : BitVec 1)
  | strstart (d a : BitVec 5) (wa : BitVec 1)
  | strstop (a : BitVec 5) (wa : BitVec 1)
  -- the matrix routine steps, 64 bits (R232)
  | zero (m : BitVec 3) (keep : BitVec 1)
  | lda (m : BitVec 3) (rf rc : BitVec 6) (kb kn : BitVec 10)
  | ldb (m : BitVec 3) (rf rc : BitVec 6) (kb kn : BitVec 10)
  | mac (sp : BitVec 1) (kb kn : BitVec 10)
  | bmap (a b : BitVec 1)
  | loop (c : BitVec 2) (cnt : BitVec 16) (back : BitVec 12)
  | adv (m : BitVec 3) (mode : BitVec 2) (s : BitVec 16)
  | perm (p : BitVec 3)
  | out (m : BitVec 3) (fmt : BitVec 4) (sat : BitVec 1) (rnd : BitVec 3) (rf rc : BitVec 6) (osh : BitVec 8)
  | sig (stop : BitVec 1) (msk : BitVec 4)
  -- the instruction words and steps without operands
  | nop
  | brk
  | yield
  | exit
  | quant
  | ifence
  | acancelAll
  | tend
  | tserial
  | mfencep
  | sret
  | tlbsync
  | ctxsave
  | ctxload
  | wfi
  | haltc
  | end_
  | dec
  -- the events of the device (the table's rows without an encoding); the operands
  -- of an event, what the environment brings, stand in State.ev
  /-- fetch of the packet holding addr completes or faults (R139) -/
  | packetFetch
  /-- a word that is no instruction traps at its bundle (R154) -/
  | illegalOpcode
  /-- a malformed bundle traps before issue (R142) -/
  | illegalBundle
  /-- an annulled delay bundle takes its issue cycle (R162) -/
  | annulledBundle
  /-- a further repetition of a REP target comes up (R191) -/
  | repRepetition
  /-- results in flight age by one issue cycle and land (R43) -/
  | resultLanding
  /-- the i-th delivery in flight arrives (R15) -/
  | longLatencyDelivery
  /-- the bodkin delivers a solve (R219) -/
  | solveDelivery
  /-- the core freezes for two wall cycles (R48) -/
  | refresh
  /-- short-lived rows past their count expire (R49) -/
  | rowExpiry
  /-- a bundle blocked 64 issue cycles suspends its strand (R41) -/
  | blockSuspend
  /-- a task held at an irrevocable operation suspends (R310) -/
  | irrevocableSuspend
  /-- a held TSERIAL suspends (R322) -/
  | tserialSuspend
  /-- a TSPAWN held for an id suspends (R11) -/
  | tspawnIdSuspend
  /-- the core takes a ready strand (R354) -/
  | dispatch
  /-- the context engine saves the other resident (R394) -/
  | contextSave
  /-- a die moves an entry to a cluster (R352) -/
  | queueTransfer
  /-- an idle die takes another die's oldest entry (R352) -/
  | dieSteal
  /-- entries waiting 2^14 wall cycles rise a level (R27) -/
  | agingPromotion
  /-- a spent quantum pre-empts or traps (R355) -/
  | quantumExpiry
  /-- a wait's first read is taken at its home (R279) -/
  | waitRequest
  /-- the i-th request, an arrival, is performed at its object (R276) -/
  | objectArrival
  /-- a parked strand whose condition holds becomes READY (R28) -/
  | wake
  /-- a wait whose WTO has passed ends (R279) -/
  | waitTimeout
  /-- the i-th request, an atomic, is performed at its home (R265) -/
  | atomicPerform
  /-- a core asks for a window tile (R100) -/
  | tileRequest
  /-- a remote replica is granted or renewed (R104, R105) -/
  | leaseRenewal
  /-- a modified line is written back (R94) -/
  | lineWriteback
  /-- an in-bound stream reads a row ahead (R109) -/
  | streamPrefetch
  /-- the oldest MLOADP copy writes its steps (R231) -/
  | mloadpCopy
  /-- a queued matrix call starts (R245) -/
  | matrixCallStart
  /-- the matrix call that has ended delivers and completes (R247) -/
  | matrixCallEnd
  /-- an engine operation ends (R285) -/
  | engineCompletion
  /-- the head arrival entry becomes a handler strand (R113) -/
  | arrivalHandlerCreate
  /-- DONE tasks commit in key order (R313) -/
  | seamPulse
  /-- a FAULTED task that is the oldest is queued again (R312) -/
  | faultedTaskRequeue
  /-- an uncorrectable error is found (R396, R413) -/
  | uncorrectableError
  /-- a machine check is taken to S (R396) -/
  | machineCheck
  /-- a task over RETRYMAX is reported (R397) -/
  | retryExhausted
  /-- a single-stepped strand stops (R399) -/
  | stepStop
  /-- a strand stops at the break address (R399) -/
  | addressBreak
  /-- a stuck partition is reported (R367) -/
  | deadlock
  /-- command (R358) -/
  | launch
  /-- a replicated packet arrives (R22) -/
  | launchReplica
  /-- a device reports at a start barrier (R22) -/
  | startBarrier
  /-- a start barrier is open for 10 ms (R22) -/
  | startTimeout
  /-- a launch with nothing left completes (R359) -/
  | launchEnd
  /-- command (R364) -/
  | preempt
  /-- command (R361) -/
  | resume
  /-- command (R365) -/
  | teardown
  /-- command (R366) -/
  | resetq
  /-- command (R422) -/
  | query
  /-- command (R400) -/
  | step
  /-- command (R401) -/
  | break_
  /-- command (R416) -/
  | record
  /-- command (R417) -/
  | replay
  /-- command (R362) -/
  | partition
  /-- command (R380) -/
  | keyload
  /-- command (R384) -/
  | bias
  /-- command (R413) -/
  | errlog
  /-- a slot with an unassigned op completes (R361) -/
  | unknownCommand
  /-- a write of RPLN takes effect (R343) -/
  | rplnWrite
  /-- a write of ARRF takes effect (R421) -/
  | arrfWrite
  /-- a write of DMCFG takes effect (R377) -/
  | dmcfgWrite
  /-- a write of dlo, dhi or shb (R376) -/
  | describedRangeWrite
  /-- a write of EINJ (R415) -/
  | einjWrite
  /-- a write of a device register (R374) -/
  | registerWrite
  /-- a PEER access reaches this device's aperture (R375) -/
  | peerRequest
  /-- the host reads the HDM window (R383) -/
  | hostRead
  /-- the host writes the HDM window (R383) -/
  | hostWrite
  /-- the host snoops a HOST line (R385) -/
  | hostSnoop
  /-- an Evmatal frame arrives (R402) -/
  | frameReceive
  /-- a retry request arrives (R406) -/
  | linkRetry
  /-- firmware rotates a link key (R407) -/
  | keyRotation
  /-- a message had no response for 100 us (R404) -/
  | messageResend
  /-- the device recovers without a power cycle (R411, R412) -/
  | deviceRecovery
  /-- a recovered peer rejoins (R412) -/
  | rejoin
  /-- pod-time offset exceeds 50 ns (R409) -/
  | ptimeOutOfBound
  /-- the next bring-up step runs (R418) -/
  | powerUp
  /-- bring-up loads the supervisor image (R418) -/
  | supervisorImageLoad
  /-- a management request is answered (R419) -/
  | pldmRequest
  /-- a lease passes at its home (R106) -/
  | leaseExpiry
  /-- the i-th request, a load or store, is performed (R92) -/
  | accessAtHome
  /-- the i-th acknowledgement reaches its strand (R130) -/
  | writeAcknowledgement
  /-- the host answers the i-th request (R385, R270) -/
  | hostResponse
  /-- a corrected error is logged (R413) -/
  | correctedError
  /-- a peer did not answer REJOIN (R412) -/
  | rejoinTimeout
  /-- a link returns to service (R406) -/
  | linkRetrained
  /-- pod-time offset is back within 50 ns (R409) -/
  | ptimeWithinBound
  /-- the package loses power (R419) -/
  | powerLoss
  deriving DecidableEq, Repr

end Sys2Proof
end

