-- ==== Sys2Proof/Machine/State.lean ====
section
/-! DEFINITION. The machine's state, as plain data: everything the spec gives the core under study, the units it shares,
its cluster, the homes of memory, the firmware's tables, the host side and the fabric (INVENTORY.md lists each with its
rule), and the state after reset. -/

namespace Sys2Proof.Machine

/-! ## Registers (02) -/

/-- The four register states (R38). -/
inductive RegState where
  | full | empty | expired | poisoned
  deriving DecidableEq, Repr

/-- A scalar register with its state (R32, R38). -/
structure Scalar where
  v : Word := 0
  st : RegState := .full
  deriving DecidableEq, Repr

/-- A tile row with its state and the wall cycle from which a short-lived row counts (R38, R49). -/
structure RowReg where
  v : Row := 0
  st : RegState := .full
  wr : Nat := 0
  deriving DecidableEq, Repr

/-- A tile: rows, live bit (R34), TATTR (R35), TSW (R36), element bitmap, one bit per element of each row (R37). -/
structure Tile where
  rows : Vector RowReg 64 := Vector.replicate 64 {}
  live : Bool := false
  attr : BitVec 32 := 0
  tsw : BitVec 32 := 0
  bm : Vector (BitVec 512) 64 := Vector.replicate 64 0
  deriving DecidableEq, Repr

/-- A permutation register: its switch settings, FULL or EMPTY (R38, R212). -/
structure PermReg where
  v : Switches := 0
  full : Bool := true
  deriving DecidableEq, Repr

/-- A register that a result can be written to. -/
inductive Dest where
  | s (r : BitVec 5)
  | row (t : BitVec 4) (r : BitVec 6)
  | k (r : BitVec 3)
  | p (r : BitVec 3)
  | ma (r : BitVec 3)
  deriving DecidableEq, Repr

/-- What lands at the end of an issue cycle: a result (only the bytes `sel` selects are written, R47), a tile cleared but for
the rows in `keep`, a destination marked EMPTY, a CSR written (R185), flags ORed into FFL (R83), the generator state of R71,
a tile's attributes with its bitmap if it changes, the same but for sl as TMOV copies them (R208), a TSW ORed or cleared. -/
inductive Eff where
  | write (d : Dest) (v : Row) (sel : Mask) (poison : Bool)
  | zeroTile (t : BitVec 4) (keep : BitVec 64)
  | mark (d : Dest)
  | csr (n : BitVec 10) (v : Word)
  | flags (f : BitVec 6)
  | gen (v : Word)
  | attr (t : BitVec 4) (v : BitVec 32) (bm : Option (Vector (BitVec 512) 64))
  | moved (t : BitVec 4) (v : BitVec 32) (bm : Option (Vector (BitVec 512) 64))
  | tsw (t : BitVec 4) (clear : Bool) (v : BitVec 32)
  deriving DecidableEq, Repr

/-- A result in flight with its remaining issue cycles, counted from the coming bundle boundary (R43, R50). -/
structure Pend where
  rem : Nat
  eff : Eff
  deriving DecidableEq, Repr

/-- The user CSRs that a context saves (R55, R186), with the generator state of R71 beside SRS. -/
structure UCsr where
  rm : Word := 0
  ffl : Word := 0
  repc : Word := 0
  vap : Word := 0
  wto : Word := 0
  utvec : Word := 0
  ucause : Word := 0
  uepc : Word := 0
  unpc : Word := 0
  unnpc : Word := 0
  utval : Word := 0
  srs : Word := 0
  gen : Word := 0
  deriving DecidableEq, Repr

/-- The privileged CSRs of a context (R342). -/
structure SCsr where
  sstatus : Word := 0
  stvec : Word := 0
  scause : Word := 0
  sepc : Word := 0
  snpc : Word := 0
  snnpc : Word := 0
  stval : Word := 0
  satp : Word := 0
  retrymax : Word := 3
  quantum : Word := 0
  qcnt : Word := 0
  pmask : Word := 0xF
  sscratch : Word := 0
  srec : Word := 0
  simg : Word := 0
  deriving DecidableEq, Repr

/-! ## Physical locations and requests (04, 11) -/

/-- A physical location: target type and address (R86), with the C and D bits and key id of its page (R370). -/
structure Phys where
  tt : BitVec 3
  pa : BitVec 52
  c : Bool := false
  d : Bool := false
  key : BitVec 8 := 0
  deriving DecidableEq, Repr

/-- Where the value of a load goes, and how. -/
inductive LoadTo where
  /-- a scalar, sign-extended or zero-extended from the bytes read -/
  | scalar (r : BitVec 5) (zx : Bool)
  /-- a whole row -/
  | row (t : BitVec 4) (r : BitVec 6)
  /-- one element copied into every element position (LDRB) -/
  | bcast (t : BitVec 4) (r : BitVec 6)
  /-- no register (d = s0) -/
  | none
  deriving DecidableEq, Repr

/-- One lane of a VAMO: its number, location, operand and address. -/
structure VamoLane where
  lane : Nat
  loc : Phys
  b : Word
  va : Word := 0
  deriving DecidableEq, Repr

/-- A described row in flight (R260, R261): the format, its first element number, the blocks with their locations and the
headers read before issue. -/
structure DescRow where
  fmt : BitVec 4
  first : Nat
  lanes : Nat
  blocks : List (Nat × Phys × BitVec 16)
  deriving DecidableEq, Repr

/-- A 64-byte line of pooled memory under a key id in a cache of the package, in plaintext (R93-R95, R378): its number, its
data and poison; modified lines have the wall cycle at which they are written back (R94). -/
structure CLine where
  line : Nat
  key : BitVec 8
  data : BitVec 512
  poison : Bool := false
  due : Option Nat := none
  /-- the page of the write that modified it last is described (R370) -/
  d : Bool := false
  deriving DecidableEq, Repr

/-- What a request asks of its home. -/
inductive ReqOp where
  | load (n : Nat) (dst : LoadTo)
  | store (bytes : List Byte)
  | atomic (fn : BitVec 5) (wide : Bool) (b c : Word) (d : BitVec 5)
  /-- a batch of VAMO lanes; the row they fill; whether an earlier batch has left it poisoned; lanes that peers have answered (R404) -/
  | vamo (op : BitVec 3) (lanes : List VamoLane) (t : BitVec 4) (r : BitVec 6) (bad : Bool := false) (got : List (Nat × Word) := [])
  /-- an event bit of the cluster set or cleared (R281) -/
  | event (set : Bool) (bit : BitVec 8)
  /-- an arrival on an object (R276); `status` is merged first (R277); `d` receives the token -/
  | arrive (status : Option Word) (d : BitVec 5)
  | ldrd (x : DescRow) (t : BitVec 4) (r : BitVec 6) (rm : Word) (draws : List Nat)
  | strd (x : DescRow) (v : Row) (rm gen : Word)
  /-- a store that a handler is created after (ANOTE, R293) -/
  | note (bytes : List Byte) (slot : Nat)
  /-- a performed write whose acknowledgement is on its way (R130) -/
  | ack
  deriving DecidableEq, Repr

/-- A request in flight: who issued it, its place in program order, its location and virtual address, when its home gets
to it, its acquire and release meaning (R119), whether its strand has been saved since (R133), whether it is an AtomicOp
that its bundle waits for (R270). -/
structure Req where
  sid : BitVec 40
  tag : Nat
  op : ReqOp
  loc : Phys
  va : Word := 0
  due : Nat
  acq : Option (BitVec 2) := none
  rel : Option (BitVec 2) := none
  old : Bool := false
  host : Bool := false
  /-- the stream that has pushed this store (R110) -/
  push : Option (Fin 4) := none
  /-- the wall cycle by which it is performed and acknowledged: 1 ms after its issue (R30) -/
  limit : Nat := 0
  /-- the launch of its strand with its partition (R359) -/
  dom : Option (BitVec 36) := none
  deriving DecidableEq, Repr

/-- An ordering of FENCE, RELT or ACQT in force for a strand (R119, R132, R272): requests with a lower tag are the earlier
ones; a range of virtual addresses, with the locations of its pages, restricts it; whether its acquiring read has been
performed. -/
structure Fence where
  sid : BitVec 40
  tag : Nat
  ord : BitVec 2
  sc : BitVec 2
  range : Option (Word × Nat) := none
  pages : List Phys := []
  acquired : Bool := false
  deriving DecidableEq, Repr

/-- A tile of a pod-scope window that a strand has written since its last pod-scope release (R106): the place of the write in
program order, the tile, and, where another home keeps its leases, the wall cycle at which they have passed there. -/
structure PodWrite where
  sid : BitVec 40
  tag : Nat
  tile : BitVec 52
  until_ : Option Nat := none
  deriving DecidableEq, Repr

/-- What the host answered to an AtomicOp its bundle waits for (R270, R386). -/
inductive HostAns where
  | pending
  | value (v : Word)
  | aborted
  | unsupported
  deriving DecidableEq, Repr

/-- When a delivery is due: after so many issue cycles of the core, or at a wall cycle. -/
inductive Due where
  | issue (n : Nat)
  | wall (n : Nat)
  deriving DecidableEq, Repr

/-- A long-latency result on its way to the strand `sid` (R15, R395). `flags` go to FFL with it (R260). -/
structure Dlv where
  sid : BitVec 40
  tag : Nat
  dest : Dest
  v : Row
  sel : Mask
  poison : Bool
  due : Due
  flags : BitVec 6 := 0
  /-- not an output of the matrix unit, which pushes nothing (R110) -/
  pushes : Bool := true
  deriving DecidableEq, Repr

/-- A destination that a long-latency producer has marked and not yet filled; a delivery with no mark is discarded
(R42). -/
structure Mark where
  sid : BitVec 40
  tag : Nat
  dest : Dest
  deriving DecidableEq, Repr

/-! ## Strands and tasks (01, 13) -/

/-- The state field of a record (R10). -/
inductive StState where
  | new | ready | running | parked | reply | done | faulted | exited
  deriving DecidableEq, Repr

/-- What a strand waits on (R278-R282, R321, R182). -/
inductive WaitOn where
  | barrier (loc : Phys) (token : BitVec 32)
  | word (loc : Phys) (cmp : Word)
  | events (mask : Mask)
  | seam (ts : Word)
  | susp (loc : Phys) (seen : Option Word)
  /-- being the oldest task (R310, R322), a free id (R11), a free version (R318) -/
  | oldest
  | freeId
  | version
  deriving DecidableEq, Repr

/-- A wait: what it waits on, the register of its result, its order and scope, the pod time at which it times out, and
whether its first read has been taken at the home (R279). -/
structure Wait where
  on : WaitOn
  d : BitVec 5
  tag : Nat
  acq : Bool
  sc : BitVec 2
  deadline : Option Nat
  /-- every earlier access of the strand is performed first (ord 3); when the request gets to its home -/
  full : Bool := false
  due : Nat := 0
  asked : Bool := false
  /-- the watched word has changed since it was read (R28, R280) -/
  hit : Bool := false
  /-- the result, once the wait is settled at its home (R278, R282) -/
  res : Option Word := none
  /-- the virtual address its place was translated from (R135) -/
  va : Word := 0
  deriving DecidableEq, Repr

/-- A range of a task's read or write set in force for a run: base, count and stride (R300). -/
structure SetRange where
  base : Word
  count : Nat
  stride : Nat
  deriving DecidableEq, Repr

/-- The spawn state of a task: what every run starts from (R302). -/
structure SpawnState where
  pc : Word
  npcOff : BitVec 32
  nnpcOff : BitVec 32
  s1 : Word
  s2 : Word
  s3 : Word
  s28 : Word
  rm : Word
  deriving DecidableEq, Repr

/-- What the basting unit knows of an ordered task (R296, R300, R302, R311, R317, R320). -/
structure TaskInfo where
  ts : Word
  tb : List Nat
  spawned : Nat := 0
  rset : List SetRange := []
  wset : List SetRange := []
  slot : Option Nat := none
  irrev : Bool := false
  onlyOldest : Bool := false
  drop : Bool := false
  aborts : Nat := 0
  /-- the core that an uncorrectable error of the last run struck (R319) -/
  failed : Option (BitVec 10) := none
  parent : Option (BitVec 40) := none
  /-- a root task: its template and parameter block, from which every run is filled (R21) -/
  root : Option (Word × Word) := none
  spawn : SpawnState
  deriving DecidableEq, Repr

/-- Where a strand that is not resident stands: in a die queue, in a cluster's queues, or in none (R352). -/
inductive Place where
  | dieQ (d : BitVec 3)
  | cluQ (c : BitVec 7)
  | off
  deriving DecidableEq, Repr

/-- What fills a strand's registers at its next dispatch: its image whole; an initial image, of which the part from +768
on is taken as zero (R302, R113); a launch template, address 0 for the empty one (R21, R57). -/
inductive Fill where
  | image
  | initial
  | template (a : Word) (param : Word)
  deriving DecidableEq, Repr

/-- A crossing of encoding versions that a jump makes (R158): its target, the version of the section there, the bundles still before
it. -/
structure Crossing where
  target : Word
  ver : BitVec 2
  left : Nat
  deriving DecidableEq, Repr

/-- A live strand or task. While it is resident it stands in its context, otherwise in `strands`. -/
structure Strand where
  id : BitVec 40
  recAddr : Word
  img : Word
  lnch : BitVec 32
  part : BitVec 4
  ver : BitVec 2
  prio : BitVec 2
  root : Bool
  parCore : BitVec 10
  parSeq : BitVec 13
  state : StState
  why : BitVec 8
  stepping : Bool := false
  isTask : Bool := false
  ord : Bool := false
  ts : Word := 0
  rset : Word := 0
  wset : Word := 0
  dfp : Bool := false
  dcause : BitVec 8 := 0
  retry : BitVec 4 := 0
  waitMask : Mask := 0
  setMask : Mask := 0
  handler : Bool := false
  frame : Option Nat := none
  hasId : Bool := true
  fill : Fill := .image
  /-- fetch state and live-tile mask while not resident -/
  pc : Word := 0
  npc : Word := 0
  nnpc : Word := 0
  level : BitVec 2
  place : Place := .off
  since : Nat := 0
  arr : Nat := 0
  wait : Option Wait := none
  task : Option TaskInfo := none
  /-- version crossings still to be taken, the next one first (R158) -/
  cross : List Crossing := []
  /-- bundles issued in U since the last step stop (R387, R400) -/
  steps : Nat := 0
  deriving DecidableEq, Repr

/-- A row version of an ordered task (R306): the task, the stitch (physical location of its first byte), the 256 bytes. -/
structure Version where
  tid : BitVec 40
  stitch : Nat
  loc : Phys
  data : Row
  /-- which of its four lines carry poison (R410) -/
  bad : List Nat := []
  deriving DecidableEq, Repr

/-- A tracked read (R305): the reader, the stitch, and the task whose version it returned (none: committed memory). -/
structure TRead where
  tid : BitVec 40
  stitch : Nat
  src : Option (BitVec 40)
  deriving DecidableEq, Repr

/-! ## Streams (04 R107-R112) -/

/-- The privilege level of a context (R339). -/
inductive Level where
  | u | s
  deriving DecidableEq, Repr

/-- A row of a stream's buffer: data with its poison, its address and the level it was fetched at, or the fault its fetch met
(raised at the pop, R109). -/
inductive BufRow where
  | data (v : Row) (poison : Bool) (va : Word) (lvl : Level)
  | fault (cause : BitVec 8) (value : Word)
  deriving DecidableEq, Repr

/-- A stream unit (R108). -/
structure Stream where
  bound : Bool := false
  out : Bool := false
  ovr : Bool := false
  tile : BitVec 4 := 0
  base : Word := 0
  n0 : BitVec 16 := 0
  n1 : BitVec 16 := 0
  n2 : BitVec 16 := 0
  n3 : BitVec 16 := 0
  s0 : Word := 0
  s1 : Word := 0
  s2 : Word := 0
  s3 : Word := 0
  i0 : BitVec 16 := 0
  i1 : BitVec 16 := 0
  i2 : BitVec 16 := 0
  i3 : BitVec 16 := 0
  done : BitVec 32 := 0
  buf : List BufRow := []
  due : Nat := 0
  /-- the place of SBIND in program order (R112) -/
  tag : Nat := 0
  /-- rows that the word at PC reads at once, if more than the buffer holds (R208, R224) -/
  want : Nat := 0
  /-- addresses of coming pushes, checked before issue, with their locations (R110) -/
  locs : List (Word × Phys) := []
  deriving DecidableEq, Repr

/-! ## A resident context -/

/-- Why the bundle at PC did not issue in the cycle just past. -/
inductive HoldWhy where
  | none | blocked | irrevocable | tserial | idless | version | other
  /-- for a free slot of the engines (R285) -/
  | slot
  /-- evaluated before issue for an enabled flag, its latency being `l` (R84) -/
  | fp (l : Nat)
  deriving DecidableEq, Repr

/-- One of the two resident contexts (R8, R32, R160, R342). -/
structure Ctx where
  s : Vector Scalar 32 := Vector.replicate 32 {}
  t : Vector Tile 16 := Vector.replicate 16 {}
  k : Vector Mask 8 := Vector.replicate 8 0
  p : Vector PermReg 8 := Vector.replicate 8 {}
  ma : Vector Word 8 := Vector.replicate 8 0
  u : UCsr := {}
  sc : SCsr := {}
  pc : Word := 0
  npc : Word := 0
  nnpc : Word := 0
  /-- delay bundles still to be annulled (R162) -/
  annul : Nat := 0
  level : Level := .u
  pend : List Pend := []
  /-- the snapshot held since entry to S, or loaded by CTXLOAD, until SRET (R389, R349) -/
  snap : List Pend := []
  /-- deliveries held since entry to S (R390); deliveries with a tag below `sTag` are of U; the marks at entry -/
  held : List Dlv := []
  sTag : Nat := 0
  sMarks : List Mark := []
  saved : Bool := false
  /-- a CTXLOAD has followed the CTXSAVE since entry to S (R390) -/
  loaded : Bool := false
  /-- a save that waits for the strand's stores (R14, R394): the state, why and place it leaves the strand in -/
  saving : Option (StState × BitVec 8 × Place) := none
  strand : Option Strand := none
  streams : Vector Stream 4 := Vector.replicate 4 {}
  /-- the count of the REP at PC while its repetitions follow one another (R188, R193) -/
  repN : Option Nat := none
  /-- the word that ends its bundle, waiting for the last repetition, with the source and the watch it read at repetition 0
  (R192) -/
  repEnd : Option (Instr × Word × Option Wait) := none
  /-- issue cycles the bundle at PC has been blocked or held, and why (R41, R310) -/
  stuck : Nat := 0
  why : HoldWhy := .none
  /-- issue cycles of FP evaluation left before the bundle at PC may issue, once begun (R84) -/
  fpHold : Option Nat := none
  /-- the AtomicOp the bundle at PC waits for: its address and the host's answer (R270) -/
  hostOp : Option (Word × HostAns) := none
  /-- the bundle is held while the bitmap of its MTSET is read: the banks are taken (R90, R251) -/
  bmHold : Bool := false
  /-- when a wait of S code without a strand times out, once it has begun (R279) -/
  lone : Option Nat := none
  /-- a TLBSYNC waits for the TLBINVs of the strand (R348) -/
  tlbHold : Bool := false
  /-- a bundle boundary after SRET or a dispatch with why = 9, at which an address break is not taken (R399) -/
  noBreak : Bool := false
  /-- no bundle has issued since the context came to issue: what was in flight does not age while its first packet is awaited (R52) -/
  resumed : Bool := false
  /-- the first bundle after a dispatch or an SRET is still to be checked (R9, R347) -/
  start : Bool := false
  /-- the bundle at PC follows in memory the one issued before it, so its packet is there without a wait (R165) -/
  line : Bool := false
  stepDue : Bool := false
  /-- wall cycle at which the strand became resident (R13) -/
  since : Nat := 0
  deriving DecidableEq, Repr

/-! ## Shared units of the core -/

/-- A solve of the bodkin: issue cycles until it starts and until it is delivered (R219). -/
structure Solve where
  sid : BitVec 40
  tag : Nat
  pd : BitVec 3
  v : Switches
  wait : Nat
  left : Nat
  deriving DecidableEq, Repr

/-- The kinds of engine operation that take a slot (R285). -/
inductive EngKind where
  | copy | gather | scatter | coll | note
  deriving DecidableEq, Repr

/-- The copy descriptor (R286). -/
structure CopyDesc where
  src : Word
  dst : Word
  n0 : Nat
  n1 : Nat
  n2 : Nat
  n3 : Nat
  ss1 : Word
  ds1 : Word
  ss2 : Word
  ds2 : Word
  ss3 : Word
  ds3 : Word
  arg : Word
  hpc : BitVec 32
  scope : BitVec 2
  ifmt : BitVec 4
  ofmt : BitVec 4
  cvt : Bool
  sat : Bool
  pe : Bool
  preg : BitVec 3
  notify : Bool
  mc : Bool
  grp : BitVec 8
  deriving DecidableEq, Repr

/-- An engine operation from issue to completion (R285-R291). -/
structure EngOp where
  slot : Nat
  sid : BitVec 40
  lnch : BitVec 32
  ver : BitVec 2
  kind : EngKind
  desc : CopyDesc
  list : Word
  opw : Word
  obj : Option Phys
  /-- the virtual address of the object (R135) -/
  objVa : Word := 0
  level : Level
  satp : Word
  perm : Switches
  rm : Word
  pc : Word
  s28 : Word
  part : BitVec 4 := 0
  tag : Nat
  /-- cancelled or torn down: the cause and the row reached (R290, R294) -/
  stop : Option (BitVec 8 × Nat) := none
  /-- the payload is written; the status to be posted -/
  ended : Bool := false
  status : Word := 0
  collNo : Nat := 0
  due : Nat
  deriving DecidableEq, Repr

/-- A staged element: absent (a structural zero), or bits of the operand format with a block scale (R65, R234). -/
inductive Elem where
  | absent
  | val (bits : BitVec 64) (scale : Int)
  /-- a decoded cb2 weight: twice the weight, with its block scale (R64, R237) -/
  | weight (twice : Int) (scale : Int)
  deriving DecidableEq, Repr

/-- A staged window (R234): the ma register, format and block form of its operand, its first row and first position, its
rows of elements, the marks of a bitmap (used with sp = 1), which staged rows are poisoned, the step and position it was
staged from. -/
structure Staged where
  m : BitVec 3
  fmt : BitVec 4
  blk : Bool
  rf : Nat
  lo : Nat
  rows : List (List Elem)
  present : List (List Bool)
  poisoned : List Bool
  step : Nat
  n : BitVec 16
  koff : BitVec 16
  deriving DecidableEq, Repr

/-- An accumulator row: 64 values of 32 bits and its poison (R233, R249). -/
structure AccRow where
  v : Vector (BitVec 32) 64
  poison : Bool
  deriving DecidableEq, Repr

/-- A destination row of a tile OUT: whether an OUT has written it, its contents, its poison. -/
structure OutRow where
  t : BitVec 4
  r : BitVec 6
  v : Row
  poison : Bool
  written : Bool
  deriving DecidableEq, Repr

/-- A matrix call from issue to completion (R245-R250). -/
structure MCall where
  sid : BitVec 40
  tag : Nat
  idx : BitVec 8
  fl : BitVec 3
  obj : Word
  objAt : Option Phys
  icore : BitVec 10
  ma : Vector Word 8
  perms : Vector Switches 8
  tiles : Vector Tile 16
  accTile : Option (BitVec 4)
  acc : Vector AccRow 64
  outs : List OutRow
  named : List (BitVec 4)
  permsNamed : List (BitVec 3)
  /-- the routine's first step and length, from the table at issue; what a check of step 3 found: a step, a cause and the operand -/
  start : Nat := 0
  len : Nat := 0
  pre : Option (Nat × BitVec 8 × Option (BitVec 3)) := none
  started : Bool := false
  ended : Bool := false
  step : Nat := 0
  zr : Bool := false
  a : Option Staged := none
  b : Option Staged := none
  ab : Bool := false
  bb : Bool := false
  dec : Bool := false
  order : List Nat := List.range 64
  kdone : Nat := 0
  cnt : Vector (BitVec 16) 4 := Vector.replicate 4 0
  pos : Vector (BitVec 16 × BitVec 16) 8 := Vector.replicate 8 (0, 0)
  status : Word := 0
  flags : BitVec 4 := 0
  /-- cancelled or torn down: the cause (R294, R365) -/
  stop : Option (BitVec 8) := none
  /-- sp of the MAC in progress; the steps and positions A and B were staged from; a resumed call restages first (R250) -/
  sp : Bool := false
  aAt : Option (Nat × BitVec 16 × BitVec 16) := none
  bAt : Option (Nat × BitVec 16 × BitVec 16) := none
  restage : Bool := false
  /-- the launch of its strand with its partition (R359) -/
  dom : BitVec 36 := 0
  due : Nat
  deriving DecidableEq, Repr

/-- An MLOADP copy in flight (R231). -/
structure MLoad where
  sid : BitVec 40
  tag : Nat
  locs : List Phys
  first : Nat
  count : Nat
  tab : Bool
  idx : BitVec 8
  due : Nat
  deriving DecidableEq, Repr

/-- A coherent window of the core (R97): first tile, number of tiles, scope; while closing (R102), who waits. -/
structure Window where
  base : BitVec 21
  tiles : Nat
  sc : BitVec 2
  closing : Option (BitVec 40 × Nat × BitVec 5) := none
  deriving DecidableEq, Repr

/-- The tile protocol's states of a cluster's copy (R100). -/
inductive TileSt where
  | e | m | o | s
  deriving DecidableEq, Repr

/-- The cluster filter's record of a panel of 8 rows: which of the cluster's cores hold it, and which one has modified it
(R101). -/
structure Panel where
  no : BitVec 3
  holders : BitVec 8
  modifier : Option (BitVec 3) := none
  deriving DecidableEq, Repr

/-- The directory's record of a window tile at a cluster (R100), with the cluster filter's panels (R101) and the bytes by
offset in the tile that its copy holds newer than the home's backing. -/
structure DirEntry where
  tile : BitVec 21
  clu : BitVec 7
  st : TileSt
  panels : List Panel := []
  newer : List (BitVec 14 × Byte) := []
  /-- the wall cycle by which what it holds newer has reached the home (R30) -/
  due : Option Nat := none
  deriving DecidableEq, Repr

/-- The package list's record of a device for a window tile (R103, R104): the latest expiry granted, and for each of its cores the
ladder step last granted to its replica, none after a write of the tile at the home. It stands after the lease has passed, until its
entry is taken for another. -/
structure Lease where
  tile : BitVec 21
  dev : BitVec 17
  expiry : BitVec 32
  steps : List (BitVec 10 × Nat)
  /-- its expiry has been seen to pass, which stays so when lease time wraps -/
  gone : Bool := false
  deriving DecidableEq, Repr

/-- A copy in the core's replica area (R99, R105): the tile's number, the rows of the panels filled, the expiry of the lease of
a tile of another package (none: a tile of this package, under the tile protocol), the rows modified, its last use. -/
structure Replica where
  tile : BitVec 52
  data : List (Nat × Row)
  lease : Option (BitVec 32)
  modified : List Nat
  used : Nat
  /-- the wall cycle by which its modified rows have reached the home (R30) -/
  due : Option Nat := none
  /-- the 64-byte lines of the tile that it holds poisoned (R410) -/
  bad : List Nat := []
  deriving DecidableEq, Repr

/-- A cached translation (R373). -/
structure TlbEntry where
  asid : BitVec 16
  page : BitVec 56
  bits : Nat
  e : Word
  deriving DecidableEq, Repr

/-- A TLBINV in flight (R348). -/
structure TlbInv where
  sid : BitVec 40
  tag : Nat
  va : Word
  ctl : Word
  due : Nat
  deriving DecidableEq, Repr

/-- A packet held by the core's fetch (R134). -/
structure Packet where
  va : Word
  satp : Word
  w : Vector (BitVec 32) 3
  deriving DecidableEq, Repr

/-- An entry of the arrival queue (R113, R114). -/
structure Arrival where
  pc : Word
  dst : Word
  bytes : Word
  arg : Word
  s28 : Word
  lnch : BitVec 32
  part : BitVec 4
  ver : BitVec 2
  deriving DecidableEq, Repr

/-- An entry of the error log (R413). -/
structure ErrEntry where
  arr : BitVec 8
  cls : BitVec 8
  syn : BitVec 16
  count : BitVec 32
  addr : Word
  sid : BitVec 40
  lnch : BitVec 32
  dev : BitVec 17
  first : Word
  last : Word
  ringAt : Word
  deriving DecidableEq, Repr

/-- What belongs to the core as a whole. -/
structure CoreSt where
  cyc : Nat := 0
  isc : Nat := 0
  /-- refresh freezes taken (R48) -/
  refreshed : Nat := 0
  core : BitVec 10 := 0
  device : BitVec 17 := 0
  dbgctl : Word := 0
  einj : Word := 0
  errlogp : Word := 0
  dlkp : Word := 0
  rpln : Word := 32
  arrf : Word := 0
  inPart : Option (BitVec 4) := none
  halted : Bool := false
  seq : BitVec 13 := 0
  /-- issue cycles of a context switch left (R13) -/
  switching : Nat := 0
  /-- which of the two contexts is the current one: context 0 or 1 -/
  curNo : Bool := false
  /-- issue cycles in which the V pipe accepts no word (R44), and the banks of the scratchpad that are occupied (R90) -/
  vbusy : Nat := 0
  banks : List (BitVec 5 × Nat) := []
  solves : List Solve := []
  lastSolve : Nat := 0
  netBusy : Nat := 0
  ops : List EngOp := []
  colls : List (BitVec 8 × Nat) := []
  steps : Vector Word 4096 := Vector.replicate 4096 0
  table : Vector (BitVec 32) 256 := Vector.replicate 256 0
  calls : List MCall := []
  mloads : List MLoad := []
  wins : List Window := []
  dir : List DirEntry := []
  leases : List Lease := []
  replicas : List Replica := []
  /-- panels of remote tiles asked for and not yet answered: tile number and panel (R99, R105) -/
  asks : List (BitVec 52 × Nat) := []
  packets : List Packet := []
  /-- the fetch in progress: wall cycle at which it completes, address of the packet -/
  fetching : Option (Nat × Word) := none
  tlb : List TlbEntry := []
  tlbinvs : List TlbInv := []
  /-- entries dropped by a strand's TLBINVs for which its TLBSYNC is still to come (R135) -/
  tlbGone : List (BitVec 40 × TlbEntry) := []
  arrivals : List Arrival := []
  frames : List Nat := []
  errs : List ErrEntry := []
  /-- machine checks pending at the next boundary: their values, the oldest first (R388, R396) -/
  mchecks : List Word := []
  /-- a deadlock report, retry reports, and pre-emption by command pending (R388) -/
  dlkDue : Option Word := none
  retriesDue : List Word := []
  preemptDue : Bool := false
  /-- pod time since which every strand has been stuck (R367), and whether a report stands (no bundle since) -/
  stuckSince : Option Nat := none
  reported : Bool := false
  deriving DecidableEq, Repr

/-! ## Launches, partitions, firmware, host and fabric -/

/-- A code section of a launched kernel (R157, R357). -/
structure Section where
  base : Word
  len : Nat
  ver : BitVec 2
  deriving DecidableEq, Repr

/-- The phase of a launch on this device. -/
inductive LPhase where
  | barrier | waiting | live | torn
  deriving DecidableEq, Repr

/-- A live launch (R356-R359). -/
structure Launch where
  lnch : BitVec 32
  part : BitVec 4
  /-- the header's default encoding version, that of the roots (R155, R357) -/
  ver : BitVec 2 := 0
  gen : BitVec 32
  devFirst : BitVec 17
  devLast : BitVec 17
  receiver : BitVec 17
  packet : Word
  param : Word
  prio : BitVec 2
  cobj : Option Phys
  slot : Option (BitVec 6)
  sections : List Section
  foreign : List Word
  groups : List (List Word)
  pattern : List (Nat × Word)
  ptab : List (BitVec 32)
  holdsPat : Bool
  roots : List (Word × Word × Nat)
  phase : LPhase
  /-- the devices in the start barrier, each with the incarnation it has named (R22, R408) -/
  entered : List (BitVec 17 × BitVec 4)
  ended : List (BitVec 17)
  since : Nat
  /-- the log buffer of a recording and its size; 0 where none is kept (R416) -/
  record : Option (Word × Nat)
  /-- what has been recorded, each item a kind with its data -/
  log : List (Nat × List Byte) := []
  /-- what a replay has still to feed (R417) -/
  feed : List (Nat × List Byte) := []
  /-- a teardown in progress: the objects still to be marked, and what it has stopped, discarded and cancelled (R365) -/
  objs : List Phys := []
  torn : List Word := []
  deriving DecidableEq, Repr

/-- A partition (R340, R362). -/
structure Part where
  n : BitVec 4
  cores : BitVec 1024
  satp : Word
  stvec : Word
  ver : BitVec 2
  preempted : Bool
  /-- a TEARDOWN or RESETQ is in progress (R422) -/
  busy : Bool
  /-- the slot of a PREEMPT that has not completed -/
  pslot : Option (BitVec 6) := none
  deriving DecidableEq, Repr

/-- A pending STEP or BREAK command (R400, R401). -/
structure DbgCmd where
  slot : BitVec 6
  isBreak : Bool
  part : BitVec 4
  sid : BitVec 40
  left : Nat
  issued : Nat
  addr : Word
  deriving DecidableEq, Repr

/-- A BIAS command in progress (R384): its slot and direction, the page and line it has come to, the pages left, the pages flipped. -/
structure BiasJob where
  slot : BitVec 6
  toHost : Bool
  page : Nat
  line : Nat
  left : Nat
  count : Nat
  deriving DecidableEq, Repr

/-- One direction pair of an Evmatal link (R406, R407). -/
structure Link where
  up : Bool := false
  tx : BitVec 24 := 0
  rx : BitVec 24 := 0
  /-- wraps of lseq in the two directions, as the nonces count them -/
  wraps : BitVec 71 := 0
  rxWraps : BitVec 71 := 0
  kidx : BitVec 1 := 0
  key0 : BitVec 256 := 0
  key1 : BitVec 256 := 0
  oldUntil : Option (BitVec 24) := none
  /-- the keys of the other direction, and which of the two slots hold one -/
  peerKey0 : BitVec 256 := 0
  peerKey1 : BitVec 256 := 0
  peerHas : BitVec 2 := 1
  replay : List Frame := []
  /-- where the last replay started, and how often it has (R406) -/
  lastReplay : BitVec 24 := 0
  sameReplay : Nat := 0
  deriving DecidableEq, Repr

/-- A message sent and not yet answered (R404). -/
structure Sent where
  dst : BitVec 17
  msn : BitVec 32
  body : MsgBody
  resends : Nat
  tag : Nat
  /-- pod time of the last sending -/
  sentAt : Nat
  deriving DecidableEq, Repr

/-- A message performed for a source, with the stored response (R404). -/
structure Performed where
  src : BitVec 17
  msn : BitVec 32
  reply : List Byte
  poison : Bool
  deriving DecidableEq, Repr

/-- What the device asks of the host for a line (R381, R383). -/
inductive CxlOp where
  | rdShared | rdOwn | cleanEvict | dirtyEvict | biSnpCur | biSnpInv
  deriving DecidableEq, Repr

/-- What the outside sees of the device: the model's record of it, newest last. -/
inductive Out where
  | hostData (data : List Byte) (metaInvalid : Bool)
  | hostWriteDone
  | snoopReply (dirty : Bool) (data : List Byte)
  | msix (vec : BitVec 11)
  | peerReply (dev : BitVec 17) (data : List Byte) (poison : Bool)
  | frame (port : BitVec 5) (f : Frame)
  | message (dst : BitVec 17) (msn : BitVec 32) (body : MsgBody)
  | pldm (type : BitVec 6) (value : Word)
  | retryRequest (port : BitVec 5) (lseq : BitVec 24)
  /-- a panel of a tile homed elsewhere is asked for (R99, R105) -/
  | tileAsk (tile : BitVec 52) (panel : Nat)
  /-- the home answers a device of another package with a panel of a window tile, under a lease or with data alone (R103-R106) -/
  | tileReply (dev : BitVec 17) (data : List Byte) (poison : BitVec 32) (lease : Option (BitVec 32))
  /-- a line is asked of the host, given back to it, or snooped there (R383-R385) -/
  | cxl (op : CxlOp) (line : Nat)
  /-- an AtomicOp of the host is answered Unsupported Request (R381) -/
  | hostUnsupported
  deriving DecidableEq, Repr

/-- The package beyond the core: cluster, homes, firmware, host link, fabric. -/
structure Pkg where
  powered : Bool := true
  bringUp : Nat := 0
  failed : Bool := false
  /-- cluster event bits (R281) -/
  events : Mask := 0
  versions : List Version := []
  treads : List TRead := []
  slotNo : Nat := 0
  /-- seam pulses taken (R313) -/
  pulses : Nat := 0
  /-- CFR of each domain (partition and launch) as of the last seam pulse (R295, R314) -/
  seam : List (BitVec 36 × Word) := []
  strands : List Strand := []
  launches : List Launch := []
  /-- matrix calls stopped by a save, until their strand is restored (R250) -/
  stopped : List MCall := []
  parts : List Part := []
  reqs : List Req := []
  fences : List Fence := []
  podWrites : List PodWrite := []
  dlvs : List Dlv := []
  marks : List Mark := []
  tag : Nat := 0
  arrNo : Nat := 0
  /-- lines of pooled memory in the line caches and in the memory-side caches of the package (R88, R93-R96); modified lines of
  NEAR and HOST, with the wall cycles at which they are written back (R94) -/
  lines : List CLine := []
  msc : List CLine := []
  dirty : List (Nat × Nat) := []
  papt : Vector Word 32 := Vector.replicate 32 0
  dlo : Word := 0
  dhi : Word := 0
  shb : Word := 0
  shadowKnown : List Nat := []
  dmcfg : Vector Word 8 := Vector.replicate 8 0
  /-- changes of DMCFG in progress: die, new value of near, wall cycle of its effect (R377) -/
  dmBusy : List (BitVec 3 × BitVec 4 × Nat) := []
  keyMode : Vector Bool 256 := Vector.replicate 256 false
  keys : Vector (BitVec 512) 256 := Vector.replicate 256 0
  /-- RPLN of the cores that have set it, the core's own apart (R89) -/
  rplns : List (BitVec 17 × BitVec 10 × Nat) := []
  /-- HDM window: carve-outs (die, offset, size), pages in device bias (R383) -/
  carve : List (BitVec 3 × Nat × Nat) := []
  devBias : List Nat := []
  hostLines : List Nat := []
  bias : Option BiasJob := none
  /-- the host-line cache: lines of HOST that the host has granted, and whether for writing (R385) -/
  hcache : List (Nat × Bool) := []
  inc : BitVec 4 := 0
  incs : List (BitVec 17 × BitVec 4) := []
  lost : List (BitVec 17) := []
  /-- peers that have not answered REJOIN, and the pod time it was sent (R412) -/
  rejoining : List (BitVec 17) := []
  rejoinAt : Nat := 0
  msns : List (BitVec 17 × BitVec 32) := []
  sent : List Sent := []
  performed : List Performed := []
  /-- messages that wait for room in a replay buffer (R406), and requests of peers that wait for leases to pass (R131) -/
  outbox : List (BitVec 17 × Msg) := []
  inbox : List (BitVec 17 × Msg) := []
  links : Vector Link 32 := Vector.replicate 32 {}
  dropped : Nat := 0
  ptimeBase : Nat := 0
  ptimeOk : Bool := true
  dbg : List DbgCmd := []
  /-- when each die's cores were last busy, in issue cycles (R352) -/
  dieIdle : Vector Nat 8 := Vector.replicate 8 0
  out : List Out := []
  deriving DecidableEq, Repr

/-- The operands of the event that comes next, supplied by the environment (the model's own field). -/
structure EvArgs where
  n : Nat := 0
  id : BitVec 40 := 0
  v : Word := 0
  w : Word := 0
  dev : BitVec 17 := 0
  word : BitVec 32 := 0
  data : List Byte := []
  op : PeerOp := .read 0
  frame : Option Frame := none
  resp : HostResp := .ok
  key : BitVec 256 := 0
  deriving DecidableEq, Repr

/-- How the word just executed fared: it issued; it trapped (the state is the one after entry) with its cause; it is
blocked, or held for a reason; it ended the bundle itself (a word that leaves the issue stream or transfers to a saved
fetch state). -/
inductive Verdict where
  | issued
  | trapped (cause : BitVec 8) (value : Word)
  | held (why : HoldWhy)
  | ended
  deriving DecidableEq, Repr

/-- Scratch of the bundle being issued (the model's own field): the word's position, the mask of a REP, whether the
bundle holds a REP, its repetition, its count, whether a further one follows, whether a VAMO leaves lanes for later (R268), the source a word that waited for the last
repetition read, the verdict, the target of a taken control word, whether delay bundles are annulled, and the
version the crossing of R158 gives. -/
structure Iss where
  pos : BitVec 2 := 0
  /-- the word's chain bit, which a trap value that is the word shows -/
  chain : Bool := false
  ke : Bool := false
  mask : Mask := BitVec.allOnes 256
  inRep : Bool := false
  repI : Nat := 0
  repN : Nat := 0
  repMore : Bool := false
  stays : Bool := false
  endVal : Option Word := none
  /-- a word that ends its bundle is put off until the others have issued -/
  putOff : Bool := false
  /-- the read and watch a SUSP of the bundle has taken at its place (R115, R182) -/
  susp : Option Wait := none
  /-- the place in program order at which the bundle begins (R115) -/
  first : Option Nat := none
  /-- whose access is being performed, strand and launch, where it is not the current strand's (R413) -/
  actor : Option (BitVec 40 × BitVec 32) := none
  verdict : Verdict := .issued
  target : Option Word := none
  annul : Bool := false
  ver : Option (BitVec 2) := none
  deriving DecidableEq, Repr

/-- Memory: listed bytes at keys (target type times 2^52 plus physical address), strictly rising, no listed byte 0. -/
abbrev Mem := List Host.Cell

/-- The state. `cur` is the context that issues, `oth` the other resident one. `poison` lists the poisoned 64-byte lines
(key / 64), strictly rising. `agenda` says which events of other agents come next, with their operands; `choice` counts
the free values drawn. -/
structure State where
  cur : Ctx := {}
  oth : Ctx := {}
  core : CoreSt := {}
  pkg : Pkg := {}
  mem : Mem := []
  poison : List Nat := []
  iss : Iss := {}
  ev : EvArgs := {}
  agenda : List (EvArgs × Instr) := []
  choice : Nat := 0
  deriving DecidableEq, Repr

/-- The state right after power-up reset. -/
def State.reset : State := {}

/-- Reasons for the machine to stop with a fault: there are none. What the spec calls faults are traps that are taken, and a package
without power is silent (R419). -/
inductive Fault where
  deriving DecidableEq, Repr

/-- Reasons for the model to refuse an operation. -/
inductive Refusal where
  /-- Raised by an arm of `exec` whose instruction has no meaning yet. Safe. -/
  | notModelled (mnemonic : String)
  deriving DecidableEq, Repr

end Sys2Proof.Machine
end

