-- ==== Sys2Proof/Machine/Memory.lean ====
section
/-! DEFINITION. Memory by physical location: bytes, poison marks, encryption of pooled lines, the header shadow, modified
lines (04 R86, R94; 20 R376, R378; 23 R410; 03 R68). -/

namespace Sys2Proof.Machine

/-! ## The list of bytes in its canonical form -/

/-- What a byte reads as; an unlisted one reads 0 (notes/assumptions 2: DESIGN CHOICE, unsafe). -/
def Mem.get : Mem → Nat → Byte
  | [], _ => 0
  | (a, b) :: t, k => if a = k then b else if k < a then 0 else Mem.get t k

/-- Write one byte, keeping the canonical form. -/
def Mem.put : Mem → Nat → Byte → Mem
  | [], k, v => if v = 0 then [] else [(k, v)]
  | (a, b) :: t, k, v =>
    if a < k then (a, b) :: Mem.put t k v
    else if a = k then (if v = 0 then t else (k, v) :: t)
    else if v = 0 then (a, b) :: t else (k, v) :: (a, b) :: t

/-- The canonical form: addresses strictly rising from `lo` on, no listed byte 0. -/
def Mem.wfFrom (lo : Nat) : Mem → Bool
  | [] => true
  | (a, b) :: t => decide (lo ≤ a) && decide (b ≠ 0) && Mem.wfFrom (a + 1) t

/-- The canonical form of memory. -/
def Memory.wf (m : Mem) : Bool := Mem.wfFrom 0 m

/-- The `n` bytes from `k` on. -/
def Mem.read (m : Mem) (k : Nat) : Nat → List Byte
  | 0 => []
  | n + 1 => m.get k :: Mem.read m (k + 1) n

/-- Write bytes from `k` on. -/
def Mem.write (m : Mem) (k : Nat) : List Byte → Mem
  | [] => m
  | b :: t => Mem.write (m.put k b) (k + 1) t

/-- The key of a physical location in the list of memory (R86): the target type times 2^52 plus the address. -/
def Phys.key0 (p : Phys) : Nat := p.tt.toNat * 2 ^ 52 + p.pa.toNat

/-- A location `n` bytes further. -/
def Phys.plus (p : Phys) (n : Nat) : Phys := { p with pa := p.pa + BitVec.ofNat 52 n }

/-! ## Poison marks (R410) -/

/-- The lines that `n` bytes at key `k` touch. -/
def linesOf (k n : Nat) : List Nat :=
  if n = 0 then [] else (List.range ((k + n - 1) / 64 - k / 64 + 1)).map (fun i => k / 64 + i)

/-- Whether a line that `n` bytes at `k` touch carries poison. -/
def State.poisoned (s : State) (k n : Nat) : Bool := (linesOf k n).any (fun l => s.poison.elem l)

/-- Set the mark of a line. -/
def State.setPoison (s : State) (l : Nat) : State := { s with poison := insertAsc s.poison l }

/-- Clear the mark of a line. -/
def State.clearPoison (s : State) (l : Nat) : State := { s with poison := eraseAsc s.poison l }

/-- The lines that `n` bytes at `k` cover whole. -/
def wholeLines (k n : Nat) : List Nat :=
  (linesOf k n).filter (fun l => decide (k ≤ 64 * l) && decide (64 * l + 64 ≤ k + n))

/-! ## Encrypted pooled lines (R378, R379) -/

/-- Whether accesses to the location go through AES-XTS (notes/assumptions 39: PRESUMED). -/
def State.encrypted (s : State) (p : Phys) : Bool := decide (p.tt = 0) && s.pkg.keyMode.get p.key.toFin

/-- The plaintext of the line that holds key `k` (a POOL line), under key slot `key`. -/
def State.plainLine (s : State) (key : BitVec 8) (l : Nat) : List Byte :=
  xtsDec (s.pkg.keys.get key.toFin) (64 * l) (s.mem.read (64 * l) 64)

/-! ## Lines of pooled memory in the caches of the package (R88, R93-R96, R378, R379) -/

/-- Whether accesses to the location go through the line caches and the memory-side cache: C = 1 POOL (R88). -/
def Phys.pooled (p : Phys) : Bool := p.c && decide (p.tt = 0)

/-- The 64 bytes of a line's data. -/
def lineBytes (v : BitVec 512) : List Byte := leBytes 64 v.toNat

/-- A line from 64 bytes. -/
def lineOf (b : List Byte) : BitVec 512 := BitVec.ofNat 512 (ofBytes b)

/-- The entry of a line under a key id. -/
def findLine (l : List CLine) (key : BitVec 8) (n : Nat) : Option CLine := l.find? (fun x => x.line == n && x.key == key)

/-- An entry takes the place of the one for its line and key id. -/
def putEntry (l : List CLine) (x : CLine) : List CLine := x :: l.filter (fun y => !(y.line == x.line && y.key == x.key))

/-- A pooled line as pooled memory holds it, decrypted under a key id, with its poison. -/
def State.memLine (s : State) (key : BitVec 8) (l : Nat) : BitVec 512 × Bool :=
  (lineOf (if s.pkg.keyMode.get key.toFin then s.plainLine key l else s.mem.read (64 * l) 64), s.poison.elem l)

/-- What a copy filled earlier gives beside what its home holds now: the copy may have been replaced since, which is a free
choice (R96). -/
def State.heldCopy (s : State) (x : Option CLine) (l : Nat) (home : BitVec 512 × Bool) : BitVec 512 × Bool :=
  match x with
  | none => home
  | some x => if (x.data, x.poison) = home then home else if Config.useLine s.choice l then (x.data, x.poison) else home

/-- A pooled line as a C = 1 access finds it: modified in a line cache, else a clean copy there or in the memory-side cache of
its home die, else pooled memory (R93, R94, R96). -/
def State.poolLine (s : State) (key : BitVec 8) (l : Nat) : BitVec 512 × Bool :=
  let home := s.heldCopy (findLine s.pkg.msc key l) l (s.memLine key l)
  match findLine s.pkg.lines key l with
  | some x => if x.due.isSome then (x.data, x.poison) else s.heldCopy (some x) l home
  | none => home

/-- Bytes from the lines that hold them. -/
def bytesFrom (f : Nat → BitVec 512) (k n : Nat) : List Byte :=
  (((linesOf k n).map (fun l => lineBytes (f l))).flatten.drop (k % 64)).take n

/-- The bytes at a location, as a read performed there returns them. -/
def State.readAt (s : State) (p : Phys) (n : Nat) : List Byte :=
  if p.pooled then bytesFrom (fun l => (s.poolLine p.key l).1) p.key0 n
  else if s.encrypted p then
    let k := p.key0
    (((linesOf k n).map (s.plainLine p.key)).flatten.drop (k % 64)).take n
  else s.mem.read p.key0 n

/-- Whether a line that a read of `n` bytes at a location meets carries poison (R410). -/
def State.badAt (s : State) (p : Phys) (n : Nat) : Bool :=
  if p.pooled then (linesOf p.key0 n).any (fun l => (s.poolLine p.key l).2) else s.poisoned p.key0 n

/-- The word of a page table entry, read at its home, with its poison: a modified line is taken there, no clean copy serves it
(R94, R371, R372). -/
def State.homeWord (s : State) (p : Phys) : Word × Bool :=
  match (if p.tt = 0 then (findLine s.pkg.lines p.key (p.key0 / 64)).filter (fun x => x.due.isSome) else none) with
  | some x => (w64 (ofBytes (((lineBytes x.data).drop (p.key0 % 64)).take 8)), x.poison)
  | none => (w64 (ofBytes (s.readAt { p with c := false } 8)), s.poisoned p.key0 8)

/-- The number at a location, little-endian (R2). -/
def State.numAt (s : State) (p : Phys) (n : Nat) : Nat := ofBytes (s.readAt p n)

/-- The 64-bit word at a location. -/
def State.word64At (s : State) (p : Phys) : Word := w64 (s.numAt p 8)

/-- The row at a location. -/
def State.rowAt (s : State) (p : Phys) : Row := rowOf (s.readAt p 256)

/-- Write plaintext bytes into an encrypted line. -/
def State.putLine (s : State) (key : BitVec 8) (l : Nat) (f : List Byte → List Byte) : State :=
  { s with mem := s.mem.write (64 * l) (xtsEnc (s.pkg.keys.get key.toFin) (64 * l) (f (s.plainLine key l))) }

/-- Replace bytes of a list from offset `o` on (bytes beyond the list are dropped). -/
def spliceBytes (l : List Byte) (o : Nat) (bs : List Byte) : List Byte :=
  l.take o ++ (bs.take (l.length - o)) ++ l.drop (o + bs.length)

/-- The raw write of bytes at a location of memory. -/
def State.pokeAt (s : State) (p : Phys) (bs : List Byte) : State :=
  if s.encrypted p then
    let k := p.key0
    (linesOf k bs.length).foldl (fun s l =>
      let d := 64 * l - k
      if 64 * l < k then s.putLine p.key l (fun x => spliceBytes x (k - 64 * l) bs)
      else s.putLine p.key l (fun x => spliceBytes x 0 (bs.drop d))) s
  else { s with mem := s.mem.write p.key0 bs }

/-! ## Header shadow of described pooled pages (R68, R376) -/

/-- Where the shadow of the block at pooled address `a` lies (R376): a key of NEAR. -/
def State.shadowKey (s : State) (a : Nat) : Nat :=
  2 ^ 52 + (s.pkg.shb.toNat + (a - s.pkg.dlo.toNat) / 32) % 2 ^ 52

/-- Whether a pooled address lies in the described range. -/
def State.inDescribed (s : State) (a : Nat) : Bool := decide (s.pkg.dlo.toNat ≤ a) && decide (a < s.pkg.dhi.toNat)

/-- Fill the shadow of a block from its header in pooled memory, under the access's key (R376). -/
def State.fillShadow (s : State) (blk : Phys) : State :=
  if blk.tt = 0 then
    { s with
      mem := s.mem.write (s.shadowKey blk.pa.toNat) (s.readAt { blk with c := false } 2)
      pkg := { s.pkg with shadowKnown := insertAsc s.pkg.shadowKnown (blk.pa.toNat / 64) } }
  else s

/-- The shadow entries of blocks used for the first time are filled (R376). -/
def State.useShadow (s : State) (l : List Phys) : State :=
  l.foldl (fun s p => if p.tt = 0 && !s.pkg.shadowKnown.elem (p.pa.toNat / 64) then s.fillShadow p else s) s

/-- After a write of `n` bytes of pooled memory at `p`, by whatever path it came, the shadow of every described block whose header
it reached: that of a described page, and any that is known (R68). -/
def State.shadowAfter (s : State) (p : Phys) (n : Nat) : State :=
  if p.tt = 0 then
    (linesOf p.pa.toNat n).foldl (fun s l =>
      if s.inDescribed (64 * l) && decide (p.pa.toNat < 64 * l + 2) && (p.d || s.pkg.shadowKnown.elem l) then
        s.fillShadow { p with pa := BitVec.ofNat 52 (64 * l) }
      else s) s
  else s

/-- The home die of a pooled line (R93). -/
def homeDie (l : Nat) : BitVec 3 :=
  let a : BitVec 52 := BitVec.ofNat 52 (64 * l)
  seg a 12 3 ^^^ seg a 15 3 ^^^ seg a 18 3

/-- Whether the home die of a line has units of memory-side cache (R93, R377). -/
def State.mscHas (s : State) (l : Nat) : Bool := decide ((seg (s.pkg.dmcfg.get (homeDie l).toFin) 0 4).toNat < 12)

/-- The wall cycle by which a line modified now is written back: within 1 ms (R94), a free choice. -/
def State.lineDue (s : State) : Nat := s.core.cyc + 1 + Config.free s.choice % 1500000

/-- A line is modified in a line cache: `f` of what it held; it keeps the time of its first modification (R94). Poison stays but
for a line written whole (R410). -/
def State.putPool (s : State) (key : BitVec 8) (d : Bool) (l : Nat) (whole : Bool) (f : List Byte → List Byte) : State :=
  let old := s.poolLine key l
  let due := (findLine s.pkg.lines key l).bind CLine.due
  let x : CLine := { line := l, key := key, data := lineOf (f (lineBytes old.1)), poison := old.2 && !whole, due := some (due.getD s.lineDue), d := d }
  { s with pkg := { s.pkg with lines := putEntry s.pkg.lines x } }

/-- Bytes written through C = 1 pooled lines: the lines are modified, memory is not (R94). -/
def State.pokePool (s : State) (p : Phys) (bs : List Byte) : State :=
  let k := p.key0
  (linesOf k bs.length).foldl (fun s l =>
    let whole := decide (k ≤ 64 * l) && decide (64 * l + 64 ≤ k + bs.length)
    if 64 * l < k then s.putPool p.key p.d l whole (fun x => spliceBytes x (k - 64 * l) bs)
    else s.putPool p.key p.d l whole (fun x => spliceBytes x 0 (bs.drop (64 * l - k)))) s

/-- A modified line is written back: to pooled memory, through the memory-side cache of its home die, with the header shadow; the copy
is clean from then on (R68, R93, R94, R410). -/
def State.writeBack (s : State) (x : CLine) : State :=
  let p : Phys := { tt := 0, pa := BitVec.ofNat 52 (64 * x.line), d := x.d, key := x.key }
  let s1 := (s.pokeAt p (lineBytes x.data)).shadowAfter p 64
  let s2 := if x.poison then s1.setPoison x.line else s1.clearPoison x.line
  let y : CLine := { x with due := none }
  { s2 with pkg := { s2.pkg with
      lines := putEntry s2.pkg.lines y
      msc := if s2.mscHas x.line then putEntry s2.pkg.msc y else s2.pkg.msc } }

/-- Every modified pooled line for which `f` holds is written back. -/
def State.writeBackAll (s : State) (f : CLine → Bool) : State :=
  (s.pkg.lines.filter (fun x => x.due.isSome && f x)).foldl State.writeBack s

/-- A C = 1 pooled access has brought its lines into the line caches, and into the memory-side caches of their home dies (R88,
R93). -/
def State.fillLines (s : State) (p : Phys) (n : Nat) : State :=
  if p.pooled then
    (linesOf p.key0 n).foldl (fun s l =>
      let m := s.memLine p.key l
      let home := s.heldCopy (findLine s.pkg.msc p.key l) l m
      let v := s.poolLine p.key l
      let s1 : State := if (findLine s.pkg.lines p.key l).any (fun x => x.due.isSome) then s
        else { s with pkg := { s.pkg with
          lines := putEntry s.pkg.lines { line := l, key := p.key, data := v.1, poison := v.2 }
          msc := if s.mscHas l then putEntry s.pkg.msc { line := l, key := p.key, data := home.1, poison := home.2 } else s.pkg.msc } }
      s1) s
  else s

/-- An atomic on a C = 1 pooled line performs at the line's home: a modified copy is taken back, and every copy goes, that of the
memory-side cache too, which writes through (R93, R131, R265). -/
def State.recallLines (s : State) (p : Phys) (n : Nat) : State :=
  if p.pooled then
    let mine := fun (x : CLine) => x.key == p.key && (linesOf p.key0 n).elem x.line
    let s1 := s.writeBackAll mine
    { s1 with pkg := { s1.pkg with lines := s1.pkg.lines.filter (fun x => !mine x), msc := s1.pkg.msc.filter (fun x => !mine x) } }
  else s

/-- Whether a cache of the package holds the line of a C = 1 pooled location. -/
def State.lineHeld (s : State) (p : Phys) : Bool :=
  p.pooled && ((findLine s.pkg.lines p.key (p.key0 / 64)).isSome || (findLine s.pkg.msc p.key (p.key0 / 64)).isSome)

/-- The two header bytes of a block: those of the line where a cache holds it for a C = 1 access, else as the shadow gives them, filled
at first use (R68, R94, R376). -/
def State.headerOf (s : State) (blk : Phys) : List Byte :=
  if blk.tt = 0 && !s.lineHeld blk && s.pkg.shadowKnown.elem (blk.pa.toNat / 64) then s.mem.read (s.shadowKey blk.pa.toNat) 2
  else s.readAt blk 2

/-- The window offset of an offset of a die's near memory, through the carve-outs in their order (R383). -/
def offsetIn : List (BitVec 3 × Nat × Nat) → Nat → BitVec 3 → Nat → Option Nat
  | [], _, _, _ => none
  | (d, o, n) :: t, base, die, off => if d = die ∧ o ≤ off ∧ off < o + n then some (base + (off - o)) else offsetIn t (base + n) die off

/-- The page of the HDM window that a location lies in (R383). -/
def State.windowPage (s : State) (p : Phys) : Option Nat :=
  if p.tt = 1 then (offsetIn s.pkg.carve 0 (seg p.pa 30 3) (seg p.pa 0 30).toNat).map (· / 4096) else none

/-- Whether a location lies in a page of the HDM window in host bias (R383). -/
def State.inHostBias (s : State) (p : Phys) : Bool := (s.windowPage p).any (fun w => !s.pkg.devBias.elem w)

/-- A line of NEAR or HOST is modified; it keeps the time of its first modification (R94). -/
def addDirty (due : Nat) (l : List (Nat × Nat)) (n : Nat) : List (Nat × Nat) :=
  if l.any (fun x => x.1 == n) then l else (n, due) :: l

/-- Whether a line of NEAR or HOST is modified in the line caches. -/
def State.isDirty (s : State) (l : Nat) : Bool := s.pkg.dirty.any (fun x => x.1 == l)

/-- Lines of NEAR and HOST are no longer modified. -/
def State.cleanLines (s : State) (f : Nat → Bool) : State :=
  { s with pkg := { s.pkg with dirty := s.pkg.dirty.filter (fun x => !f x.1) } }

/-- The modified lines of NEAR and HOST after a C = 1 write (R94). Within the package they are coherent, so that what their
homes hold in the model is what every access sees; a page in host bias is not cached, and the host's copy of the line goes
(R383) (notes/assumptions 40: DEDUCED). -/
def State.dirtyAfter (s : State) (p : Phys) (n : Nat) : State :=
  if s.inHostBias p then
    { s with pkg := { s.pkg with hostLines := s.pkg.hostLines.filter (fun l => !(linesOf p.key0 n).elem l) } }
  else
  if p.c && (decide (p.tt = 1) || decide (p.tt = 3)) then
    { s with pkg := { s.pkg with dirty := (linesOf p.key0 n).foldl (addDirty s.lineDue) s.pkg.dirty } }
  else s

/-! ## Waits that a write settles or touches (R28, R278, R280) -/

/-- The result of a WAITB by the object as it stands: 3 torn down, 0 OK, 1 STALE, or none (R278). -/
def State.objResult (s : State) (loc : Phys) (token : BitVec 32) : Option Word :=
  let gen : BitVec 32 := BitVec.ofNat 32 (s.numAt loc 4)
  let torn := (BitVec.ofNat 32 (s.numAt (loc.plus 20) 4)).getLsbD 0
  let delta := (gen - token).toNat
  if torn then some 3
  else if delta = 1 then some 0
  else if 2 ≤ delta ∧ delta < 2 ^ 31 then some 1
  else none

/-- The bytes a wait watches. -/
def WaitOn.watches : WaitOn → Option (Phys × Nat)
  | .barrier loc _ => some (loc, 32)
  | .word loc _ => some (loc, 8)
  | .susp loc _ => some (loc, 8)
  | _ => none

/-- Whether two ranges of bytes meet. -/
def meets (a n b m : Nat) : Bool := decide (a < b + m) && decide (b < a + n)

/-- A registered wait after a change at its location. -/
def State.settle (s : State) (w : Wait) : Wait :=
  match w.on with
  | .barrier loc token => if w.res.isSome then w else { w with res := s.objResult loc token }
  | .word loc cmp => if s.word64At loc = cmp then w else { w with hit := true }
  | .susp loc (some v) => if s.word64At loc = v then w else { w with hit := true }
  | _ => w

/-- The strand, its wait settled if it watches bytes of the range. -/
def State.settleStrand (s : State) (k n : Nat) (x : Strand) : Strand :=
  match x.wait with
  | none => x
  | some w => match w.on.watches with
    | none => x
    | some (loc, m) =>
      if w.asked && meets k n loc.key0 m then { x with wait := some (s.settle w) } else x

/-- After a write of `n` bytes at `p`, the waits on them. -/
def State.recheck (s : State) (p : Phys) (n : Nat) : State :=
  let f := s.settleStrand p.key0 n
  { s with
    cur := { s.cur with strand := s.cur.strand.map f }
    oth := { s.oth with strand := s.oth.strand.map f }
    pkg := { s.pkg with strands := s.pkg.strands.map f } }

/-- What comes next, before anything else on the agenda. -/
def State.soon (s : State) (i : Instr) (e : EvArgs) : State := { s with agenda := (e, i) :: s.agenda }

/-- An armed error injection meets a write to its page in an array that a test admits: the error it makes comes next (R415). -/
def State.injectIn (s : State) (mine : BitVec 8 → Bool) (p : Phys) (n : Nat) : State :=
  let e := s.core.einj
  let arr := seg e 0 8
  if e.getLsbD 8 && mine arr && n != 0 && seg e 12 52 == (seg p.pa 12 40).setWidth 52 then
    let a : EvArgs := { n := arr.toNat, v := p.pa.setWidth 64, w := p.tt.setWidth 64 }
    { s with core := { s.core with einj := e &&& ~~~0x100 } }.soon (if e.getLsbD 9 then .uncorrectableError else .correctedError) a
  else s

/-- A write to memory meets an armed injection in its array: 1, 2, 6 and 10 are the scratchpad, the line cache, die memory and the CXL
ports (R415; notes/assumptions 31: DEDUCED). -/
def State.injectAfter (s : State) (p : Phys) (n : Nat) : State :=
  s.injectIn (fun arr => (arr == 1 && p.tt == 2) || (arr == 6 && p.tt == 1) || (arr == 2 && p.c && p.tt.toNat < 4 && p.tt != 2)
    || (arr == 10 && (p.tt == 0 || p.tt == 3))) p n

/-- The bytes of a write, with the poison marks of whole clean lines cleared (R410): in a line cache for C = 1 POOL (R94), else
in memory. -/
def State.putAt (s : State) (p : Phys) (bs : List Byte) : State :=
  if p.pooled then s.pokePool p bs
  else (wholeLines p.key0 bs.length).foldl State.clearPoison (s.pokeAt p bs)

/-- The header shadow after a write, which one that stays in a line cache has not reached yet (R68, R94). -/
def State.shadowWrite (s : State) (p : Phys) (n : Nat) : State := if p.pooled then s else s.shadowAfter p n

/-- A write performed at its home or at the owning copy (R131): the bytes, the header shadow, the modified lines, the waits on
the bytes, an injected error. -/
def State.writeAt (s : State) (p : Phys) (bs : List Byte) : State :=
  ((((s.putAt p bs).shadowWrite p bs.length).dirtyAfter p bs.length).recheck p bs.length).injectAfter p bs.length

/-- The lines of a location get the mark of poison (R410). -/
def State.poisonLines (s : State) (p : Phys) (n : Nat) : State :=
  if p.pooled then
    { s with pkg := { s.pkg with lines := s.pkg.lines.map (fun x =>
        if x.key == p.key && (linesOf p.key0 n).elem x.line then { x with poison := true } else x) } }
  else (linesOf p.key0 n).foldl State.setPoison s

/-- A write of poisoned data: the marks of its lines are set (R410). -/
def State.writePoisonAt (s : State) (p : Phys) (bs : List Byte) : State :=
  (((((s.putAt p bs).shadowWrite p bs.length).dirtyAfter p bs.length).recheck p bs.length).poisonLines p bs.length).injectAfter p bs.length

/-- What the context engine's and the firmware's modified lines of pooled memory are written back by, at the latest (R30). -/
def State.dueBy (s : State) (p : Phys) (n limit : Nat) : State :=
  if p.pooled then
    { s with pkg := { s.pkg with lines := s.pkg.lines.map (fun x =>
        if x.key == p.key && (linesOf p.key0 n).elem x.line then { x with due := x.due.map (min limit) } else x) } }
  else s

/-- Draw a free number (notes/assumptions 3: DESIGN CHOICE). -/
def State.draw (s : State) : Nat × State := (Config.free s.choice, { s with choice := s.choice + 1 })

/-- Draw a free word. -/
def State.drawWord (s : State) : Word × State := (Config.freeWord s.choice, { s with choice := s.choice + 1 })

end Sys2Proof.Machine
end

