-- ==== Sys2Proof/Machine/Described.lean ====
section
/-! DEFINITION. Described blocks: headers, elements, the choice of a scale, and the rewriting of a block (03 R65-R69, 11 R260,
R261). -/

namespace Sys2Proof.Machine

/-- Elements per block (R66); indices for cb2. -/
def Fmt.epb (f : Fmt) : Nat :=
  match f.bits with
  | 32 => 15
  | 16 => 31
  | 64 => 7
  | 8 => 62
  | 4 => 124
  | _ => 1

/-- Elements of a row (R260). -/
def Fmt.rowLanes (f : Fmt) : Nat := if f.bits = 0 then 0 else 2048 / f.bits

/-- A block's header: format code, nibble order, scale; byte 0 lowest. -/
def hdrFmt (h : BitVec 16) : BitVec 4 := seg h 0 4
def hdrNib (h : BitVec 16) : Bool := h.getLsbD 4
def hdrScale (h : BitVec 16) : Int := (seg h 8 8).toInt
def hdrZero (h : BitVec 16) : Bool := seg h 8 8 == 0x80

/-- The header of two bytes. -/
def hdrOf (b : List Byte) : BitVec 16 := BitVec.ofNat 16 (ofBytes (b.take 2))

/-- Whether a header raises FORMAT where format `want` is expected (R65); `row` for a load into a row. -/
def hdrFault (want : BitVec 4) (row : Bool) (h : BitVec 16) : Bool :=
  seg h 5 3 != 0 || (fmtOf (hdrFmt h)).bits == 0 || (hdrNib h && (fmtOf (hdrFmt h)).bits != 4)
    || (!hdrZero h && hdrFmt h != want)
    || (!hdrZero h && row && hdrFmt h == 12 && seg h 8 8 != 0)

/-- Element `j` of a block's 64 bytes (R66). -/
def blockElem (bits : Nat) (nib : Bool) (b : List Byte) (j : Nat) : Nat :=
  if bits = 4 then
    let x := (b.getD (2 + j / 2) 0).toNat
    if (j % 2 = 1) != nib then x / 16 else x % 16
  else ofBytes ((b.drop (2 + j * (bits / 8))).take (bits / 8))

/-- A value times a power of two. -/
def FVal.scale (v : FVal) (k : Int) : FVal :=
  match v with
  | .fin n m e => .fin n m (e + k)
  | x => x

/-- The value of an element of a format, a subnormal read as zero under FTZ (R73) (cb2 indices have none here). -/
def Fmt.value (f : Fmt) (ftz : Bool) (bits : Nat) : FVal :=
  match f with
  | .flt g => g.read ftz bits
  | .int i => FVal.ofInt (i.decode bits)
  | _ => FVal.ofInt bits

/-- A lane of LDRD from an exact value (R260). -/
def Fmt.loadLane (f : Fmt) (rm : Word) (v : FVal) (draw : Nat) : Nat × Flags :=
  match f with
  | .flt g => g.convert (g.modeFor (modeOf rm)) (ftzOf rm) false v draw
  | .int i =>
    match v with
    | .fin neg m e =>
      let (n, nx) := roundInt (modeOf rm).plain neg m e
      if n < i.lo ∨ i.hi < n then (i.encode (i.clamp n), fSAT) else (i.encode n, flagIf nx fNX)
    | _ => (0, 0)
  | _ => (0, 0)

/-- Element `j` of a block with its header as a row lane. -/
def blockLane (f : Fmt) (rm : Word) (h : BitVec 16) (b : List Byte) (j draw : Nat) : Nat × Flags :=
  if hdrZero h then (0, 0)
  else
    let x := blockElem f.bits (hdrNib h) b j
    match f with
    | .cb2 => (x, 0)
    | _ => f.loadLane rm ((f.value (ftzOf rm) x).scale (hdrScale h)) draw

/-- A row of LDRD from the bytes of its blocks, with the flags of its roundings (R260). -/
def DescRow.assemble (x : DescRow) (rm : Word) (draws : List Nat) (bytes : Nat × Phys × BitVec 16 → List Byte) : Row × Flags :=
  let f := fmtOf x.fmt
  let blocks := x.blocks.map (fun b => (b.1, b.2.2, bytes b))
  let res := (List.range x.lanes).map (fun j =>
    let i := x.first + j
    match blocks.find? (fun b => b.1 == i / f.epb) with
    | some (_, h, bs) => blockLane f rm h bs (i % f.epb) (draws.getD j 0)
    | none => (0, 0))
  (BitVec.ofNat 2048 (res.reverse.foldl (fun acc e => acc * 2 ^ f.bits + e.1 % 2 ^ f.bits) 0),
    res.foldl (fun a e => a ||| e.2) 0)

/-! ## Writing (R69, R261) -/

/-- Whether a finite value fits a format when it is scaled down by `s` and rounded to nearest even (R69.3). -/
def Fmt.fits (f : Fmt) (s : Int) (v : FVal) : Bool :=
  match v with
  | .fin neg m e =>
    match f with
    | .flt g => (g.round .rne false false neg m (e - s) false 0).2 &&& fOF == 0
    | .int i =>
      let (n, _) := roundInt .rne neg m (e - s)
      decide (i.lo ≤ n) && decide (n ≤ i.hi)
    | _ => true
  | _ => true

/-- The scale of a block over its elements (R69): none for a zero block; the flag says that no scale suffices. -/
def Fmt.pickScale (f : Fmt) (vs : List FVal) : Option (Int × Bool) :=
  if vs.all FVal.isZero then none
  else
    match (List.range 255).find? (fun (k : Nat) => vs.all (f.fits ((k : Int) - 127))) with
    | some k => some ((k : Int) - 127, false)
    | none => some (127, true)

/-- An element stored at a scale: its encoding and flags; `sat` converts in the saturating form (R69, R76). -/
def Fmt.storeElem (f : Fmt) (rm : Word) (sat : Bool) (s : Int) (tight : Bool) (v : FVal) (draw : Nat) : Nat × Flags :=
  match f with
  | .flt g =>
    match v with
    | .nan sig => if g.nan.isSome then (g.canon, flagIf sig fNV) else (0, fNV)
    | .inf neg => match g.inf with
      | some i => (g.signed neg i, 0)
      | none => (g.signed neg g.big, fNV)
    | .fin neg m e =>
      if tight && !f.fits s v then (g.signed neg g.big, fOF)
      else g.convert (g.modeFor (modeOf rm)) (ftzOf rm) sat (.fin neg m (e - s)) draw
  | .int i =>
    match v with
    | .nan _ => (0, fNV)
    | .inf neg => (i.encode (if neg then i.lo else i.hi), fNV)
    | .fin neg m e =>
      if tight && !f.fits s v then (i.encode (if neg then i.lo else i.hi), fSAT)
      else i.convert (modeOf rm) (.fin neg m (e - s))
  | _ => (match v with
    | .fin _ m _ => m
    | _ => 0, 0)

/-- The payload bytes of a block's elements, pads 0, the low nibble first. -/
def payload (bits : Nat) (xs : List Nat) : List Byte :=
  let v := xs.reverse.foldl (fun acc x => acc * 2 ^ bits + x % 2 ^ bits) 0
  leBytes 62 v

/-- A whole block written from its elements (R69): the 64 bytes, of which a zero block keeps its payload, and the flags. A
cb2 block keeps its indices at scale 0 (notes/assumptions 14: DEDUCED). -/
def encodeBlock (code : BitVec 4) (rm : Word) (sat : Bool) (vs : List FVal) (draws : List Nat) (old : List Byte) :
    List Byte × Flags :=
  let f := fmtOf code
  match f with
  | .cb2 => ([BitVec.ofNat 8 code.toNat, 0] ++ payload 16 (vs.map (fun v => (f.storeElem rm sat 0 false v 0).1)), 0)
  | _ =>
    match f.pickScale vs with
    | none => ([BitVec.ofNat 8 code.toNat, 0x80] ++ (old.drop 2).take 62, 0)
    | some (s, tight) =>
      let es := (List.range vs.length).map (fun j => f.storeElem rm sat s tight (vs.getD j (.fin false 0 0)) (draws.getD j 0))
      ([BitVec.ofNat 8 code.toNat, BitVec.ofInt 8 s] ++ payload f.bits (es.map Prod.fst),
        es.foldl (fun a e => a ||| e.2) 0)

/-- The elements of a block as a rewrite reads them back: +0 where it is malformed or of another format (R261). -/
def readBack (code : BitVec 4) (ftz : Bool) (b : List Byte) : List FVal :=
  let f := fmtOf code
  let h := hdrOf b
  (List.range f.epb).map (fun j =>
    if hdrZero h || hdrFault code false h then .fin false 0 0
    else (f.value ftz (blockElem f.bits (hdrNib h) b j)).scale (if code = 12 then 0 else hdrScale h))

/-- The block of a described stream with elements `first` to `first + vals.length - 1` replaced, block `blk` (R261). -/
def rewriteBlock (code : BitVec 4) (rm : Word) (sat : Bool) (blk first : Nat) (vals : List FVal) (draws : List Nat)
    (old : List Byte) : List Byte × Flags :=
  let e := (fmtOf code).epb
  let back := readBack code (ftzOf rm) old
  let vs := (List.range e).map (fun j =>
    let i := blk * e + j
    if first ≤ i ∧ i < first + vals.length then vals.getD (i - first) (.fin false 0 0) else back.getD j (.fin false 0 0))
  encodeBlock code rm sat vs draws old

/-- The values of a row's lanes in a tile's format, subnormals read as zero under FTZ (R73). -/
def rowValues (code : BitVec 4) (ftz : Bool) (v : Row) : List FVal :=
  let f := fmtOf code
  (List.range f.rowLanes).map (fun j => f.value ftz (lane f.bits v j).toNat)

end Sys2Proof.Machine
end

