-- ==== Sys2Proof/Machine/Float.lean ====
section
/-! DEFINITION. Floating arithmetic: exact results rounded once, special values and their flags (03 R72-R74, R77, R79; 08
R197-R203). -/

namespace Sys2Proof.Machine

/-- A signed exact number at a common exponent. -/
def sgn (neg : Bool) (m : Nat) : Int := if neg then -(m : Int) else m

/-- The exact sum of two finite values; the sign of an exact zero follows IEEE 754-2019: the common sign of two zeros
of one sign, else minus only under RDN. -/
def addFin (mode : RMode) (n1 : Bool) (m1 : Nat) (e1 : Int) (n2 : Bool) (m2 : Nat) (e2 : Int) : FVal :=
  let e := min e1 e2
  let v := sgn n1 (m1 * 2 ^ (e1 - e).toNat) + sgn n2 (m2 * 2 ^ (e2 - e).toNat)
  if v = 0 then
    if m1 = 0 && m2 = 0 && n1 == n2 then .fin n1 0 0 else .fin (mode == .rdn) 0 0
  else .fin (decide (v < 0)) v.natAbs e

/-- NV when an operand is a signalling NaN (R72). -/
def sigFlag : FVal → Flags
  | .nan true => fNV
  | _ => 0

/-- The exact sum, with NV for a signalling NaN and for infinity minus infinity. -/
def addVal (mode : RMode) (a b : FVal) : FVal × Flags :=
  let fl := sigFlag a ||| sigFlag b
  match a, b with
  | .nan _, _ => (.nan false, fl)
  | _, .nan _ => (.nan false, fl)
  | .inf x, .inf y => if x = y then (.inf x, fl) else (.nan false, fl ||| fNV)
  | .inf x, _ => (.inf x, fl)
  | _, .inf y => (.inf y, fl)
  | .fin n1 m1 e1, .fin n2 m2 e2 => (addFin mode n1 m1 e1 n2 m2 e2, fl)

/-- The exact product, with NV for a signalling NaN and for zero times infinity. -/
def mulVal (a b : FVal) : FVal × Flags :=
  let fl := sigFlag a ||| sigFlag b
  let neg := a.neg != b.neg
  match a, b with
  | .nan _, _ => (.nan false, fl)
  | _, .nan _ => (.nan false, fl)
  | .inf _, y => if y.isZero then (.nan false, fl ||| fNV) else (.inf neg, fl)
  | x, .inf _ => if x.isZero then (.nan false, fl ||| fNV) else (.inf neg, fl)
  | .fin _ m1 e1, .fin _ m2 e2 => (.fin neg (m1 * m2) (e1 + e2), fl)

/-- d + a × b, the product exact (R197). -/
def fmaVal (mode : RMode) (d a b : FVal) : FVal × Flags :=
  let (p, f1) := mulVal a b
  let (r, f2) := addVal mode d p
  (r, f1 ||| f2)

/-- How a lane operation is carried out: mode, flush, format. -/
structure FEnv where
  f : FF
  mode : RMode
  ftz : Bool
  deriving DecidableEq, Repr

/-- The environment of a row type under RM; rows never draw (R71). -/
def fenv (typ : BitVec 3) (rm : Word) : FEnv := { f := typFF typ, mode := (modeOf rm).plain, ftz := ftzOf rm }

/-- An operand of a lane operation. -/
def FEnv.rd (e : FEnv) (x : Nat) : FVal := e.f.read e.ftz x

/-- The rounded result of an exact one. -/
def FEnv.out (e : FEnv) (r : FVal × Flags) : Nat × Flags :=
  let (x, fl) := e.f.result e.mode e.ftz r.1
  (x, fl ||| r.2)

def FEnv.add (e : FEnv) (a b : Nat) : Nat × Flags := e.out (addVal e.mode (e.rd a) (e.rd b))
def FEnv.sub (e : FEnv) (a b : Nat) : Nat × Flags := e.out (addVal e.mode (e.rd a) (e.rd b).negate)
def FEnv.mul (e : FEnv) (a b : Nat) : Nat × Flags := e.out (mulVal (e.rd a) (e.rd b))
def FEnv.fma (e : FEnv) (a b d : Nat) : Nat × Flags := e.out (fmaVal e.mode (e.rd d) (e.rd a) (e.rd b))
def FEnv.fms (e : FEnv) (a b d : Nat) : Nat × Flags := e.out (fmaVal e.mode (e.rd d) (e.rd a).negate (e.rd b))
def FEnv.fnma (e : FEnv) (a b d : Nat) : Nat × Flags :=
  e.out (fmaVal e.mode (e.rd d).negate (e.rd a).negate (e.rd b))

/-- |a - b|, the exact difference rounded once (R197). -/
def FEnv.absd (e : FEnv) (a b : Nat) : Nat × Flags :=
  let (v, fl) := addVal e.mode (e.rd a) (e.rd b).negate
  let v1 := match v with
    | .nan q => FVal.nan q
    | .inf _ => FVal.inf false
    | .fin _ m x => FVal.fin false m x
  e.out (v1, fl)

/-- Order of two values that are no NaN: the signed comparison of exact values, zeros equal. -/
def cmpVal (a b : FVal) : Ordering :=
  match a, b with
  | .inf x, .inf y => if x = y then .eq else if x then .lt else .gt
  | .inf x, _ => if x then .lt else .gt
  | _, .inf y => if y then .gt else .lt
  | .fin n1 m1 e1, .fin n2 m2 e2 =>
    let e := min e1 e2
    compare (sgn n1 (m1 * 2 ^ (e1 - e).toNat)) (sgn n2 (m2 * 2 ^ (e2 - e).toNat))
  | _, _ => .eq

/-- Whether either is a NaN. -/
def anyNan (a b : FVal) : Bool :=
  match a, b with
  | .nan _, _ => true
  | _, .nan _ => true
  | _, _ => false

/-- The maximum or minimum of R198: -0 below +0, the canonical NaN for a NaN with NV when signalling. -/
def FEnv.pick (e : FEnv) (wantMax : Bool) (a b : Nat) : Nat × Flags :=
  let x := e.rd a
  let y := e.rd b
  if anyNan x y then (e.f.canon, sigFlag x ||| sigFlag y)
  else
    let less := match cmpVal x y with
      | .lt => true
      | .gt => false
      | .eq => x.neg && !y.neg
    let r := if less == wantMax then y else x
    (e.f.result e.mode false r |>.1, 0)

/-- Compares (R198): whether the relation holds, and the flags. -/
def FEnv.cmp (e : FEnv) (quiet : Bool) (p : Ordering → Bool) (onNan : Bool) (a b : Nat) : Bool × Flags :=
  let x := e.rd a
  let y := e.rd b
  if anyNan x y then (onNan, if quiet then sigFlag x ||| sigFlag y else fNV) else (p (cmpVal x y), 0)

/-! ## Division and roots (R74) -/

/-- The square root of `n` by bits, rounded down: `k` bits of the root are still to be found above `r`. -/
def isqrtBits (n : Nat) : Nat → Nat → Nat
  | 0, r => r
  | k + 1, r =>
    let t := r + 2 ^ k
    isqrtBits n k (if t * t ≤ n then t else r)

/-- The integer square root. -/
def isqrt (n : Nat) : Nat := isqrtBits n (bitLen n / 2 + 1) 0

/-- A finite quotient rounded once. -/
def FEnv.quot (e : FEnv) (neg : Bool) (m1 : Nat) (e1 : Int) (m2 : Nat) (e2 : Int) : Nat × Flags :=
  let k := e.f.f + 4 + bitLen m2
  let n := m1 * 2 ^ k
  e.f.round e.mode e.ftz false neg (n / m2) (e1 - e2 - k) (n % m2 != 0) 0

/-- a / b (R72, R74). -/
def FEnv.div (e : FEnv) (a b : Nat) : Nat × Flags :=
  let x := e.rd a
  let y := e.rd b
  let fl := sigFlag x ||| sigFlag y
  let neg := x.neg != y.neg
  let infR := (e.f.inf.map (e.f.signed neg)).getD 0
  if anyNan x y then (e.f.canon, fl)
  else match x, y with
    | .inf _, .inf _ => (e.f.canon, fl ||| fNV)
    | .inf _, _ => (infR, fl)
    | _, .inf _ => (e.f.signed neg 0, fl)
    | .fin _ m1 e1, .fin _ m2 e2 =>
      if m2 = 0 then (if m1 = 0 then (e.f.canon, fl ||| fNV) else (infR, fl ||| fDZ))
      else if m1 = 0 then (e.f.signed neg 0, fl)
      else e.quot neg m1 e1 m2 e2
    | _, _ => (e.f.canon, fl)

/-- A magnitude and exponent with the exponent even. -/
def evenExp (m : Nat) (x : Int) : Nat × Int := if x % 2 = 0 then (m, x) else (2 * m, x - 1)

/-- The square root (R74). -/
def FEnv.sqrt (e : FEnv) (a : Nat) : Nat × Flags :=
  match e.rd a with
  | .nan q => (e.f.canon, flagIf q fNV)
  | .inf n => if n then (e.f.canon, fNV) else (e.f.inf.getD 0, 0)
  | .fin n m x =>
    if m = 0 then (e.f.signed n 0, 0)
    else if n then (e.f.canon, fNV)
    else
      let (m1, x1) := evenExp m x
      let k := e.f.f + 4
      let r := isqrt (m1 * 2 ^ (2 * k))
      e.f.round e.mode e.ftz false false r (x1 / 2 - k) (r * r != m1 * 2 ^ (2 * k)) 0

/-- The reciprocal (R74). -/
def FEnv.rcp (e : FEnv) (a : Nat) : Nat × Flags := e.div (e.f.result .rne false (.fin false 1 0)).1 a

/-- The reciprocal square root (R74). -/
def FEnv.rsq (e : FEnv) (a : Nat) : Nat × Flags :=
  match e.rd a with
  | .nan q => (e.f.canon, flagIf q fNV)
  | .inf n => if n then (e.f.canon, fNV) else (e.f.signed false 0, 0)
  | .fin n m x =>
    if m = 0 then ((e.f.inf.map (e.f.signed n)).getD 0, fDZ)
    else if n then (e.f.canon, fNV)
    else
      let (m1, x1) := evenExp m x
      let k := e.f.f + 4 + bitLen m1
      let r := isqrt (2 ^ (2 * k) / m1)
      e.f.round e.mode e.ftz false false r (-(x1 / 2) - k) (r * r * m1 != 2 ^ (2 * k)) 0

/-! ## VEXP2, VLOG2, VTANH (R74): fixed-point series of far more bits than any format holds, truncated -/

/-- Fraction bits of the series. -/
def fixBits : Nat := 720

/-- The terms z^(2k+1) / (2k+1) of artanh, `n` of them; `p` is z^(2k+1). -/
def artanhSum (zz : Nat) : Nat → Nat → Nat → Nat
  | 0, _, _ => 0
  | n + 1, k, p => p / (2 * k + 1) + artanhSum zz n (k + 1) (p * zz / 2 ^ fixBits)

/-- artanh of `z` in fixed point. -/
def artanhFix (z : Nat) : Nat := artanhSum (z * z / 2 ^ fixBits) 240 0 z

/-- ln 2 in fixed point. -/
def ln2Fix : Nat := 2 * artanhFix (2 ^ fixBits / 3)

/-- The terms y^k / k! of the exponential, `n` of them. -/
def expSum (y : Nat) : Nat → Nat → Nat → Nat
  | 0, _, _ => 0
  | n + 1, k, t => t + expSum y n (k + 1) (t * y / 2 ^ fixBits / (k + 1))

/-- 2^f in fixed point, for a fraction f in fixed point. -/
def exp2Fix (f : Nat) : Nat := expSum (f * ln2Fix / 2 ^ fixBits) 160 0 (2 ^ fixBits)

/-- |x| in fixed point with the fraction truncated, and whether something was cut off. -/
def toFix (m : Nat) (x : Int) : Nat × Bool :=
  let s := x + fixBits
  if 0 ≤ s then (m * 2 ^ s.toNat, false)
  else
    let d := 2 ^ (-s).toNat
    (m / d, m % d != 0)

/-- VEXP2 (R74): exact for integer-valued operands, else irrational and so inexact. -/
def FEnv.exp2 (e : FEnv) (a : Nat) : Nat × Flags :=
  match e.rd a with
  | .nan q => (e.f.canon, flagIf q fNV)
  | .inf n => if n then (e.f.signed false 0, 0) else (e.f.inf.getD 0, 0)
  | .fin n m x =>
    if 64 < x + bitLen m then
      if n then e.f.round e.mode e.ftz false false 1 (-(2 ^ 60 : Int)) true 0
      else e.f.round e.mode e.ftz false false 1 (2 ^ 20) true 0
    else
      let (v, cut) := toFix m x
      let v1 := if n && cut then v + 1 else v
      let i : Int := if n then -((v1 + 2 ^ fixBits - 1) / 2 ^ fixBits : Nat) else (v1 / 2 ^ fixBits : Nat)
      let fr : Nat := if n then (2 ^ fixBits - v1 % 2 ^ fixBits) % 2 ^ fixBits else v1 % 2 ^ fixBits
      if fr = 0 && !cut then e.f.round e.mode e.ftz false false 1 i false 0
      else e.f.round e.mode e.ftz false false (exp2Fix fr / 2 ^ 200) (i - fixBits + 200) true 0

/-- VLOG2 (R74): exact for powers of two, else irrational. -/
def FEnv.log2 (e : FEnv) (a : Nat) : Nat × Flags :=
  match e.rd a with
  | .nan q => (e.f.canon, flagIf q fNV)
  | .inf n => if n then (e.f.canon, fNV) else (e.f.inf.getD 0, 0)
  | .fin n m x =>
    if m = 0 then ((e.f.inf.map (e.f.signed true)).getD 0, fDZ)
    else if n then (e.f.canon, fNV)
    else
      let len := bitLen m
      let top : Int := x + len - 1
      if m = 2 ^ (len - 1) then
        let (r, fl) := e.f.round e.mode e.ftz false (decide (top < 0)) top.natAbs 0 false 0
        (r, fl)
      else
        let one := 2 ^ (len - 1)
        let z := (m - one) * 2 ^ fixBits / (m + one)
        let g := 2 * artanhFix z * 2 ^ fixBits / ln2Fix
        let v : Int := top * 2 ^ fixBits + g
        let cut : Int := v / 2 ^ 200
        if 0 ≤ cut then e.f.round e.mode e.ftz false false cut.toNat (200 - (fixBits : Int)) true 0
        else e.f.round e.mode e.ftz false true (-cut - 1).toNat (200 - (fixBits : Int)) true 0

/-- VTANH (R74): (1 - t) / (1 + t) with t = 2^(-2|x| / ln 2); just below |x| for tiny operands. -/
def FEnv.tanh (e : FEnv) (a : Nat) : Nat × Flags :=
  match e.rd a with
  | .nan q => (e.f.canon, flagIf q fNV)
  | .inf n => (e.f.result .rne false (.fin n 1 0)).1 |> fun r => (r, 0)
  | .fin n m x =>
    if m = 0 then (e.f.signed n 0, 0)
    else if x + bitLen m < -100 then e.f.round e.mode e.ftz false n (m * 2 ^ 190 - 1) (x - 190) true 0
    else if 10 < x + bitLen m then e.f.round e.mode e.ftz false n (2 ^ 300 - 1) (-300) true 0
    else
      let (v, _) := toFix m x
      let y := 2 * v * 2 ^ fixBits / ln2Fix
      let i := y / 2 ^ fixBits
      let fr := y % 2 ^ fixBits
      let t := 2 ^ fixBits * 2 ^ fixBits / exp2Fix fr / 2 ^ i
      let q := (2 ^ fixBits - t) * 2 ^ fixBits / (2 ^ fixBits + t)
      e.f.round e.mode e.ftz false n (q / 2 ^ 100 - 1) (100 - (fixBits : Int)) true 0

/-! ## Rounding to integral values, classes, copies (R201, R202, R79) -/

/-- A value rounded to an integral value in a mode; `exact` raises NX when it changes. -/
def FEnv.rint (e : FEnv) (mode : RMode) (exact : Bool) (a : Nat) : Nat × Flags :=
  match e.rd a with
  | .nan q => (e.f.canon, flagIf q fNV)
  | .inf n => ((e.f.inf.map (e.f.signed n)).getD 0, 0)
  | .fin n m x =>
    let (g, nx) := onGrid mode n m x 0 false 0
    ((e.f.round .rne false false n g 0 false 0).1, flagIf (exact && nx) fNX)

/-- The class bit of an operand after FTZ (R202). -/
def FEnv.cls (e : FEnv) (a : Nat) : Nat :=
  match e.rd a with
  | .nan q => if q then 2 ^ 8 else 2 ^ 9
  | .inf n => if n then 2 ^ 0 else 2 ^ 7
  | .fin n m _ =>
    if m = 0 then (if n then 2 ^ 3 else 2 ^ 4)
    else if e.f.subnormal a then (if n then 2 ^ 2 else 2 ^ 5)
    else (if n then 2 ^ 1 else 2 ^ 6)

/-- A lane taken as an operand without rounding (R79): a NaN canonical with NV when signalling, a subnormal a zero under
FTZ, any other value copied. -/
def FEnv.copy (e : FEnv) (a : Nat) : Nat × Flags :=
  match e.rd a with
  | .nan q => (e.f.canon, flagIf q fNV)
  | .fin n 0 _ => (e.f.signed n 0, 0)
  | _ => (a, 0)

end Sys2Proof.Machine
end

