-- ==== Sys2Proof/WellFormed.lean ====
section
/-! DEFINITION. Which instructions are well formed: the field values an instruction allows (06 R147; the class of typ,
08 R194; the fields named in 08 R206, 12 R271, 09 R216, 07 R185, 19 R342; the ranges of 10 R232), and which of them a
version of the encoding has (06 R155). -/

namespace Sys2Proof

/-- The field values of R147 and of the instruction's own entry, in version 3. -/
def Instr.wf : Instr → Bool
  | .add _ _ _ _ _ => true
  | .sub _ _ _ _ _ => true
  | .and_ _ _ _ _ _ => true
  | .or_ _ _ _ _ _ => true
  | .xor_ _ _ _ _ _ => true
  | .andn _ _ _ _ _ => true
  | .orn _ _ _ _ _ => true
  | .shl _ _ _ _ _ => true
  | .shr _ _ _ _ _ => true
  | .sra _ _ _ _ _ => true
  | .ror _ _ _ _ _ => true
  | .mul _ _ _ _ _ => true
  | .mulh _ _ _ _ _ => true
  | .mulhu _ _ _ _ _ => true
  | .div _ _ _ _ _ => true
  | .divu _ _ _ _ _ => true
  | .rem _ _ _ _ _ => true
  | .remu _ _ _ _ _ => true
  | .min _ _ _ _ _ => true
  | .max _ _ _ _ _ => true
  | .minu _ _ _ _ _ => true
  | .maxu _ _ _ _ _ => true
  | .slt _ _ _ _ _ => true
  | .sltu _ _ _ _ _ => true
  | .seq _ _ _ _ _ => true
  | .sne _ _ _ _ _ => true
  | .clz _ _ _ => true
  | .ctz _ _ _ => true
  | .popc _ _ _ => true
  | .sext _ _ _ sb => decide (sb.toNat ≤ 2)
  | .zext _ _ _ sb => decide (sb.toNat ≤ 2)
  | .cmovz _ _ _ _ _ => true
  | .cmovnz _ _ _ _ _ => true
  | .lea _ _ _ _ _ _ => true
  | .addw _ _ _ _ _ => true
  | .subw _ _ _ _ _ => true
  | .mulw _ _ _ _ _ => true
  | .shlw _ _ _ _ _ => true
  | .shrw _ _ _ _ _ => true
  | .sraw _ _ _ _ _ => true
  | .bswap _ _ _ => true
  | .addi _ _ _ => true
  | .andi _ _ _ => true
  | .ori _ _ _ => true
  | .xori _ _ _ => true
  | .slti _ _ _ => true
  | .sltiu _ _ _ => true
  | .shli _ _ _ => true
  | .shri _ _ _ => true
  | .srai _ _ _ => true
  | .movz _ _ _ => true
  | .movk _ _ _ => true
  | .movn _ _ _ => true
  | .movl _ _ => true
  | .movlS _ _ => true
  | .movlh _ _ => true
  | .beqz an _ _ => decide (an ≠ 3#2)
  | .bnez an _ _ => decide (an ≠ 3#2)
  | .bltz an _ _ => decide (an ≠ 3#2)
  | .bgez an _ _ => decide (an ≠ 3#2)
  | .bgtz an _ _ => decide (an ≠ 3#2)
  | .blez an _ _ => decide (an ≠ 3#2)
  | .bbs an _ _ => decide (an ≠ 3#2)
  | .bbc an _ _ => decide (an ≠ 3#2)
  | .jmp _ => true
  | .jal _ => true
  | .nop => true
  | .jalr _ _ _ => true
  | .trap _ _ => true
  | .brk => true
  | .yield => true
  | .susp _ sb => decide (sb.toNat = 0 ∨ 4 ≤ sb.toNat)
  | .exit => true
  | .csrr _ n => decide (n.toNat ≤ 0x14)
  | .csrw _ n => decide (n.toNat ≤ 0x14)
  | .csrx _ n => decide (n.toNat ≤ 0x14)
  | .quant => true
  | .rep cnt creg _ _ ke k => decide ((creg = 0#1 ∨ cnt.toNat < 32) ∧ (ke = 1#1 ∨ k = 0#3))
  | .ld _ _ sz zx _ => decide (¬(sz = 3#2 ∧ zx = 1#1))
  | .ldAcq _ _ sz zx _ _ => decide (¬(sz = 3#2 ∧ zx = 1#1))
  | .st _ _ _ _ => true
  | .stRel _ _ _ _ _ => true
  | .ldr _ _ _ _ => true
  | .str _ _ _ _ => true
  | .ldrd _ _ _ _ => true
  | .strd _ _ _ _ => true
  | .ldrb _ _ _ _ => true
  | .pft _ _ => true
  | .aadd _ _ _ _ => true
  | .aand _ _ _ _ => true
  | .aor _ _ _ _ => true
  | .axor _ _ _ _ => true
  | .amin _ _ _ _ => true
  | .amax _ _ _ _ => true
  | .aminu _ _ _ _ => true
  | .amaxu _ _ _ _ => true
  | .aswap _ _ _ _ => true
  | .acas _ _ _ _ _ => true
  | .aqinc _ _ _ _ => true
  | .aqwrap _ _ _ _ => true
  | .aqdec _ _ _ => true
  | .aqaddl _ _ _ => true
  | .aqchunk _ _ _ => true
  | .afadd _ _ _ _ => true
  | .vamo _ _ _ _ _ => true
  | .fence _ _ => true
  | .relt _ _ _ => true
  | .acqt _ _ _ => true
  | .ifence => true
  | .arrb _ _ => true
  | .waitb _ _ _ => true
  | .waita _ _ _ ord _ => decide (ord = 0#2 ∨ ord = 3#2)
  | .evset _ ord _ => decide (ord = 1#2 ∨ ord = 3#2)
  | .evclr _ ord _ => decide (ord = 1#2 ∨ ord = 3#2)
  | .evwait _ _ ord _ => decide (ord = 0#2 ∨ ord = 3#2)
  | .swin _ _ _ _ => true
  | .swclose _ _ => true
  | .acopy _ _ => true
  | .agather _ _ _ => true
  | .ascatter _ _ _ => true
  | .acoll _ _ _ => true
  | .sbind _ _ => true
  | .sunb _ _ => true
  | .anote _ _ _ _ => true
  | .acancel _ => true
  | .acancelAll => true
  | .tspawn _ _ _ _ => true
  | .tend => true
  | .tabort _ => true
  | .twait _ _ => true
  | .tserial => true
  | .tinfo _ _ => true
  | .vadd _ _ _ _ _ => true
  | .vsub _ _ _ _ _ => true
  | .vmul _ _ _ _ _ => true
  | .vfma _ _ _ _ _ => true
  | .vfms _ _ _ _ _ => true
  | .vfnma _ _ _ _ _ => true
  | .vmin _ _ _ _ _ => true
  | .vmax _ _ _ _ _ => true
  | .vdiv _ _ _ _ _ => true
  | .vand _ _ _ _ _ => true
  | .vor _ _ _ _ _ => true
  | .vxor _ _ _ _ _ => true
  | .vandn _ _ _ _ _ => true
  | .vshl typ _ _ _ _ => decide (4 ≤ typ.toNat)
  | .vshr typ _ _ _ _ => decide (4 ≤ typ.toNat)
  | .vsra typ _ _ _ _ => decide (4 ≤ typ.toNat)
  | .vceq _ _ _ _ _ => true
  | .vclt _ _ _ _ _ => true
  | .vcle _ _ _ _ _ => true
  | .vcne _ _ _ _ _ => true
  | .vadds typ _ _ _ _ => decide (4 ≤ typ.toNat)
  | .vsubs typ _ _ _ _ => decide (4 ≤ typ.toNat)
  | .vmulh typ _ _ _ _ => decide (4 ≤ typ.toNat)
  | .vabsd _ _ _ _ _ => true
  | .vsel _ _ _ _ _ => true
  | .vcopysign typ _ _ _ _ => decide (typ.toNat < 4)
  | .vabs _ _ _ _ => true
  | .vneg _ _ _ _ => true
  | .vsqrt typ _ _ _ => decide (typ.toNat < 4)
  | .vrcp typ _ _ _ => decide (typ.toNat < 4)
  | .vrsq typ _ _ _ => decide (typ.toNat < 4)
  | .vexp2 typ _ _ _ => decide (typ.toNat < 4)
  | .vlog2 typ _ _ _ => decide (typ.toNat < 4)
  | .vtanh typ _ _ _ => decide (typ.toNat < 4)
  | .vfloor typ _ _ _ => decide (typ.toNat < 4)
  | .vceil typ _ _ _ => decide (typ.toNat < 4)
  | .vrint typ _ _ _ => decide (typ.toNat < 4)
  | .vcvt _ _ _ tb _ => decide (tb.toNat < 14)
  | .vcvts _ _ _ tb _ => decide (tb.toNat < 14)
  | .vclz typ _ _ _ => decide (4 ≤ typ.toNat)
  | .vpopc typ _ _ _ => decide (4 ≤ typ.toNat)
  | .vnot _ _ _ _ => true
  | .vscan _ _ _ _ => true
  | .vscanmax _ _ _ _ => true
  | .vsegscan _ _ _ _ => true
  | .vclass typ _ _ _ => decide (typ.toNat < 4)
  | .vmov _ _ _ _ => true
  | .vswap _ _ _ _ => true
  | .trn8B _ rd _ ra => decide (rd.toNat % 8 = 0 ∧ ra.toNat % 8 = 0)
  | .trn8H _ rd _ ra => decide (rd.toNat % 8 = 0 ∧ ra.toNat % 8 = 0)
  | .trn8W _ rd _ ra => decide (rd.toNat % 8 = 0 ∧ ra.toNat % 8 = 0)
  | .vrev _ _ _ _ => true
  | .vzero _ _ => true
  | .tzero _ => true
  | .tmov _ _ => true
  | .vbcast _ _ _ _ => true
  | .vextr _ _ _ _ => true
  | .vredadd _ _ _ _ => true
  | .vredmax _ _ _ _ => true
  | .vredmin _ _ _ _ => true
  | .viota _ _ _ _ => true
  | .kfromrow _ _ _ _ => true
  | .ktorow _ _ _ _ => true
  | .kpopc _ _ _ => true
  | .kfirst _ _ _ => true
  | .kmovs _ _ _ => true
  | .kmovd _ _ _ => true
  | .kand _ _ _ => true
  | .kor _ _ _ => true
  | .kxor _ _ _ => true
  | .knot _ _ => true
  | .pload pd _ _ _ => decide (pd ≠ 0#3)
  | .pstore _ _ _ => true
  | .pgetr _ _ _ => true
  | .psetr pd _ _ => decide (pd ≠ 0#3)
  | .pcomp pd _ _ => decide (pd ≠ 0#3)
  | .pinv pd _ => decide (pd ≠ 0#3)
  | .prand pd _ => decide (pd ≠ 0#3)
  | .pid pd => decide (pd ≠ 0#3)
  | .pmov pd _ => decide (pd ≠ 0#3)
  | .pcyc _ _ => true
  | .pfix _ _ => true
  | .pord _ _ => true
  | .pclen _ _ => true
  | .peq _ _ _ => true
  | .papplyR _ _ _ => true
  | .papplyL _ _ _ _ => true
  | .mcall _ _ _ => true
  | .mpset _ _ => true
  | .mpget _ _ => true
  | .mtset _ _ _ => true
  | .mtget _ _ => true
  | .mtclr _ => true
  | .mloadp _ _ => true
  | .mfencep => true
  | .mbmap _ => true
  | .sret => true
  | .pcsrr _ n => decide (n.toNat ≤ 0x14 ∨ (0x100 ≤ n.toNat ∧ n.toNat ≤ 0x115))
  | .pcsrw _ n => decide (n.toNat ≤ 0x14 ∨ (0x100 ≤ n.toNat ∧ n.toNat ≤ 0x115))
  | .tlbinv _ _ _ _ => true
  | .tlbsync => true
  | .ctxsave => true
  | .ctxload => true
  | .strstart _ _ _ => true
  | .strstop _ _ => true
  | .wfi => true
  | .haltc => true
  | .end_ => true
  | .zero _ _ => true
  | .lda _ _ _ _ _ => true
  | .ldb _ _ _ _ _ => true
  | .mac _ _ _ => true
  | .dec => true
  | .bmap a b => decide (¬(a = 0#1 ∧ b = 0#1))
  | .loop _ cnt back => decide (cnt ≠ 0#16 ∧ back ≠ 0#12)
  | .adv _ mode _ => decide (mode ≠ 3#2)
  | .perm _ => true
  | .out _ _ _ rnd _ _ _ => decide (rnd.toNat ≤ 4)
  | .sig _ _ => true
  | .packetFetch => true
  | .illegalOpcode => true
  | .illegalBundle => true
  | .annulledBundle => true
  | .repRepetition => true
  | .resultLanding => true
  | .longLatencyDelivery => true
  | .solveDelivery => true
  | .refresh => true
  | .rowExpiry => true
  | .blockSuspend => true
  | .irrevocableSuspend => true
  | .tserialSuspend => true
  | .tspawnIdSuspend => true
  | .dispatch => true
  | .contextSave => true
  | .queueTransfer => true
  | .dieSteal => true
  | .agingPromotion => true
  | .quantumExpiry => true
  | .waitRequest => true
  | .objectArrival => true
  | .wake => true
  | .waitTimeout => true
  | .atomicPerform => true
  | .tileRequest => true
  | .leaseRenewal => true
  | .lineWriteback => true
  | .streamPrefetch => true
  | .mloadpCopy => true
  | .matrixCallStart => true
  | .matrixCallEnd => true
  | .engineCompletion => true
  | .arrivalHandlerCreate => true
  | .seamPulse => true
  | .faultedTaskRequeue => true
  | .uncorrectableError => true
  | .machineCheck => true
  | .retryExhausted => true
  | .stepStop => true
  | .addressBreak => true
  | .deadlock => true
  | .launch => true
  | .launchReplica => true
  | .startBarrier => true
  | .startTimeout => true
  | .launchEnd => true
  | .preempt => true
  | .resume => true
  | .teardown => true
  | .resetq => true
  | .query => true
  | .step => true
  | .break_ => true
  | .record => true
  | .replay => true
  | .partition => true
  | .keyload => true
  | .bias => true
  | .errlog => true
  | .unknownCommand => true
  | .rplnWrite => true
  | .arrfWrite => true
  | .dmcfgWrite => true
  | .describedRangeWrite => true
  | .einjWrite => true
  | .registerWrite => true
  | .peerRequest => true
  | .hostRead => true
  | .hostWrite => true
  | .hostSnoop => true
  | .frameReceive => true
  | .linkRetry => true
  | .keyRotation => true
  | .messageResend => true
  | .deviceRecovery => true
  | .rejoin => true
  | .ptimeOutOfBound => true
  | .powerUp => true
  | .supervisorImageLoad => true
  | .pldmRequest => true
  | .leaseExpiry => true
  | .accessAtHome => true
  | .writeAcknowledgement => true
  | .hostResponse => true
  | .correctedError => true
  | .rejoinTimeout => true
  | .linkRetrained => true
  | .ptimeWithinBound => true
  | .powerLoss => true

/-- Is the operation an event of the device (a row of the table without an encoding)? -/
def Instr.isEvent : Instr → Bool
  | .packetFetch => true
  | .illegalOpcode => true
  | .illegalBundle => true
  | .annulledBundle => true
  | .repRepetition => true
  | .resultLanding => true
  | .longLatencyDelivery => true
  | .solveDelivery => true
  | .refresh => true
  | .rowExpiry => true
  | .blockSuspend => true
  | .irrevocableSuspend => true
  | .tserialSuspend => true
  | .tspawnIdSuspend => true
  | .dispatch => true
  | .contextSave => true
  | .queueTransfer => true
  | .dieSteal => true
  | .agingPromotion => true
  | .quantumExpiry => true
  | .waitRequest => true
  | .objectArrival => true
  | .wake => true
  | .waitTimeout => true
  | .atomicPerform => true
  | .tileRequest => true
  | .leaseRenewal => true
  | .lineWriteback => true
  | .streamPrefetch => true
  | .mloadpCopy => true
  | .matrixCallStart => true
  | .matrixCallEnd => true
  | .engineCompletion => true
  | .arrivalHandlerCreate => true
  | .seamPulse => true
  | .faultedTaskRequeue => true
  | .uncorrectableError => true
  | .machineCheck => true
  | .retryExhausted => true
  | .stepStop => true
  | .addressBreak => true
  | .deadlock => true
  | .launch => true
  | .launchReplica => true
  | .startBarrier => true
  | .startTimeout => true
  | .launchEnd => true
  | .preempt => true
  | .resume => true
  | .teardown => true
  | .resetq => true
  | .query => true
  | .step => true
  | .break_ => true
  | .record => true
  | .replay => true
  | .partition => true
  | .keyload => true
  | .bias => true
  | .errlog => true
  | .unknownCommand => true
  | .rplnWrite => true
  | .arrfWrite => true
  | .dmcfgWrite => true
  | .describedRangeWrite => true
  | .einjWrite => true
  | .registerWrite => true
  | .peerRequest => true
  | .hostRead => true
  | .hostWrite => true
  | .hostSnoop => true
  | .frameReceive => true
  | .linkRetry => true
  | .keyRotation => true
  | .messageResend => true
  | .deviceRecovery => true
  | .rejoin => true
  | .ptimeOutOfBound => true
  | .powerUp => true
  | .supervisorImageLoad => true
  | .pldmRequest => true
  | .leaseExpiry => true
  | .accessAtHome => true
  | .writeAcknowledgement => true
  | .hostResponse => true
  | .correctedError => true
  | .rejoinTimeout => true
  | .linkRetrained => true
  | .ptimeWithinBound => true
  | .powerLoss => true
  | _ => false

/-- Is the operation a step of a matrix routine (R232)? -/
def Instr.isStep : Instr → Bool
  | .end_ => true
  | .zero _ _ => true
  | .lda _ _ _ _ _ => true
  | .ldb _ _ _ _ _ => true
  | .mac _ _ _ => true
  | .dec => true
  | .bmap _ _ => true
  | .loop _ _ _ => true
  | .adv _ _ _ => true
  | .perm _ => true
  | .out _ _ _ _ _ _ _ => true
  | .sig _ _ => true
  | _ => false

/-- Instructions that version 2 lacks (R155). -/
def Instr.notIn2 : Instr → Bool
  | .pload _ _ _ _ => true
  | .pstore _ _ _ => true
  | .pgetr _ _ _ => true
  | .psetr _ _ _ => true
  | .pcomp _ _ _ => true
  | .pinv _ _ => true
  | .prand _ _ => true
  | .pid _ => true
  | .pmov _ _ => true
  | .pcyc _ _ => true
  | .pfix _ _ => true
  | .pord _ _ => true
  | .pclen _ _ => true
  | .peq _ _ _ => true
  | .papplyR _ _ _ => true
  | .papplyL _ _ _ _ => true
  | .tserial => true
  | .vsegscan _ _ _ _ => true
  | .strd _ _ _ _ => true
  | _ => false

/-- Instructions that version 1 lacks (R155): those of version 2, every TASK word, and REP counts above 16 that the word gives itself:
where cnt names a register it names any (notes/assumptions 87: DEDUCED). -/
def Instr.notIn1 : Instr → Bool
  | .tspawn _ _ _ _ => true
  | .tend => true
  | .tabort _ => true
  | .twait _ _ => true
  | .tserial => true
  | .tinfo _ _ => true
  | .pload _ _ _ _ => true
  | .pstore _ _ _ => true
  | .pgetr _ _ _ => true
  | .psetr _ _ _ => true
  | .pcomp _ _ _ => true
  | .pinv _ _ => true
  | .prand _ _ => true
  | .pid _ => true
  | .pmov _ _ => true
  | .pcyc _ _ => true
  | .pfix _ _ => true
  | .pord _ _ => true
  | .pclen _ _ => true
  | .peq _ _ _ => true
  | .papplyR _ _ _ => true
  | .papplyL _ _ _ _ => true
  | .vsegscan _ _ _ _ => true
  | .strd _ _ _ _ => true
  | .rep cnt creg _ _ _ _ => decide (creg = 0#1 ∧ 16 ≤ cnt.toNat)
  | _ => false

/-- A version-1 branch has no annulling forms; its an field is displacement (R156), so every value is allowed. -/
def Instr.isBranch : Instr → Bool
  | .beqz _ _ _ => true
  | .bnez _ _ _ => true
  | .bltz _ _ _ => true
  | .bgez _ _ _ => true
  | .bgtz _ _ _ => true
  | .blez _ _ _ => true
  | .bbs _ _ _ => true
  | .bbc _ _ _ => true
  | _ => false

/-- Well-formed in encoding version `ver` (R155). -/
def Instr.wfIn (ver : BitVec 2) (i : Instr) : Bool :=
  if ver = 3#2 then i.wf
  else if ver = 2#2 then i.wf && !i.notIn2
  else if ver = 1#2 then (i.wf || i.isBranch) && !i.notIn1
  else false

end Sys2Proof
end

