-- ==== Sys2Proof/Decode.lean ====
section
/-! DEFINITION. Decoding (06 R138-R159, 10 R232): the fields of each format, the opcode map, the three encoding
versions, the split of a packet into bundles, the stepping of a REP target's fields; and the encoder. -/

namespace Sys2Proof

/-- SALU, major 1 (R166-R170). -/
def decode1 (w : BitVec 32) : Option Instr :=
  match (w.extractLsb' 20 6).toNat with
  | 0 => if w.extractLsb' 0 3 = 0#3 then some (.add (w.extractLsb' 15 5) (w.extractLsb' 10 5) (w.extractLsb' 5 5) (w.extractLsb' 4 1) (w.extractLsb' 3 1)) else none
  | 1 => if w.extractLsb' 0 3 = 0#3 then some (.sub (w.extractLsb' 15 5) (w.extractLsb' 10 5) (w.extractLsb' 5 5) (w.extractLsb' 4 1) (w.extractLsb' 3 1)) else none
  | 2 => if w.extractLsb' 0 3 = 0#3 then some (.and_ (w.extractLsb' 15 5) (w.extractLsb' 10 5) (w.extractLsb' 5 5) (w.extractLsb' 4 1) (w.extractLsb' 3 1)) else none
  | 3 => if w.extractLsb' 0 3 = 0#3 then some (.or_ (w.extractLsb' 15 5) (w.extractLsb' 10 5) (w.extractLsb' 5 5) (w.extractLsb' 4 1) (w.extractLsb' 3 1)) else none
  | 4 => if w.extractLsb' 0 3 = 0#3 then some (.xor_ (w.extractLsb' 15 5) (w.extractLsb' 10 5) (w.extractLsb' 5 5) (w.extractLsb' 4 1) (w.extractLsb' 3 1)) else none
  | 5 => if w.extractLsb' 0 3 = 0#3 then some (.andn (w.extractLsb' 15 5) (w.extractLsb' 10 5) (w.extractLsb' 5 5) (w.extractLsb' 4 1) (w.extractLsb' 3 1)) else none
  | 6 => if w.extractLsb' 0 3 = 0#3 then some (.orn (w.extractLsb' 15 5) (w.extractLsb' 10 5) (w.extractLsb' 5 5) (w.extractLsb' 4 1) (w.extractLsb' 3 1)) else none
  | 7 => if w.extractLsb' 0 3 = 0#3 then some (.shl (w.extractLsb' 15 5) (w.extractLsb' 10 5) (w.extractLsb' 5 5) (w.extractLsb' 4 1) (w.extractLsb' 3 1)) else none
  | 8 => if w.extractLsb' 0 3 = 0#3 then some (.shr (w.extractLsb' 15 5) (w.extractLsb' 10 5) (w.extractLsb' 5 5) (w.extractLsb' 4 1) (w.extractLsb' 3 1)) else none
  | 9 => if w.extractLsb' 0 3 = 0#3 then some (.sra (w.extractLsb' 15 5) (w.extractLsb' 10 5) (w.extractLsb' 5 5) (w.extractLsb' 4 1) (w.extractLsb' 3 1)) else none
  | 10 => if w.extractLsb' 0 3 = 0#3 then some (.ror (w.extractLsb' 15 5) (w.extractLsb' 10 5) (w.extractLsb' 5 5) (w.extractLsb' 4 1) (w.extractLsb' 3 1)) else none
  | 11 => if w.extractLsb' 0 3 = 0#3 then some (.mul (w.extractLsb' 15 5) (w.extractLsb' 10 5) (w.extractLsb' 5 5) (w.extractLsb' 4 1) (w.extractLsb' 3 1)) else none
  | 12 => if w.extractLsb' 0 3 = 0#3 then some (.mulh (w.extractLsb' 15 5) (w.extractLsb' 10 5) (w.extractLsb' 5 5) (w.extractLsb' 4 1) (w.extractLsb' 3 1)) else none
  | 13 => if w.extractLsb' 0 3 = 0#3 then some (.mulhu (w.extractLsb' 15 5) (w.extractLsb' 10 5) (w.extractLsb' 5 5) (w.extractLsb' 4 1) (w.extractLsb' 3 1)) else none
  | 14 => if w.extractLsb' 0 3 = 0#3 then some (.div (w.extractLsb' 15 5) (w.extractLsb' 10 5) (w.extractLsb' 5 5) (w.extractLsb' 4 1) (w.extractLsb' 3 1)) else none
  | 15 => if w.extractLsb' 0 3 = 0#3 then some (.divu (w.extractLsb' 15 5) (w.extractLsb' 10 5) (w.extractLsb' 5 5) (w.extractLsb' 4 1) (w.extractLsb' 3 1)) else none
  | 16 => if w.extractLsb' 0 3 = 0#3 then some (.rem (w.extractLsb' 15 5) (w.extractLsb' 10 5) (w.extractLsb' 5 5) (w.extractLsb' 4 1) (w.extractLsb' 3 1)) else none
  | 17 => if w.extractLsb' 0 3 = 0#3 then some (.remu (w.extractLsb' 15 5) (w.extractLsb' 10 5) (w.extractLsb' 5 5) (w.extractLsb' 4 1) (w.extractLsb' 3 1)) else none
  | 18 => if w.extractLsb' 0 3 = 0#3 then some (.min (w.extractLsb' 15 5) (w.extractLsb' 10 5) (w.extractLsb' 5 5) (w.extractLsb' 4 1) (w.extractLsb' 3 1)) else none
  | 19 => if w.extractLsb' 0 3 = 0#3 then some (.max (w.extractLsb' 15 5) (w.extractLsb' 10 5) (w.extractLsb' 5 5) (w.extractLsb' 4 1) (w.extractLsb' 3 1)) else none
  | 20 => if w.extractLsb' 0 3 = 0#3 then some (.minu (w.extractLsb' 15 5) (w.extractLsb' 10 5) (w.extractLsb' 5 5) (w.extractLsb' 4 1) (w.extractLsb' 3 1)) else none
  | 21 => if w.extractLsb' 0 3 = 0#3 then some (.maxu (w.extractLsb' 15 5) (w.extractLsb' 10 5) (w.extractLsb' 5 5) (w.extractLsb' 4 1) (w.extractLsb' 3 1)) else none
  | 22 => if w.extractLsb' 0 3 = 0#3 then some (.slt (w.extractLsb' 15 5) (w.extractLsb' 10 5) (w.extractLsb' 5 5) (w.extractLsb' 4 1) (w.extractLsb' 3 1)) else none
  | 23 => if w.extractLsb' 0 3 = 0#3 then some (.sltu (w.extractLsb' 15 5) (w.extractLsb' 10 5) (w.extractLsb' 5 5) (w.extractLsb' 4 1) (w.extractLsb' 3 1)) else none
  | 24 => if w.extractLsb' 0 3 = 0#3 then some (.seq (w.extractLsb' 15 5) (w.extractLsb' 10 5) (w.extractLsb' 5 5) (w.extractLsb' 4 1) (w.extractLsb' 3 1)) else none
  | 25 => if w.extractLsb' 0 3 = 0#3 then some (.sne (w.extractLsb' 15 5) (w.extractLsb' 10 5) (w.extractLsb' 5 5) (w.extractLsb' 4 1) (w.extractLsb' 3 1)) else none
  | 26 => if w.extractLsb' 5 5 = 0#5 ∧ w.extractLsb' 3 1 = 0#1 ∧ w.extractLsb' 0 3 = 0#3 then some (.clz (w.extractLsb' 15 5) (w.extractLsb' 10 5) (w.extractLsb' 4 1)) else none
  | 27 => if w.extractLsb' 5 5 = 0#5 ∧ w.extractLsb' 3 1 = 0#1 ∧ w.extractLsb' 0 3 = 0#3 then some (.ctz (w.extractLsb' 15 5) (w.extractLsb' 10 5) (w.extractLsb' 4 1)) else none
  | 28 => if w.extractLsb' 5 5 = 0#5 ∧ w.extractLsb' 3 1 = 0#1 ∧ w.extractLsb' 0 3 = 0#3 then some (.popc (w.extractLsb' 15 5) (w.extractLsb' 10 5) (w.extractLsb' 4 1)) else none
  | 29 => if w.extractLsb' 5 5 = 0#5 ∧ w.extractLsb' 3 1 = 0#1 then some (.sext (w.extractLsb' 15 5) (w.extractLsb' 10 5) (w.extractLsb' 4 1) (w.extractLsb' 0 3)) else none
  | 30 => if w.extractLsb' 5 5 = 0#5 ∧ w.extractLsb' 3 1 = 0#1 then some (.zext (w.extractLsb' 15 5) (w.extractLsb' 10 5) (w.extractLsb' 4 1) (w.extractLsb' 0 3)) else none
  | 31 => if w.extractLsb' 0 3 = 0#3 then some (.cmovz (w.extractLsb' 15 5) (w.extractLsb' 10 5) (w.extractLsb' 5 5) (w.extractLsb' 4 1) (w.extractLsb' 3 1)) else none
  | 32 => if w.extractLsb' 0 3 = 0#3 then some (.cmovnz (w.extractLsb' 15 5) (w.extractLsb' 10 5) (w.extractLsb' 5 5) (w.extractLsb' 4 1) (w.extractLsb' 3 1)) else none
  | 33 => some (.lea (w.extractLsb' 15 5) (w.extractLsb' 10 5) (w.extractLsb' 5 5) (w.extractLsb' 4 1) (w.extractLsb' 3 1) (w.extractLsb' 0 3))
  | 34 => if w.extractLsb' 0 3 = 0#3 then some (.addw (w.extractLsb' 15 5) (w.extractLsb' 10 5) (w.extractLsb' 5 5) (w.extractLsb' 4 1) (w.extractLsb' 3 1)) else none
  | 35 => if w.extractLsb' 0 3 = 0#3 then some (.subw (w.extractLsb' 15 5) (w.extractLsb' 10 5) (w.extractLsb' 5 5) (w.extractLsb' 4 1) (w.extractLsb' 3 1)) else none
  | 36 => if w.extractLsb' 0 3 = 0#3 then some (.mulw (w.extractLsb' 15 5) (w.extractLsb' 10 5) (w.extractLsb' 5 5) (w.extractLsb' 4 1) (w.extractLsb' 3 1)) else none
  | 37 => if w.extractLsb' 0 3 = 0#3 then some (.shlw (w.extractLsb' 15 5) (w.extractLsb' 10 5) (w.extractLsb' 5 5) (w.extractLsb' 4 1) (w.extractLsb' 3 1)) else none
  | 38 => if w.extractLsb' 0 3 = 0#3 then some (.shrw (w.extractLsb' 15 5) (w.extractLsb' 10 5) (w.extractLsb' 5 5) (w.extractLsb' 4 1) (w.extractLsb' 3 1)) else none
  | 39 => if w.extractLsb' 0 3 = 0#3 then some (.sraw (w.extractLsb' 15 5) (w.extractLsb' 10 5) (w.extractLsb' 5 5) (w.extractLsb' 4 1) (w.extractLsb' 3 1)) else none
  | 40 => if w.extractLsb' 5 5 = 0#5 ∧ w.extractLsb' 3 1 = 0#1 ∧ w.extractLsb' 0 3 = 0#3 then some (.bswap (w.extractLsb' 15 5) (w.extractLsb' 10 5) (w.extractLsb' 4 1)) else none
  | _ => none

/-- SIMM, major 2 (R171). -/
def decode2 (w : BitVec 32) : Option Instr :=
  match (w.extractLsb' 23 3).toNat with
  | 0 => some (.addi (w.extractLsb' 18 5) (w.extractLsb' 13 5) (w.extractLsb' 0 13))
  | 1 => some (.andi (w.extractLsb' 18 5) (w.extractLsb' 13 5) (w.extractLsb' 0 13))
  | 2 => some (.ori (w.extractLsb' 18 5) (w.extractLsb' 13 5) (w.extractLsb' 0 13))
  | 3 => some (.xori (w.extractLsb' 18 5) (w.extractLsb' 13 5) (w.extractLsb' 0 13))
  | 4 => some (.slti (w.extractLsb' 18 5) (w.extractLsb' 13 5) (w.extractLsb' 0 13))
  | 5 => some (.sltiu (w.extractLsb' 18 5) (w.extractLsb' 13 5) (w.extractLsb' 0 13))
  | 6 => if w.extractLsb' 7 6 = 0#6 ∧ w.extractLsb' 6 1 = 0#1 then some (.shli (w.extractLsb' 18 5) (w.extractLsb' 13 5) (w.extractLsb' 0 6)) else none
  | 7 =>
    if w.extractLsb' 7 6 = 0#6 ∧ w.extractLsb' 6 1 = 0#1 then some (.shri (w.extractLsb' 18 5) (w.extractLsb' 13 5) (w.extractLsb' 0 6)) else 
    if w.extractLsb' 7 6 = 0#6 ∧ w.extractLsb' 6 1 = 1#1 then some (.srai (w.extractLsb' 18 5) (w.extractLsb' 13 5) (w.extractLsb' 0 6)) else none
  | _ => none

/-- MOVI, major 3 (R172). -/
def decode3 (w : BitVec 32) : Option Instr :=
  match (w.extractLsb' 24 2).toNat with
  | 0 => if w.extractLsb' 16 1 = 0#1 then some (.movz (w.extractLsb' 19 5) (w.extractLsb' 17 2) (w.extractLsb' 0 16)) else none
  | 1 => if w.extractLsb' 16 1 = 0#1 then some (.movk (w.extractLsb' 19 5) (w.extractLsb' 17 2) (w.extractLsb' 0 16)) else none
  | 2 => if w.extractLsb' 16 1 = 0#1 then some (.movn (w.extractLsb' 19 5) (w.extractLsb' 17 2) (w.extractLsb' 0 16)) else none
  | _ => none

/-- MOVL, major 4, with the literal of the extension word (R173). -/
def decode4 (w : BitVec 32) (ext : BitVec 32) : Option Instr :=
  match (w.extractLsb' 19 2).toNat with
  | 0 => if w.extractLsb' 0 19 = 0#19 then some (.movl (w.extractLsb' 21 5) (ext)) else none
  | 1 => if w.extractLsb' 0 19 = 0#19 then some (.movlS (w.extractLsb' 21 5) (ext)) else none
  | 2 => if w.extractLsb' 0 19 = 0#19 then some (.movlh (w.extractLsb' 21 5) (ext)) else none
  | _ => none

/-- BRANCH, major 5 (R174). -/
def decode5 (w : BitVec 32) : Option Instr :=
  match (w.extractLsb' 23 3).toNat with
  | 0 => some (.beqz (w.extractLsb' 21 2) (w.extractLsb' 16 5) (w.extractLsb' 0 16))
  | 1 => some (.bnez (w.extractLsb' 21 2) (w.extractLsb' 16 5) (w.extractLsb' 0 16))
  | 2 => some (.bltz (w.extractLsb' 21 2) (w.extractLsb' 16 5) (w.extractLsb' 0 16))
  | 3 => some (.bgez (w.extractLsb' 21 2) (w.extractLsb' 16 5) (w.extractLsb' 0 16))
  | 4 => some (.bgtz (w.extractLsb' 21 2) (w.extractLsb' 16 5) (w.extractLsb' 0 16))
  | 5 => some (.blez (w.extractLsb' 21 2) (w.extractLsb' 16 5) (w.extractLsb' 0 16))
  | 6 => some (.bbs (w.extractLsb' 21 2) (w.extractLsb' 16 5) (w.extractLsb' 0 16))
  | 7 => some (.bbc (w.extractLsb' 21 2) (w.extractLsb' 16 5) (w.extractLsb' 0 16))
  | _ => none

/-- JUMP, major 6 (R175). -/
def decode6 (w : BitVec 32) : Option Instr :=
  match (w.extractLsb' 25 1).toNat with
  | 0 => some (.jmp (w.extractLsb' 0 25))
  | 1 => some (.jal (w.extractLsb' 0 25))
  | _ => none

/-- CTRL, major 7 (R176-R185). -/
def decode7 (w : BitVec 32) : Option Instr :=
  match (w.extractLsb' 20 6).toNat with
  | 0 => if w.extractLsb' 15 5 = 0#5 ∧ w.extractLsb' 10 5 = 0#5 ∧ w.extractLsb' 5 5 = 0#5 ∧ w.extractLsb' 4 1 = 0#1 ∧ w.extractLsb' 3 1 = 0#1 ∧ w.extractLsb' 0 3 = 0#3 then some .nop else none
  | 1 => if w.extractLsb' 5 5 = 0#5 ∧ w.extractLsb' 3 1 = 0#1 ∧ w.extractLsb' 0 3 = 0#3 then some (.jalr (w.extractLsb' 15 5) (w.extractLsb' 10 5) (w.extractLsb' 4 1)) else none
  | 2 => if w.extractLsb' 15 5 = 0#5 ∧ w.extractLsb' 10 5 = 0#5 ∧ w.extractLsb' 4 1 = 0#1 ∧ w.extractLsb' 3 1 = 0#1 then some (.trap (w.extractLsb' 5 5) (w.extractLsb' 0 3)) else none
  | 3 => if w.extractLsb' 15 5 = 0#5 ∧ w.extractLsb' 10 5 = 0#5 ∧ w.extractLsb' 5 5 = 0#5 ∧ w.extractLsb' 4 1 = 0#1 ∧ w.extractLsb' 3 1 = 0#1 ∧ w.extractLsb' 0 3 = 0#3 then some .brk else none
  | 4 => if w.extractLsb' 15 5 = 0#5 ∧ w.extractLsb' 10 5 = 0#5 ∧ w.extractLsb' 5 5 = 0#5 ∧ w.extractLsb' 4 1 = 0#1 ∧ w.extractLsb' 3 1 = 0#1 ∧ w.extractLsb' 0 3 = 0#3 then some .yield else none
  | 5 => if w.extractLsb' 15 5 = 0#5 ∧ w.extractLsb' 5 5 = 0#5 ∧ w.extractLsb' 4 1 = 0#1 ∧ w.extractLsb' 3 1 = 0#1 then some (.susp (w.extractLsb' 10 5) (w.extractLsb' 0 3)) else none
  | 6 => if w.extractLsb' 15 5 = 0#5 ∧ w.extractLsb' 10 5 = 0#5 ∧ w.extractLsb' 5 5 = 0#5 ∧ w.extractLsb' 4 1 = 0#1 ∧ w.extractLsb' 3 1 = 0#1 ∧ w.extractLsb' 0 3 = 0#3 then some .exit else none
  | 7 => if w.extractLsb' 4 1 = 0#1 ∧ w.extractLsb' 3 1 = 0#1 ∧ w.extractLsb' 0 3 = 0#3 then some (.csrr (w.extractLsb' 15 5) (w.extractLsb' 5 10)) else none
  | 8 => if w.extractLsb' 4 1 = 0#1 ∧ w.extractLsb' 3 1 = 0#1 ∧ w.extractLsb' 0 3 = 0#3 then some (.csrw (w.extractLsb' 15 5) (w.extractLsb' 5 10)) else none
  | 9 => if w.extractLsb' 4 1 = 0#1 ∧ w.extractLsb' 3 1 = 0#1 ∧ w.extractLsb' 0 3 = 0#3 then some (.csrx (w.extractLsb' 15 5) (w.extractLsb' 5 10)) else none
  | 10 => if w.extractLsb' 15 5 = 0#5 ∧ w.extractLsb' 10 5 = 0#5 ∧ w.extractLsb' 5 5 = 0#5 ∧ w.extractLsb' 4 1 = 0#1 ∧ w.extractLsb' 3 1 = 0#1 ∧ w.extractLsb' 0 3 = 0#3 then some .quant else none
  | _ => none

/-- the REP prefix, major 8 (R187). -/
def decode8 (w : BitVec 32) : Option Instr :=
  if w.extractLsb' 0 9 = 0#9 then some (.rep (w.extractLsb' 20 6) (w.extractLsb' 19 1) (w.extractLsb' 15 4) (w.extractLsb' 13 2) (w.extractLsb' 12 1) (w.extractLsb' 9 3)) else none

/-- LOAD, major 9 (R255). -/
def decode9 (w : BitVec 32) : Option Instr :=
  match (w.extractLsb' 11 2).toNat with
  | 0 => if w.extractLsb' 9 2 = 0#2 then some (.ld (w.extractLsb' 21 5) (w.extractLsb' 16 5) (w.extractLsb' 14 2) (w.extractLsb' 13 1) (w.extractLsb' 0 9)) else none
  | 1 => some (.ldAcq (w.extractLsb' 21 5) (w.extractLsb' 16 5) (w.extractLsb' 14 2) (w.extractLsb' 13 1) (w.extractLsb' 9 2) (w.extractLsb' 0 9))
  | _ => none

/-- STORE, major 10 (R255). -/
def decode10 (w : BitVec 32) : Option Instr :=
  match (w.extractLsb' 11 2).toNat with
  | 0 => if w.extractLsb' 13 1 = 0#1 ∧ w.extractLsb' 9 2 = 0#2 then some (.st (w.extractLsb' 21 5) (w.extractLsb' 16 5) (w.extractLsb' 14 2) (w.extractLsb' 0 9)) else none
  | 2 => if w.extractLsb' 13 1 = 0#1 then some (.stRel (w.extractLsb' 21 5) (w.extractLsb' 16 5) (w.extractLsb' 14 2) (w.extractLsb' 9 2) (w.extractLsb' 0 9)) else none
  | _ => none

/-- ROWMEM, major 11 (R258). -/
def decode11 (w : BitVec 32) : Option Instr :=
  match (w.extractLsb' 23 3).toNat with
  | 0 => some (.ldr (w.extractLsb' 19 4) (w.extractLsb' 13 6) (w.extractLsb' 8 5) (w.extractLsb' 0 8))
  | 1 => some (.str (w.extractLsb' 19 4) (w.extractLsb' 13 6) (w.extractLsb' 8 5) (w.extractLsb' 0 8))
  | 2 => some (.ldrd (w.extractLsb' 19 4) (w.extractLsb' 13 6) (w.extractLsb' 8 5) (w.extractLsb' 0 8))
  | 3 => some (.strd (w.extractLsb' 19 4) (w.extractLsb' 13 6) (w.extractLsb' 8 5) (w.extractLsb' 0 8))
  | 4 => some (.ldrb (w.extractLsb' 19 4) (w.extractLsb' 13 6) (w.extractLsb' 8 5) (w.extractLsb' 0 8))
  | 5 => if w.extractLsb' 19 4 = 0#4 ∧ w.extractLsb' 13 6 = 0#6 then some (.pft (w.extractLsb' 8 5) (w.extractLsb' 0 8)) else none
  | _ => none

/-- ATOM, major 12 (R263, R267). -/
def decode12 (w : BitVec 32) : Option Instr :=
  match (w.extractLsb' 21 5).toNat with
  | 0 => if w.extractLsb' 1 5 = 0#5 then some (.aadd (w.extractLsb' 16 5) (w.extractLsb' 11 5) (w.extractLsb' 6 5) (w.extractLsb' 0 1)) else none
  | 1 => if w.extractLsb' 1 5 = 0#5 then some (.aand (w.extractLsb' 16 5) (w.extractLsb' 11 5) (w.extractLsb' 6 5) (w.extractLsb' 0 1)) else none
  | 2 => if w.extractLsb' 1 5 = 0#5 then some (.aor (w.extractLsb' 16 5) (w.extractLsb' 11 5) (w.extractLsb' 6 5) (w.extractLsb' 0 1)) else none
  | 3 => if w.extractLsb' 1 5 = 0#5 then some (.axor (w.extractLsb' 16 5) (w.extractLsb' 11 5) (w.extractLsb' 6 5) (w.extractLsb' 0 1)) else none
  | 4 => if w.extractLsb' 1 5 = 0#5 then some (.amin (w.extractLsb' 16 5) (w.extractLsb' 11 5) (w.extractLsb' 6 5) (w.extractLsb' 0 1)) else none
  | 5 => if w.extractLsb' 1 5 = 0#5 then some (.amax (w.extractLsb' 16 5) (w.extractLsb' 11 5) (w.extractLsb' 6 5) (w.extractLsb' 0 1)) else none
  | 6 => if w.extractLsb' 1 5 = 0#5 then some (.aminu (w.extractLsb' 16 5) (w.extractLsb' 11 5) (w.extractLsb' 6 5) (w.extractLsb' 0 1)) else none
  | 7 => if w.extractLsb' 1 5 = 0#5 then some (.amaxu (w.extractLsb' 16 5) (w.extractLsb' 11 5) (w.extractLsb' 6 5) (w.extractLsb' 0 1)) else none
  | 8 => if w.extractLsb' 1 5 = 0#5 then some (.aswap (w.extractLsb' 16 5) (w.extractLsb' 11 5) (w.extractLsb' 6 5) (w.extractLsb' 0 1)) else none
  | 9 => some (.acas (w.extractLsb' 16 5) (w.extractLsb' 11 5) (w.extractLsb' 6 5) (w.extractLsb' 1 5) (w.extractLsb' 0 1))
  | 10 => if w.extractLsb' 1 5 = 0#5 then some (.aqinc (w.extractLsb' 16 5) (w.extractLsb' 11 5) (w.extractLsb' 6 5) (w.extractLsb' 0 1)) else none
  | 11 => if w.extractLsb' 1 5 = 0#5 then some (.aqwrap (w.extractLsb' 16 5) (w.extractLsb' 11 5) (w.extractLsb' 6 5) (w.extractLsb' 0 1)) else none
  | 12 => if w.extractLsb' 6 5 = 0#5 ∧ w.extractLsb' 1 5 = 0#5 then some (.aqdec (w.extractLsb' 16 5) (w.extractLsb' 11 5) (w.extractLsb' 0 1)) else none
  | 13 => if w.extractLsb' 1 5 = 0#5 ∧ w.extractLsb' 0 1 = 1#1 then some (.aqaddl (w.extractLsb' 16 5) (w.extractLsb' 11 5) (w.extractLsb' 6 5)) else none
  | 14 => if w.extractLsb' 1 5 = 0#5 ∧ w.extractLsb' 0 1 = 1#1 then some (.aqchunk (w.extractLsb' 16 5) (w.extractLsb' 11 5) (w.extractLsb' 6 5)) else none
  | 15 => if w.extractLsb' 1 5 = 0#5 then some (.afadd (w.extractLsb' 16 5) (w.extractLsb' 11 5) (w.extractLsb' 6 5) (w.extractLsb' 0 1)) else none
  | 31 => some (.vamo (w.extractLsb' 18 3) (w.extractLsb' 14 4) (w.extractLsb' 10 4) (w.extractLsb' 6 4) (w.extractLsb' 0 6))
  | _ => none

/-- SYNC, major 13 (R271). -/
def decode13 (w : BitVec 32) : Option Instr :=
  match (w.extractLsb' 21 5).toNat with
  | 0 => if w.extractLsb' 16 5 = 0#5 ∧ w.extractLsb' 11 5 = 0#5 ∧ w.extractLsb' 6 5 = 0#5 ∧ w.extractLsb' 0 2 = 0#2 then some (.fence (w.extractLsb' 4 2) (w.extractLsb' 2 2)) else none
  | 1 => if w.extractLsb' 16 5 = 0#5 ∧ w.extractLsb' 4 2 = 0#2 ∧ w.extractLsb' 0 2 = 0#2 then some (.relt (w.extractLsb' 11 5) (w.extractLsb' 6 5) (w.extractLsb' 2 2)) else none
  | 2 => if w.extractLsb' 16 5 = 0#5 ∧ w.extractLsb' 4 2 = 0#2 ∧ w.extractLsb' 0 2 = 0#2 then some (.acqt (w.extractLsb' 11 5) (w.extractLsb' 6 5) (w.extractLsb' 2 2)) else none
  | 3 => if w.extractLsb' 16 5 = 0#5 ∧ w.extractLsb' 11 5 = 0#5 ∧ w.extractLsb' 6 5 = 0#5 ∧ w.extractLsb' 4 2 = 0#2 ∧ w.extractLsb' 2 2 = 0#2 ∧ w.extractLsb' 0 2 = 0#2 then some .ifence else none
  | 4 => if w.extractLsb' 6 5 = 0#5 ∧ w.extractLsb' 4 2 = 0#2 ∧ w.extractLsb' 2 2 = 0#2 ∧ w.extractLsb' 0 2 = 0#2 then some (.arrb (w.extractLsb' 16 5) (w.extractLsb' 11 5)) else none
  | 5 => if w.extractLsb' 4 2 = 0#2 ∧ w.extractLsb' 2 2 = 0#2 ∧ w.extractLsb' 0 2 = 0#2 then some (.waitb (w.extractLsb' 16 5) (w.extractLsb' 11 5) (w.extractLsb' 6 5)) else none
  | 6 => if w.extractLsb' 0 2 = 0#2 then some (.waita (w.extractLsb' 16 5) (w.extractLsb' 11 5) (w.extractLsb' 6 5) (w.extractLsb' 4 2) (w.extractLsb' 2 2)) else none
  | 7 => if w.extractLsb' 16 5 = 0#5 ∧ w.extractLsb' 6 5 = 0#5 ∧ w.extractLsb' 0 2 = 0#2 then some (.evset (w.extractLsb' 11 5) (w.extractLsb' 4 2) (w.extractLsb' 2 2)) else none
  | 8 => if w.extractLsb' 16 5 = 0#5 ∧ w.extractLsb' 6 5 = 0#5 ∧ w.extractLsb' 0 2 = 0#2 then some (.evclr (w.extractLsb' 11 5) (w.extractLsb' 4 2) (w.extractLsb' 2 2)) else none
  | 9 => if w.extractLsb' 6 5 = 0#5 ∧ w.extractLsb' 0 2 = 0#2 then some (.evwait (w.extractLsb' 16 5) (w.extractLsb' 11 5) (w.extractLsb' 4 2) (w.extractLsb' 2 2)) else none
  | 10 => if w.extractLsb' 4 2 = 0#2 ∧ w.extractLsb' 0 2 = 0#2 then some (.swin (w.extractLsb' 16 5) (w.extractLsb' 11 5) (w.extractLsb' 6 5) (w.extractLsb' 2 2)) else none
  | 11 => if w.extractLsb' 6 5 = 0#5 ∧ w.extractLsb' 4 2 = 0#2 ∧ w.extractLsb' 2 2 = 0#2 ∧ w.extractLsb' 0 2 = 0#2 then some (.swclose (w.extractLsb' 16 5) (w.extractLsb' 11 5)) else none
  | _ => none

/-- ENG, major 14 (R284). -/
def decode14 (w : BitVec 32) : Option Instr :=
  match (w.extractLsb' 21 5).toNat with
  | 0 => if w.extractLsb' 6 5 = 0#5 ∧ w.extractLsb' 1 5 = 0#5 ∧ w.extractLsb' 0 1 = 0#1 then some (.acopy (w.extractLsb' 16 5) (w.extractLsb' 11 5)) else none
  | 1 => if w.extractLsb' 1 5 = 0#5 ∧ w.extractLsb' 0 1 = 0#1 then some (.agather (w.extractLsb' 16 5) (w.extractLsb' 11 5) (w.extractLsb' 6 5)) else none
  | 2 => if w.extractLsb' 1 5 = 0#5 ∧ w.extractLsb' 0 1 = 0#1 then some (.ascatter (w.extractLsb' 16 5) (w.extractLsb' 11 5) (w.extractLsb' 6 5)) else none
  | 3 => if w.extractLsb' 1 5 = 0#5 ∧ w.extractLsb' 0 1 = 0#1 then some (.acoll (w.extractLsb' 16 5) (w.extractLsb' 11 5) (w.extractLsb' 6 5)) else none
  | 4 => if w.extractLsb' 6 5 = 0#5 ∧ w.extractLsb' 1 5 = 0#5 ∧ w.extractLsb' 0 1 = 0#1 then some (.sbind (w.extractLsb' 16 5) (w.extractLsb' 11 5)) else none
  | 5 => if w.extractLsb' 6 5 = 0#5 ∧ w.extractLsb' 1 5 = 0#5 ∧ w.extractLsb' 0 1 = 0#1 then some (.sunb (w.extractLsb' 16 5) (w.extractLsb' 11 5)) else none
  | 6 => if w.extractLsb' 0 1 = 0#1 then some (.anote (w.extractLsb' 16 5) (w.extractLsb' 11 5) (w.extractLsb' 6 5) (w.extractLsb' 1 5)) else none
  | 7 =>
    if w.extractLsb' 11 5 = 0#5 ∧ w.extractLsb' 6 5 = 0#5 ∧ w.extractLsb' 1 5 = 0#5 ∧ w.extractLsb' 0 1 = 0#1 then some (.acancel (w.extractLsb' 16 5)) else 
    if w.extractLsb' 16 5 = 0#5 ∧ w.extractLsb' 11 5 = 0#5 ∧ w.extractLsb' 6 5 = 0#5 ∧ w.extractLsb' 1 5 = 0#5 ∧ w.extractLsb' 0 1 = 1#1 then some .acancelAll else none
  | _ => none

/-- TASK, major 15 (R298). -/
def decode15 (w : BitVec 32) : Option Instr :=
  match (w.extractLsb' 21 5).toNat with
  | 0 => if w.extractLsb' 0 1 = 0#1 then some (.tspawn (w.extractLsb' 16 5) (w.extractLsb' 11 5) (w.extractLsb' 6 5) (w.extractLsb' 1 5)) else none
  | 1 => if w.extractLsb' 16 5 = 0#5 ∧ w.extractLsb' 11 5 = 0#5 ∧ w.extractLsb' 6 5 = 0#5 ∧ w.extractLsb' 1 5 = 0#5 ∧ w.extractLsb' 0 1 = 0#1 then some .tend else none
  | 2 => if w.extractLsb' 16 5 = 0#5 ∧ w.extractLsb' 6 5 = 0#5 ∧ w.extractLsb' 1 5 = 0#5 ∧ w.extractLsb' 0 1 = 0#1 then some (.tabort (w.extractLsb' 11 5)) else none
  | 3 => if w.extractLsb' 6 5 = 0#5 ∧ w.extractLsb' 1 5 = 0#5 ∧ w.extractLsb' 0 1 = 0#1 then some (.twait (w.extractLsb' 16 5) (w.extractLsb' 11 5)) else none
  | 4 => if w.extractLsb' 16 5 = 0#5 ∧ w.extractLsb' 11 5 = 0#5 ∧ w.extractLsb' 6 5 = 0#5 ∧ w.extractLsb' 1 5 = 0#5 ∧ w.extractLsb' 0 1 = 0#1 then some .tserial else none
  | 5 => if w.extractLsb' 6 5 = 0#5 ∧ w.extractLsb' 1 5 = 0#5 ∧ w.extractLsb' 0 1 = 0#1 then some (.tinfo (w.extractLsb' 16 5) (w.extractLsb' 11 5)) else none
  | _ => none

/-- ROW3A, major 16 (R197). -/
def decode16 (w : BitVec 32) : Option Instr :=
  match (w.extractLsb' 21 5).toNat with
  | 0 => some (.vadd (w.extractLsb' 18 3) (w.extractLsb' 14 4) (w.extractLsb' 10 4) (w.extractLsb' 6 4) (w.extractLsb' 0 6))
  | 1 => some (.vsub (w.extractLsb' 18 3) (w.extractLsb' 14 4) (w.extractLsb' 10 4) (w.extractLsb' 6 4) (w.extractLsb' 0 6))
  | 2 => some (.vmul (w.extractLsb' 18 3) (w.extractLsb' 14 4) (w.extractLsb' 10 4) (w.extractLsb' 6 4) (w.extractLsb' 0 6))
  | 3 => some (.vfma (w.extractLsb' 18 3) (w.extractLsb' 14 4) (w.extractLsb' 10 4) (w.extractLsb' 6 4) (w.extractLsb' 0 6))
  | 4 => some (.vfms (w.extractLsb' 18 3) (w.extractLsb' 14 4) (w.extractLsb' 10 4) (w.extractLsb' 6 4) (w.extractLsb' 0 6))
  | 5 => some (.vfnma (w.extractLsb' 18 3) (w.extractLsb' 14 4) (w.extractLsb' 10 4) (w.extractLsb' 6 4) (w.extractLsb' 0 6))
  | 6 => some (.vmin (w.extractLsb' 18 3) (w.extractLsb' 14 4) (w.extractLsb' 10 4) (w.extractLsb' 6 4) (w.extractLsb' 0 6))
  | 7 => some (.vmax (w.extractLsb' 18 3) (w.extractLsb' 14 4) (w.extractLsb' 10 4) (w.extractLsb' 6 4) (w.extractLsb' 0 6))
  | 8 => some (.vdiv (w.extractLsb' 18 3) (w.extractLsb' 14 4) (w.extractLsb' 10 4) (w.extractLsb' 6 4) (w.extractLsb' 0 6))
  | 9 => some (.vand (w.extractLsb' 18 3) (w.extractLsb' 14 4) (w.extractLsb' 10 4) (w.extractLsb' 6 4) (w.extractLsb' 0 6))
  | 10 => some (.vor (w.extractLsb' 18 3) (w.extractLsb' 14 4) (w.extractLsb' 10 4) (w.extractLsb' 6 4) (w.extractLsb' 0 6))
  | 11 => some (.vxor (w.extractLsb' 18 3) (w.extractLsb' 14 4) (w.extractLsb' 10 4) (w.extractLsb' 6 4) (w.extractLsb' 0 6))
  | 12 => some (.vandn (w.extractLsb' 18 3) (w.extractLsb' 14 4) (w.extractLsb' 10 4) (w.extractLsb' 6 4) (w.extractLsb' 0 6))
  | 13 => some (.vshl (w.extractLsb' 18 3) (w.extractLsb' 14 4) (w.extractLsb' 10 4) (w.extractLsb' 6 4) (w.extractLsb' 0 6))
  | 14 => some (.vshr (w.extractLsb' 18 3) (w.extractLsb' 14 4) (w.extractLsb' 10 4) (w.extractLsb' 6 4) (w.extractLsb' 0 6))
  | 15 => some (.vsra (w.extractLsb' 18 3) (w.extractLsb' 14 4) (w.extractLsb' 10 4) (w.extractLsb' 6 4) (w.extractLsb' 0 6))
  | 16 => some (.vceq (w.extractLsb' 18 3) (w.extractLsb' 14 4) (w.extractLsb' 10 4) (w.extractLsb' 6 4) (w.extractLsb' 0 6))
  | 17 => some (.vclt (w.extractLsb' 18 3) (w.extractLsb' 14 4) (w.extractLsb' 10 4) (w.extractLsb' 6 4) (w.extractLsb' 0 6))
  | 18 => some (.vcle (w.extractLsb' 18 3) (w.extractLsb' 14 4) (w.extractLsb' 10 4) (w.extractLsb' 6 4) (w.extractLsb' 0 6))
  | 19 => some (.vcne (w.extractLsb' 18 3) (w.extractLsb' 14 4) (w.extractLsb' 10 4) (w.extractLsb' 6 4) (w.extractLsb' 0 6))
  | 20 => some (.vadds (w.extractLsb' 18 3) (w.extractLsb' 14 4) (w.extractLsb' 10 4) (w.extractLsb' 6 4) (w.extractLsb' 0 6))
  | 21 => some (.vsubs (w.extractLsb' 18 3) (w.extractLsb' 14 4) (w.extractLsb' 10 4) (w.extractLsb' 6 4) (w.extractLsb' 0 6))
  | 22 => some (.vmulh (w.extractLsb' 18 3) (w.extractLsb' 14 4) (w.extractLsb' 10 4) (w.extractLsb' 6 4) (w.extractLsb' 0 6))
  | 23 => some (.vabsd (w.extractLsb' 18 3) (w.extractLsb' 14 4) (w.extractLsb' 10 4) (w.extractLsb' 6 4) (w.extractLsb' 0 6))
  | 24 => some (.vsel (w.extractLsb' 18 3) (w.extractLsb' 14 4) (w.extractLsb' 10 4) (w.extractLsb' 6 4) (w.extractLsb' 0 6))
  | 25 => some (.vcopysign (w.extractLsb' 18 3) (w.extractLsb' 14 4) (w.extractLsb' 10 4) (w.extractLsb' 6 4) (w.extractLsb' 0 6))
  | _ => none

/-- ROW3B, major 17 (R201). -/
def decode17 (w : BitVec 32) : Option Instr :=
  match (w.extractLsb' 21 5).toNat with
  | 0 => if w.extractLsb' 6 4 = 0#4 then some (.vabs (w.extractLsb' 18 3) (w.extractLsb' 14 4) (w.extractLsb' 10 4) (w.extractLsb' 0 6)) else none
  | 1 => if w.extractLsb' 6 4 = 0#4 then some (.vneg (w.extractLsb' 18 3) (w.extractLsb' 14 4) (w.extractLsb' 10 4) (w.extractLsb' 0 6)) else none
  | 2 => if w.extractLsb' 6 4 = 0#4 then some (.vsqrt (w.extractLsb' 18 3) (w.extractLsb' 14 4) (w.extractLsb' 10 4) (w.extractLsb' 0 6)) else none
  | 3 => if w.extractLsb' 6 4 = 0#4 then some (.vrcp (w.extractLsb' 18 3) (w.extractLsb' 14 4) (w.extractLsb' 10 4) (w.extractLsb' 0 6)) else none
  | 4 => if w.extractLsb' 6 4 = 0#4 then some (.vrsq (w.extractLsb' 18 3) (w.extractLsb' 14 4) (w.extractLsb' 10 4) (w.extractLsb' 0 6)) else none
  | 5 => if w.extractLsb' 6 4 = 0#4 then some (.vexp2 (w.extractLsb' 18 3) (w.extractLsb' 14 4) (w.extractLsb' 10 4) (w.extractLsb' 0 6)) else none
  | 6 => if w.extractLsb' 6 4 = 0#4 then some (.vlog2 (w.extractLsb' 18 3) (w.extractLsb' 14 4) (w.extractLsb' 10 4) (w.extractLsb' 0 6)) else none
  | 7 => if w.extractLsb' 6 4 = 0#4 then some (.vtanh (w.extractLsb' 18 3) (w.extractLsb' 14 4) (w.extractLsb' 10 4) (w.extractLsb' 0 6)) else none
  | 8 => if w.extractLsb' 6 4 = 0#4 then some (.vfloor (w.extractLsb' 18 3) (w.extractLsb' 14 4) (w.extractLsb' 10 4) (w.extractLsb' 0 6)) else none
  | 9 => if w.extractLsb' 6 4 = 0#4 then some (.vceil (w.extractLsb' 18 3) (w.extractLsb' 14 4) (w.extractLsb' 10 4) (w.extractLsb' 0 6)) else none
  | 10 => if w.extractLsb' 6 4 = 0#4 then some (.vrint (w.extractLsb' 18 3) (w.extractLsb' 14 4) (w.extractLsb' 10 4) (w.extractLsb' 0 6)) else none
  | 11 => some (.vcvt (w.extractLsb' 18 3) (w.extractLsb' 14 4) (w.extractLsb' 10 4) (w.extractLsb' 6 4) (w.extractLsb' 0 6))
  | 12 => some (.vcvts (w.extractLsb' 18 3) (w.extractLsb' 14 4) (w.extractLsb' 10 4) (w.extractLsb' 6 4) (w.extractLsb' 0 6))
  | 13 => if w.extractLsb' 6 4 = 0#4 then some (.vclz (w.extractLsb' 18 3) (w.extractLsb' 14 4) (w.extractLsb' 10 4) (w.extractLsb' 0 6)) else none
  | 14 => if w.extractLsb' 6 4 = 0#4 then some (.vpopc (w.extractLsb' 18 3) (w.extractLsb' 14 4) (w.extractLsb' 10 4) (w.extractLsb' 0 6)) else none
  | 15 => if w.extractLsb' 6 4 = 0#4 then some (.vnot (w.extractLsb' 18 3) (w.extractLsb' 14 4) (w.extractLsb' 10 4) (w.extractLsb' 0 6)) else none
  | 16 => if w.extractLsb' 6 4 = 0#4 then some (.vscan (w.extractLsb' 18 3) (w.extractLsb' 14 4) (w.extractLsb' 10 4) (w.extractLsb' 0 6)) else none
  | 17 => if w.extractLsb' 6 4 = 0#4 then some (.vscanmax (w.extractLsb' 18 3) (w.extractLsb' 14 4) (w.extractLsb' 10 4) (w.extractLsb' 0 6)) else none
  | 18 => if w.extractLsb' 6 4 = 0#4 then some (.vsegscan (w.extractLsb' 18 3) (w.extractLsb' 14 4) (w.extractLsb' 10 4) (w.extractLsb' 0 6)) else none
  | 19 => if w.extractLsb' 6 4 = 0#4 then some (.vclass (w.extractLsb' 18 3) (w.extractLsb' 14 4) (w.extractLsb' 10 4) (w.extractLsb' 0 6)) else none
  | _ => none

/-- ROWX, major 18 (R206). -/
def decode18 (w : BitVec 32) : Option Instr :=
  match (w.extractLsb' 21 5).toNat with
  | 0 => if w.extractLsb' 0 1 = 0#1 then some (.vmov (w.extractLsb' 17 4) (w.extractLsb' 11 6) (w.extractLsb' 7 4) (w.extractLsb' 1 6)) else none
  | 1 => if w.extractLsb' 0 1 = 0#1 then some (.vswap (w.extractLsb' 17 4) (w.extractLsb' 11 6) (w.extractLsb' 7 4) (w.extractLsb' 1 6)) else none
  | 2 => if w.extractLsb' 0 1 = 0#1 then some (.trn8B (w.extractLsb' 17 4) (w.extractLsb' 11 6) (w.extractLsb' 7 4) (w.extractLsb' 1 6)) else none
  | 3 => if w.extractLsb' 0 1 = 0#1 then some (.trn8H (w.extractLsb' 17 4) (w.extractLsb' 11 6) (w.extractLsb' 7 4) (w.extractLsb' 1 6)) else none
  | 4 => if w.extractLsb' 0 1 = 0#1 then some (.trn8W (w.extractLsb' 17 4) (w.extractLsb' 11 6) (w.extractLsb' 7 4) (w.extractLsb' 1 6)) else none
  | 5 => if w.extractLsb' 0 1 = 0#1 then some (.vrev (w.extractLsb' 17 4) (w.extractLsb' 11 6) (w.extractLsb' 7 4) (w.extractLsb' 1 6)) else none
  | 6 => if w.extractLsb' 7 4 = 0#4 ∧ w.extractLsb' 1 6 = 0#6 ∧ w.extractLsb' 0 1 = 0#1 then some (.vzero (w.extractLsb' 17 4) (w.extractLsb' 11 6)) else none
  | 7 => if w.extractLsb' 11 6 = 0#6 ∧ w.extractLsb' 7 4 = 0#4 ∧ w.extractLsb' 1 6 = 0#6 ∧ w.extractLsb' 0 1 = 0#1 then some (.tzero (w.extractLsb' 17 4)) else none
  | 8 => if w.extractLsb' 11 6 = 0#6 ∧ w.extractLsb' 1 6 = 0#6 ∧ w.extractLsb' 0 1 = 0#1 then some (.tmov (w.extractLsb' 17 4) (w.extractLsb' 7 4)) else none
  | _ => none

/-- ROWS, major 19 (R209). -/
def decode19 (w : BitVec 32) : Option Instr :=
  match (w.extractLsb' 21 5).toNat with
  | 0 => if w.extractLsb' 0 3 = 0#3 then some (.vbcast (w.extractLsb' 18 3) (w.extractLsb' 14 4) (w.extractLsb' 8 6) (w.extractLsb' 3 5)) else none
  | 1 => if w.extractLsb' 0 3 = 0#3 then some (.vextr (w.extractLsb' 18 3) (w.extractLsb' 14 4) (w.extractLsb' 8 6) (w.extractLsb' 3 5)) else none
  | 2 => if w.extractLsb' 0 3 = 0#3 then some (.vredadd (w.extractLsb' 18 3) (w.extractLsb' 14 4) (w.extractLsb' 8 6) (w.extractLsb' 3 5)) else none
  | 3 => if w.extractLsb' 0 3 = 0#3 then some (.vredmax (w.extractLsb' 18 3) (w.extractLsb' 14 4) (w.extractLsb' 8 6) (w.extractLsb' 3 5)) else none
  | 4 => if w.extractLsb' 0 3 = 0#3 then some (.vredmin (w.extractLsb' 18 3) (w.extractLsb' 14 4) (w.extractLsb' 8 6) (w.extractLsb' 3 5)) else none
  | 5 => if w.extractLsb' 0 3 = 0#3 then some (.viota (w.extractLsb' 18 3) (w.extractLsb' 14 4) (w.extractLsb' 8 6) (w.extractLsb' 3 5)) else none
  | 6 => if w.extractLsb' 3 5 = 0#5 then some (.kfromrow (w.extractLsb' 18 3) (w.extractLsb' 14 4) (w.extractLsb' 8 6) (w.extractLsb' 0 3)) else none
  | 7 => if w.extractLsb' 3 5 = 0#5 then some (.ktorow (w.extractLsb' 18 3) (w.extractLsb' 14 4) (w.extractLsb' 8 6) (w.extractLsb' 0 3)) else none
  | 8 => if w.extractLsb' 14 4 = 0#4 ∧ w.extractLsb' 8 6 = 0#6 then some (.kpopc (w.extractLsb' 18 3) (w.extractLsb' 3 5) (w.extractLsb' 0 3)) else none
  | 9 => if w.extractLsb' 14 4 = 0#4 ∧ w.extractLsb' 8 6 = 0#6 then some (.kfirst (w.extractLsb' 18 3) (w.extractLsb' 3 5) (w.extractLsb' 0 3)) else none
  | 10 => if w.extractLsb' 18 3 = 0#3 ∧ w.extractLsb' 14 4 = 0#4 ∧ w.extractLsb' 10 4 = 0#4 then some (.kmovs (w.extractLsb' 8 2) (w.extractLsb' 3 5) (w.extractLsb' 0 3)) else none
  | 11 => if w.extractLsb' 18 3 = 0#3 ∧ w.extractLsb' 14 4 = 0#4 ∧ w.extractLsb' 10 4 = 0#4 then some (.kmovd (w.extractLsb' 8 2) (w.extractLsb' 3 5) (w.extractLsb' 0 3)) else none
  | 12 => if w.extractLsb' 18 3 = 0#3 ∧ w.extractLsb' 17 1 = 0#1 ∧ w.extractLsb' 8 6 = 0#6 ∧ w.extractLsb' 6 2 = 0#2 then some (.kand (w.extractLsb' 14 3) (w.extractLsb' 3 3) (w.extractLsb' 0 3)) else none
  | 13 => if w.extractLsb' 18 3 = 0#3 ∧ w.extractLsb' 17 1 = 0#1 ∧ w.extractLsb' 8 6 = 0#6 ∧ w.extractLsb' 6 2 = 0#2 then some (.kor (w.extractLsb' 14 3) (w.extractLsb' 3 3) (w.extractLsb' 0 3)) else none
  | 14 => if w.extractLsb' 18 3 = 0#3 ∧ w.extractLsb' 17 1 = 0#1 ∧ w.extractLsb' 8 6 = 0#6 ∧ w.extractLsb' 6 2 = 0#2 then some (.kxor (w.extractLsb' 14 3) (w.extractLsb' 3 3) (w.extractLsb' 0 3)) else none
  | 15 => if w.extractLsb' 18 3 = 0#3 ∧ w.extractLsb' 17 1 = 0#1 ∧ w.extractLsb' 8 6 = 0#6 ∧ w.extractLsb' 6 2 = 0#2 ∧ w.extractLsb' 3 3 = 0#3 then some (.knot (w.extractLsb' 14 3) (w.extractLsb' 0 3)) else none
  | _ => none

/-- PERM, major 20 (R216). -/
def decode20 (w : BitVec 32) : Option Instr :=
  match (w.extractLsb' 21 5).toNat with
  | 0 => if w.extractLsb' 15 3 = 0#3 then some (.pload (w.extractLsb' 18 3) (w.extractLsb' 11 4) (w.extractLsb' 5 6) (w.extractLsb' 0 5)) else none
  | 1 => if w.extractLsb' 18 3 = 0#3 ∧ w.extractLsb' 0 5 = 0#5 then some (.pstore (w.extractLsb' 15 3) (w.extractLsb' 11 4) (w.extractLsb' 5 6)) else none
  | 2 => if w.extractLsb' 18 3 = 0#3 ∧ w.extractLsb' 0 5 = 0#5 then some (.pgetr (w.extractLsb' 15 3) (w.extractLsb' 11 4) (w.extractLsb' 5 6)) else none
  | 3 => if w.extractLsb' 15 3 = 0#3 ∧ w.extractLsb' 0 5 = 0#5 then some (.psetr (w.extractLsb' 18 3) (w.extractLsb' 11 4) (w.extractLsb' 5 6)) else none
  | 4 => if w.extractLsb' 14 1 = 0#1 ∧ w.extractLsb' 5 6 = 0#6 ∧ w.extractLsb' 0 5 = 0#5 then some (.pcomp (w.extractLsb' 18 3) (w.extractLsb' 15 3) (w.extractLsb' 11 3)) else none
  | 5 => if w.extractLsb' 11 4 = 0#4 ∧ w.extractLsb' 5 6 = 0#6 ∧ w.extractLsb' 0 5 = 0#5 then some (.pinv (w.extractLsb' 18 3) (w.extractLsb' 15 3)) else none
  | 6 => if w.extractLsb' 15 3 = 0#3 ∧ w.extractLsb' 11 4 = 0#4 ∧ w.extractLsb' 5 6 = 0#6 then some (.prand (w.extractLsb' 18 3) (w.extractLsb' 0 5)) else none
  | 7 => if w.extractLsb' 15 3 = 0#3 ∧ w.extractLsb' 11 4 = 0#4 ∧ w.extractLsb' 5 6 = 0#6 ∧ w.extractLsb' 0 5 = 0#5 then some (.pid (w.extractLsb' 18 3)) else none
  | 8 => if w.extractLsb' 11 4 = 0#4 ∧ w.extractLsb' 5 6 = 0#6 ∧ w.extractLsb' 0 5 = 0#5 then some (.pmov (w.extractLsb' 18 3) (w.extractLsb' 15 3)) else none
  | 9 => if w.extractLsb' 18 3 = 0#3 ∧ w.extractLsb' 11 4 = 0#4 ∧ w.extractLsb' 5 6 = 0#6 then some (.pcyc (w.extractLsb' 15 3) (w.extractLsb' 0 5)) else none
  | 10 => if w.extractLsb' 18 3 = 0#3 ∧ w.extractLsb' 11 4 = 0#4 ∧ w.extractLsb' 5 6 = 0#6 then some (.pfix (w.extractLsb' 15 3) (w.extractLsb' 0 5)) else none
  | 11 => if w.extractLsb' 18 3 = 0#3 ∧ w.extractLsb' 11 4 = 0#4 ∧ w.extractLsb' 5 6 = 0#6 then some (.pord (w.extractLsb' 15 3) (w.extractLsb' 0 5)) else none
  | 12 => if w.extractLsb' 18 3 = 0#3 ∧ w.extractLsb' 11 4 = 0#4 ∧ w.extractLsb' 5 6 = 0#6 then some (.pclen (w.extractLsb' 15 3) (w.extractLsb' 0 5)) else none
  | 13 => if w.extractLsb' 18 3 = 0#3 ∧ w.extractLsb' 14 1 = 0#1 ∧ w.extractLsb' 5 6 = 0#6 then some (.peq (w.extractLsb' 15 3) (w.extractLsb' 11 3) (w.extractLsb' 0 5)) else none
  | 16 => if w.extractLsb' 7 3 = 0#3 ∧ w.extractLsb' 1 6 = 0#6 ∧ w.extractLsb' 0 1 = 0#1 then some (.papplyR (w.extractLsb' 18 3) (w.extractLsb' 14 4) (w.extractLsb' 10 4)) else none
  | 17 => if w.extractLsb' 7 3 = 0#3 ∧ w.extractLsb' 0 1 = 0#1 then some (.papplyL (w.extractLsb' 18 3) (w.extractLsb' 14 4) (w.extractLsb' 10 4) (w.extractLsb' 1 6)) else none
  | _ => none

/-- MATRIX, major 21 (R244). -/
def decode21 (w : BitVec 32) : Option Instr :=
  match (w.extractLsb' 21 5).toNat with
  | 0 => if w.extractLsb' 3 5 = 0#5 then some (.mcall (w.extractLsb' 13 8) (w.extractLsb' 8 5) (w.extractLsb' 0 3)) else none
  | 1 => if w.extractLsb' 14 4 = 0#4 ∧ w.extractLsb' 4 5 = 0#5 ∧ w.extractLsb' 0 4 = 0#4 then some (.mpset (w.extractLsb' 18 3) (w.extractLsb' 9 5)) else none
  | 2 => if w.extractLsb' 14 4 = 0#4 ∧ w.extractLsb' 4 5 = 0#5 ∧ w.extractLsb' 0 4 = 0#4 then some (.mpget (w.extractLsb' 18 3) (w.extractLsb' 9 5)) else none
  | 3 => if w.extractLsb' 18 3 = 0#3 ∧ w.extractLsb' 0 4 = 0#4 then some (.mtset (w.extractLsb' 14 4) (w.extractLsb' 9 5) (w.extractLsb' 4 5)) else none
  | 4 => if w.extractLsb' 18 3 = 0#3 ∧ w.extractLsb' 4 5 = 0#5 ∧ w.extractLsb' 0 4 = 0#4 then some (.mtget (w.extractLsb' 14 4) (w.extractLsb' 9 5)) else none
  | 5 => if w.extractLsb' 18 3 = 0#3 ∧ w.extractLsb' 9 5 = 0#5 ∧ w.extractLsb' 4 5 = 0#5 ∧ w.extractLsb' 0 4 = 0#4 then some (.mtclr (w.extractLsb' 14 4)) else none
  | 6 => if w.extractLsb' 18 3 = 0#3 ∧ w.extractLsb' 14 4 = 0#4 ∧ w.extractLsb' 0 4 = 0#4 then some (.mloadp (w.extractLsb' 9 5) (w.extractLsb' 4 5)) else none
  | 7 => if w.extractLsb' 18 3 = 0#3 ∧ w.extractLsb' 14 4 = 0#4 ∧ w.extractLsb' 9 5 = 0#5 ∧ w.extractLsb' 4 5 = 0#5 ∧ w.extractLsb' 0 4 = 0#4 then some .mfencep else none
  | 8 => if w.extractLsb' 18 3 = 0#3 ∧ w.extractLsb' 9 5 = 0#5 ∧ w.extractLsb' 4 5 = 0#5 ∧ w.extractLsb' 0 4 = 0#4 then some (.mbmap (w.extractLsb' 14 4)) else none
  | _ => none

/-- SYS, major 22 (R346). -/
def decode22 (w : BitVec 32) : Option Instr :=
  match (w.extractLsb' 20 6).toNat with
  | 0 => if w.extractLsb' 15 5 = 0#5 ∧ w.extractLsb' 10 5 = 0#5 ∧ w.extractLsb' 5 5 = 0#5 ∧ w.extractLsb' 4 1 = 0#1 ∧ w.extractLsb' 3 1 = 0#1 ∧ w.extractLsb' 0 3 = 0#3 then some .sret else none
  | 1 => if w.extractLsb' 4 1 = 0#1 ∧ w.extractLsb' 3 1 = 0#1 ∧ w.extractLsb' 0 3 = 0#3 then some (.pcsrr (w.extractLsb' 15 5) (w.extractLsb' 5 10)) else none
  | 2 => if w.extractLsb' 4 1 = 0#1 ∧ w.extractLsb' 3 1 = 0#1 ∧ w.extractLsb' 0 3 = 0#3 then some (.pcsrw (w.extractLsb' 15 5) (w.extractLsb' 5 10)) else none
  | 3 => if w.extractLsb' 15 5 = 0#5 ∧ w.extractLsb' 0 3 = 0#3 then some (.tlbinv (w.extractLsb' 10 5) (w.extractLsb' 5 5) (w.extractLsb' 4 1) (w.extractLsb' 3 1)) else none
  | 4 => if w.extractLsb' 15 5 = 0#5 ∧ w.extractLsb' 10 5 = 0#5 ∧ w.extractLsb' 5 5 = 0#5 ∧ w.extractLsb' 4 1 = 0#1 ∧ w.extractLsb' 3 1 = 0#1 ∧ w.extractLsb' 0 3 = 0#3 then some .tlbsync else none
  | 5 => if w.extractLsb' 15 5 = 0#5 ∧ w.extractLsb' 10 5 = 0#5 ∧ w.extractLsb' 5 5 = 0#5 ∧ w.extractLsb' 4 1 = 0#1 ∧ w.extractLsb' 3 1 = 0#1 ∧ w.extractLsb' 0 3 = 0#3 then some .ctxsave else none
  | 6 => if w.extractLsb' 15 5 = 0#5 ∧ w.extractLsb' 10 5 = 0#5 ∧ w.extractLsb' 5 5 = 0#5 ∧ w.extractLsb' 4 1 = 0#1 ∧ w.extractLsb' 3 1 = 0#1 ∧ w.extractLsb' 0 3 = 0#3 then some .ctxload else none
  | 7 => if w.extractLsb' 5 5 = 0#5 ∧ w.extractLsb' 3 1 = 0#1 ∧ w.extractLsb' 0 3 = 0#3 then some (.strstart (w.extractLsb' 15 5) (w.extractLsb' 10 5) (w.extractLsb' 4 1)) else none
  | 8 => if w.extractLsb' 15 5 = 0#5 ∧ w.extractLsb' 5 5 = 0#5 ∧ w.extractLsb' 3 1 = 0#1 ∧ w.extractLsb' 0 3 = 0#3 then some (.strstop (w.extractLsb' 10 5) (w.extractLsb' 4 1)) else none
  | 9 => if w.extractLsb' 15 5 = 0#5 ∧ w.extractLsb' 10 5 = 0#5 ∧ w.extractLsb' 5 5 = 0#5 ∧ w.extractLsb' 4 1 = 0#1 ∧ w.extractLsb' 3 1 = 0#1 ∧ w.extractLsb' 0 3 = 0#3 then some .wfi else none
  | 10 => if w.extractLsb' 15 5 = 0#5 ∧ w.extractLsb' 10 5 = 0#5 ∧ w.extractLsb' 5 5 = 0#5 ∧ w.extractLsb' 4 1 = 0#1 ∧ w.extractLsb' 3 1 = 0#1 ∧ w.extractLsb' 0 3 = 0#3 then some .haltc else none
  | _ => none

/-- The fields of a word, by its major (R149). No check of the field values beyond zero fields. -/
def decodeFields (w ext : BitVec 32) : Option Instr :=
  match (w.extractLsb' 26 5).toNat with
  | 1 => decode1 w
  | 2 => decode2 w
  | 3 => decode3 w
  | 4 => decode4 w ext
  | 5 => decode5 w
  | 6 => decode6 w
  | 7 => decode7 w
  | 8 => decode8 w
  | 9 => decode9 w
  | 10 => decode10 w
  | 11 => decode11 w
  | 12 => decode12 w
  | 13 => decode13 w
  | 14 => decode14 w
  | 15 => decode15 w
  | 16 => decode16 w
  | 17 => decode17 w
  | 18 => decode18 w
  | 19 => decode19 w
  | 20 => decode20 w
  | 21 => decode21 w
  | 22 => decode22 w
  | _ => none

/-- The instruction a word stands for in encoding version `ver`, its extension word being `ext` (used by MOVL alone);
none is ILLEGAL_OPCODE (R154). -/
def decodeIn (ver : BitVec 2) (w ext : BitVec 32) : Option Instr :=
  match decodeFields w ext with
  | some i => if i.wfIn ver then some i else none
  | none => none

/-- The instruction of version 3. -/
def decode (w ext : BitVec 32) : Option Instr := decodeIn 3#2 w ext

/-- The fields of a step word by its kind; every unlisted bit must be 0 (R232). -/
def decodeStepFields (w : BitVec 64) : Option Instr :=
  match (w.extractLsb' 60 4).toNat with
  | 0 => if w.extractLsb' 0 60 = 0#60 then some (.end_) else none
  | 1 => if w.extractLsb' 59 1 = 0#1 ∧ w.extractLsb' 0 55 = 0#55 then some (.zero (w.extractLsb' 56 3) (w.extractLsb' 55 1)) else none
  | 2 => if w.extractLsb' 59 1 = 0#1 ∧ w.extractLsb' 0 24 = 0#24 then some (.lda (w.extractLsb' 56 3) (w.extractLsb' 50 6) (w.extractLsb' 44 6) (w.extractLsb' 34 10) (w.extractLsb' 24 10)) else none
  | 3 => if w.extractLsb' 59 1 = 0#1 ∧ w.extractLsb' 0 24 = 0#24 then some (.ldb (w.extractLsb' 56 3) (w.extractLsb' 50 6) (w.extractLsb' 44 6) (w.extractLsb' 34 10) (w.extractLsb' 24 10)) else none
  | 4 => if w.extractLsb' 44 15 = 0#15 ∧ w.extractLsb' 0 24 = 0#24 then some (.mac (w.extractLsb' 59 1) (w.extractLsb' 34 10) (w.extractLsb' 24 10)) else none
  | 5 => if w.extractLsb' 0 60 = 0#60 then some (.dec) else none
  | 6 => if w.extractLsb' 2 58 = 0#58 then some (.bmap (w.extractLsb' 1 1) (w.extractLsb' 0 1)) else none
  | 7 => if w.extractLsb' 58 2 = 0#2 ∧ w.extractLsb' 12 28 = 0#28 then some (.loop (w.extractLsb' 56 2) (w.extractLsb' 40 16) (w.extractLsb' 0 12)) else none
  | 8 => if w.extractLsb' 59 1 = 0#1 ∧ w.extractLsb' 16 38 = 0#38 then some (.adv (w.extractLsb' 56 3) (w.extractLsb' 54 2) (w.extractLsb' 0 16)) else none
  | 9 => if w.extractLsb' 59 1 = 0#1 ∧ w.extractLsb' 0 56 = 0#56 then some (.perm (w.extractLsb' 56 3)) else none
  | 10 => if w.extractLsb' 59 1 = 0#1 ∧ w.extractLsb' 0 28 = 0#28 then some (.out (w.extractLsb' 56 3) (w.extractLsb' 52 4) (w.extractLsb' 51 1) (w.extractLsb' 48 3) (w.extractLsb' 42 6) (w.extractLsb' 36 6) (w.extractLsb' 28 8)) else none
  | 11 => if w.extractLsb' 5 55 = 0#55 then some (.sig (w.extractLsb' 4 1) (w.extractLsb' 0 4)) else none
  | _ => none

/-- The step a 64-bit word of the pattern store stands for; none is ILLEGAL_STEP (R232). -/
def decodeStep (w : BitVec 64) : Option Instr :=
  match decodeStepFields w with
  | some i => if i.wf then some i else none
  | none => none

/-- The words of an instruction (C = 0); a MOVL has its extension word second. Steps and events have no words. -/
def encode : Instr → List (BitVec 32)
  | .add d a b wa wb => [0#1 ++ 1#5 ++ 0#6 ++ d ++ a ++ b ++ wa ++ wb ++ 0#3]
  | .sub d a b wa wb => [0#1 ++ 1#5 ++ 1#6 ++ d ++ a ++ b ++ wa ++ wb ++ 0#3]
  | .and_ d a b wa wb => [0#1 ++ 1#5 ++ 2#6 ++ d ++ a ++ b ++ wa ++ wb ++ 0#3]
  | .or_ d a b wa wb => [0#1 ++ 1#5 ++ 3#6 ++ d ++ a ++ b ++ wa ++ wb ++ 0#3]
  | .xor_ d a b wa wb => [0#1 ++ 1#5 ++ 4#6 ++ d ++ a ++ b ++ wa ++ wb ++ 0#3]
  | .andn d a b wa wb => [0#1 ++ 1#5 ++ 5#6 ++ d ++ a ++ b ++ wa ++ wb ++ 0#3]
  | .orn d a b wa wb => [0#1 ++ 1#5 ++ 6#6 ++ d ++ a ++ b ++ wa ++ wb ++ 0#3]
  | .shl d a b wa wb => [0#1 ++ 1#5 ++ 7#6 ++ d ++ a ++ b ++ wa ++ wb ++ 0#3]
  | .shr d a b wa wb => [0#1 ++ 1#5 ++ 8#6 ++ d ++ a ++ b ++ wa ++ wb ++ 0#3]
  | .sra d a b wa wb => [0#1 ++ 1#5 ++ 9#6 ++ d ++ a ++ b ++ wa ++ wb ++ 0#3]
  | .ror d a b wa wb => [0#1 ++ 1#5 ++ 10#6 ++ d ++ a ++ b ++ wa ++ wb ++ 0#3]
  | .mul d a b wa wb => [0#1 ++ 1#5 ++ 11#6 ++ d ++ a ++ b ++ wa ++ wb ++ 0#3]
  | .mulh d a b wa wb => [0#1 ++ 1#5 ++ 12#6 ++ d ++ a ++ b ++ wa ++ wb ++ 0#3]
  | .mulhu d a b wa wb => [0#1 ++ 1#5 ++ 13#6 ++ d ++ a ++ b ++ wa ++ wb ++ 0#3]
  | .div d a b wa wb => [0#1 ++ 1#5 ++ 14#6 ++ d ++ a ++ b ++ wa ++ wb ++ 0#3]
  | .divu d a b wa wb => [0#1 ++ 1#5 ++ 15#6 ++ d ++ a ++ b ++ wa ++ wb ++ 0#3]
  | .rem d a b wa wb => [0#1 ++ 1#5 ++ 16#6 ++ d ++ a ++ b ++ wa ++ wb ++ 0#3]
  | .remu d a b wa wb => [0#1 ++ 1#5 ++ 17#6 ++ d ++ a ++ b ++ wa ++ wb ++ 0#3]
  | .min d a b wa wb => [0#1 ++ 1#5 ++ 18#6 ++ d ++ a ++ b ++ wa ++ wb ++ 0#3]
  | .max d a b wa wb => [0#1 ++ 1#5 ++ 19#6 ++ d ++ a ++ b ++ wa ++ wb ++ 0#3]
  | .minu d a b wa wb => [0#1 ++ 1#5 ++ 20#6 ++ d ++ a ++ b ++ wa ++ wb ++ 0#3]
  | .maxu d a b wa wb => [0#1 ++ 1#5 ++ 21#6 ++ d ++ a ++ b ++ wa ++ wb ++ 0#3]
  | .slt d a b wa wb => [0#1 ++ 1#5 ++ 22#6 ++ d ++ a ++ b ++ wa ++ wb ++ 0#3]
  | .sltu d a b wa wb => [0#1 ++ 1#5 ++ 23#6 ++ d ++ a ++ b ++ wa ++ wb ++ 0#3]
  | .seq d a b wa wb => [0#1 ++ 1#5 ++ 24#6 ++ d ++ a ++ b ++ wa ++ wb ++ 0#3]
  | .sne d a b wa wb => [0#1 ++ 1#5 ++ 25#6 ++ d ++ a ++ b ++ wa ++ wb ++ 0#3]
  | .clz d a wa => [0#1 ++ 1#5 ++ 26#6 ++ d ++ a ++ 0#5 ++ wa ++ 0#1 ++ 0#3]
  | .ctz d a wa => [0#1 ++ 1#5 ++ 27#6 ++ d ++ a ++ 0#5 ++ wa ++ 0#1 ++ 0#3]
  | .popc d a wa => [0#1 ++ 1#5 ++ 28#6 ++ d ++ a ++ 0#5 ++ wa ++ 0#1 ++ 0#3]
  | .sext d a wa sb => [0#1 ++ 1#5 ++ 29#6 ++ d ++ a ++ 0#5 ++ wa ++ 0#1 ++ sb]
  | .zext d a wa sb => [0#1 ++ 1#5 ++ 30#6 ++ d ++ a ++ 0#5 ++ wa ++ 0#1 ++ sb]
  | .cmovz d a b wa wb => [0#1 ++ 1#5 ++ 31#6 ++ d ++ a ++ b ++ wa ++ wb ++ 0#3]
  | .cmovnz d a b wa wb => [0#1 ++ 1#5 ++ 32#6 ++ d ++ a ++ b ++ wa ++ wb ++ 0#3]
  | .lea d a b wa wb sb => [0#1 ++ 1#5 ++ 33#6 ++ d ++ a ++ b ++ wa ++ wb ++ sb]
  | .addw d a b wa wb => [0#1 ++ 1#5 ++ 34#6 ++ d ++ a ++ b ++ wa ++ wb ++ 0#3]
  | .subw d a b wa wb => [0#1 ++ 1#5 ++ 35#6 ++ d ++ a ++ b ++ wa ++ wb ++ 0#3]
  | .mulw d a b wa wb => [0#1 ++ 1#5 ++ 36#6 ++ d ++ a ++ b ++ wa ++ wb ++ 0#3]
  | .shlw d a b wa wb => [0#1 ++ 1#5 ++ 37#6 ++ d ++ a ++ b ++ wa ++ wb ++ 0#3]
  | .shrw d a b wa wb => [0#1 ++ 1#5 ++ 38#6 ++ d ++ a ++ b ++ wa ++ wb ++ 0#3]
  | .sraw d a b wa wb => [0#1 ++ 1#5 ++ 39#6 ++ d ++ a ++ b ++ wa ++ wb ++ 0#3]
  | .bswap d a wa => [0#1 ++ 1#5 ++ 40#6 ++ d ++ a ++ 0#5 ++ wa ++ 0#1 ++ 0#3]
  | .addi d a imm => [0#1 ++ 2#5 ++ 0#3 ++ d ++ a ++ imm]
  | .andi d a imm => [0#1 ++ 2#5 ++ 1#3 ++ d ++ a ++ imm]
  | .ori d a imm => [0#1 ++ 2#5 ++ 2#3 ++ d ++ a ++ imm]
  | .xori d a imm => [0#1 ++ 2#5 ++ 3#3 ++ d ++ a ++ imm]
  | .slti d a imm => [0#1 ++ 2#5 ++ 4#3 ++ d ++ a ++ imm]
  | .sltiu d a imm => [0#1 ++ 2#5 ++ 5#3 ++ d ++ a ++ imm]
  | .shli d a n => [0#1 ++ 2#5 ++ 6#3 ++ d ++ a ++ 0#6 ++ 0#1 ++ n]
  | .shri d a n => [0#1 ++ 2#5 ++ 7#3 ++ d ++ a ++ 0#6 ++ 0#1 ++ n]
  | .srai d a n => [0#1 ++ 2#5 ++ 7#3 ++ d ++ a ++ 0#6 ++ 1#1 ++ n]
  | .movz d hw imm => [0#1 ++ 3#5 ++ 0#2 ++ d ++ hw ++ 0#1 ++ imm]
  | .movk d hw imm => [0#1 ++ 3#5 ++ 1#2 ++ d ++ hw ++ 0#1 ++ imm]
  | .movn d hw imm => [0#1 ++ 3#5 ++ 2#2 ++ d ++ hw ++ 0#1 ++ imm]
  | .movl d x => [0#1 ++ 4#5 ++ d ++ 0#2 ++ 0#19, x]
  | .movlS d x => [0#1 ++ 4#5 ++ d ++ 1#2 ++ 0#19, x]
  | .movlh d x => [0#1 ++ 4#5 ++ d ++ 2#2 ++ 0#19, x]
  | .beqz an a disp => [0#1 ++ 5#5 ++ 0#3 ++ an ++ a ++ disp]
  | .bnez an a disp => [0#1 ++ 5#5 ++ 1#3 ++ an ++ a ++ disp]
  | .bltz an a disp => [0#1 ++ 5#5 ++ 2#3 ++ an ++ a ++ disp]
  | .bgez an a disp => [0#1 ++ 5#5 ++ 3#3 ++ an ++ a ++ disp]
  | .bgtz an a disp => [0#1 ++ 5#5 ++ 4#3 ++ an ++ a ++ disp]
  | .blez an a disp => [0#1 ++ 5#5 ++ 5#3 ++ an ++ a ++ disp]
  | .bbs an a disp => [0#1 ++ 5#5 ++ 6#3 ++ an ++ a ++ disp]
  | .bbc an a disp => [0#1 ++ 5#5 ++ 7#3 ++ an ++ a ++ disp]
  | .jmp disp => [0#1 ++ 6#5 ++ 0#1 ++ disp]
  | .jal disp => [0#1 ++ 6#5 ++ 1#1 ++ disp]
  | .nop => [0#1 ++ 7#5 ++ 0#6 ++ 0#5 ++ 0#5 ++ 0#5 ++ 0#1 ++ 0#1 ++ 0#3]
  | .jalr d a wa => [0#1 ++ 7#5 ++ 1#6 ++ d ++ a ++ 0#5 ++ wa ++ 0#1 ++ 0#3]
  | .trap b sb => [0#1 ++ 7#5 ++ 2#6 ++ 0#5 ++ 0#5 ++ b ++ 0#1 ++ 0#1 ++ sb]
  | .brk => [0#1 ++ 7#5 ++ 3#6 ++ 0#5 ++ 0#5 ++ 0#5 ++ 0#1 ++ 0#1 ++ 0#3]
  | .yield => [0#1 ++ 7#5 ++ 4#6 ++ 0#5 ++ 0#5 ++ 0#5 ++ 0#1 ++ 0#1 ++ 0#3]
  | .susp a sb => [0#1 ++ 7#5 ++ 5#6 ++ 0#5 ++ a ++ 0#5 ++ 0#1 ++ 0#1 ++ sb]
  | .exit => [0#1 ++ 7#5 ++ 6#6 ++ 0#5 ++ 0#5 ++ 0#5 ++ 0#1 ++ 0#1 ++ 0#3]
  | .csrr d n => [0#1 ++ 7#5 ++ 7#6 ++ d ++ n ++ 0#1 ++ 0#1 ++ 0#3]
  | .csrw d n => [0#1 ++ 7#5 ++ 8#6 ++ d ++ n ++ 0#1 ++ 0#1 ++ 0#3]
  | .csrx d n => [0#1 ++ 7#5 ++ 9#6 ++ d ++ n ++ 0#1 ++ 0#1 ++ 0#3]
  | .quant => [0#1 ++ 7#5 ++ 10#6 ++ 0#5 ++ 0#5 ++ 0#5 ++ 0#1 ++ 0#1 ++ 0#3]
  | .rep cnt creg stp stride ke k => [0#1 ++ 8#5 ++ cnt ++ creg ++ stp ++ stride ++ ke ++ k ++ 0#9]
  | .ld d base sz zx off => [0#1 ++ 9#5 ++ d ++ base ++ sz ++ zx ++ 0#2 ++ 0#2 ++ off]
  | .ldAcq d base sz zx sc off => [0#1 ++ 9#5 ++ d ++ base ++ sz ++ zx ++ 1#2 ++ sc ++ off]
  | .st d base sz off => [0#1 ++ 10#5 ++ d ++ base ++ sz ++ 0#1 ++ 0#2 ++ 0#2 ++ off]
  | .stRel d base sz sc off => [0#1 ++ 10#5 ++ d ++ base ++ sz ++ 0#1 ++ 2#2 ++ sc ++ off]
  | .ldr t row base off => [0#1 ++ 11#5 ++ 0#3 ++ t ++ row ++ base ++ off]
  | .str t row base off => [0#1 ++ 11#5 ++ 1#3 ++ t ++ row ++ base ++ off]
  | .ldrd t row base off => [0#1 ++ 11#5 ++ 2#3 ++ t ++ row ++ base ++ off]
  | .strd t row base off => [0#1 ++ 11#5 ++ 3#3 ++ t ++ row ++ base ++ off]
  | .ldrb t row base off => [0#1 ++ 11#5 ++ 4#3 ++ t ++ row ++ base ++ off]
  | .pft base off => [0#1 ++ 11#5 ++ 5#3 ++ 0#4 ++ 0#6 ++ base ++ off]
  | .aadd d a b sz => [0#1 ++ 12#5 ++ 0#5 ++ d ++ a ++ b ++ 0#5 ++ sz]
  | .aand d a b sz => [0#1 ++ 12#5 ++ 1#5 ++ d ++ a ++ b ++ 0#5 ++ sz]
  | .aor d a b sz => [0#1 ++ 12#5 ++ 2#5 ++ d ++ a ++ b ++ 0#5 ++ sz]
  | .axor d a b sz => [0#1 ++ 12#5 ++ 3#5 ++ d ++ a ++ b ++ 0#5 ++ sz]
  | .amin d a b sz => [0#1 ++ 12#5 ++ 4#5 ++ d ++ a ++ b ++ 0#5 ++ sz]
  | .amax d a b sz => [0#1 ++ 12#5 ++ 5#5 ++ d ++ a ++ b ++ 0#5 ++ sz]
  | .aminu d a b sz => [0#1 ++ 12#5 ++ 6#5 ++ d ++ a ++ b ++ 0#5 ++ sz]
  | .amaxu d a b sz => [0#1 ++ 12#5 ++ 7#5 ++ d ++ a ++ b ++ 0#5 ++ sz]
  | .aswap d a b sz => [0#1 ++ 12#5 ++ 8#5 ++ d ++ a ++ b ++ 0#5 ++ sz]
  | .acas d a b c sz => [0#1 ++ 12#5 ++ 9#5 ++ d ++ a ++ b ++ c ++ sz]
  | .aqinc d a b sz => [0#1 ++ 12#5 ++ 10#5 ++ d ++ a ++ b ++ 0#5 ++ sz]
  | .aqwrap d a b sz => [0#1 ++ 12#5 ++ 11#5 ++ d ++ a ++ b ++ 0#5 ++ sz]
  | .aqdec d a sz => [0#1 ++ 12#5 ++ 12#5 ++ d ++ a ++ 0#5 ++ 0#5 ++ sz]
  | .aqaddl d a b => [0#1 ++ 12#5 ++ 13#5 ++ d ++ a ++ b ++ 0#5 ++ 1#1]
  | .aqchunk d a b => [0#1 ++ 12#5 ++ 14#5 ++ d ++ a ++ b ++ 0#5 ++ 1#1]
  | .afadd d a b sz => [0#1 ++ 12#5 ++ 15#5 ++ d ++ a ++ b ++ 0#5 ++ sz]
  | .vamo op td ta tb row => [0#1 ++ 12#5 ++ 31#5 ++ op ++ td ++ ta ++ tb ++ row]
  | .fence ord sc => [0#1 ++ 13#5 ++ 0#5 ++ 0#5 ++ 0#5 ++ 0#5 ++ ord ++ sc ++ 0#2]
  | .relt a b sc => [0#1 ++ 13#5 ++ 1#5 ++ 0#5 ++ a ++ b ++ 0#2 ++ sc ++ 0#2]
  | .acqt a b sc => [0#1 ++ 13#5 ++ 2#5 ++ 0#5 ++ a ++ b ++ 0#2 ++ sc ++ 0#2]
  | .ifence => [0#1 ++ 13#5 ++ 3#5 ++ 0#5 ++ 0#5 ++ 0#5 ++ 0#2 ++ 0#2 ++ 0#2]
  | .arrb d a => [0#1 ++ 13#5 ++ 4#5 ++ d ++ a ++ 0#5 ++ 0#2 ++ 0#2 ++ 0#2]
  | .waitb d a b => [0#1 ++ 13#5 ++ 5#5 ++ d ++ a ++ b ++ 0#2 ++ 0#2 ++ 0#2]
  | .waita d a b ord sc => [0#1 ++ 13#5 ++ 6#5 ++ d ++ a ++ b ++ ord ++ sc ++ 0#2]
  | .evset a ord sc => [0#1 ++ 13#5 ++ 7#5 ++ 0#5 ++ a ++ 0#5 ++ ord ++ sc ++ 0#2]
  | .evclr a ord sc => [0#1 ++ 13#5 ++ 8#5 ++ 0#5 ++ a ++ 0#5 ++ ord ++ sc ++ 0#2]
  | .evwait d a ord sc => [0#1 ++ 13#5 ++ 9#5 ++ d ++ a ++ 0#5 ++ ord ++ sc ++ 0#2]
  | .swin d a b sc => [0#1 ++ 13#5 ++ 10#5 ++ d ++ a ++ b ++ 0#2 ++ sc ++ 0#2]
  | .swclose d a => [0#1 ++ 13#5 ++ 11#5 ++ d ++ a ++ 0#5 ++ 0#2 ++ 0#2 ++ 0#2]
  | .acopy d a => [0#1 ++ 14#5 ++ 0#5 ++ d ++ a ++ 0#5 ++ 0#5 ++ 0#1]
  | .agather d a b => [0#1 ++ 14#5 ++ 1#5 ++ d ++ a ++ b ++ 0#5 ++ 0#1]
  | .ascatter d a b => [0#1 ++ 14#5 ++ 2#5 ++ d ++ a ++ b ++ 0#5 ++ 0#1]
  | .acoll d a b => [0#1 ++ 14#5 ++ 3#5 ++ d ++ a ++ b ++ 0#5 ++ 0#1]
  | .sbind d a => [0#1 ++ 14#5 ++ 4#5 ++ d ++ a ++ 0#5 ++ 0#5 ++ 0#1]
  | .sunb d a => [0#1 ++ 14#5 ++ 5#5 ++ d ++ a ++ 0#5 ++ 0#5 ++ 0#1]
  | .anote d a b c => [0#1 ++ 14#5 ++ 6#5 ++ d ++ a ++ b ++ c ++ 0#1]
  | .acancel d => [0#1 ++ 14#5 ++ 7#5 ++ d ++ 0#5 ++ 0#5 ++ 0#5 ++ 0#1]
  | .acancelAll => [0#1 ++ 14#5 ++ 7#5 ++ 0#5 ++ 0#5 ++ 0#5 ++ 0#5 ++ 1#1]
  | .tspawn d a b c => [0#1 ++ 15#5 ++ 0#5 ++ d ++ a ++ b ++ c ++ 0#1]
  | .tend => [0#1 ++ 15#5 ++ 1#5 ++ 0#5 ++ 0#5 ++ 0#5 ++ 0#5 ++ 0#1]
  | .tabort a => [0#1 ++ 15#5 ++ 2#5 ++ 0#5 ++ a ++ 0#5 ++ 0#5 ++ 0#1]
  | .twait d a => [0#1 ++ 15#5 ++ 3#5 ++ d ++ a ++ 0#5 ++ 0#5 ++ 0#1]
  | .tserial => [0#1 ++ 15#5 ++ 4#5 ++ 0#5 ++ 0#5 ++ 0#5 ++ 0#5 ++ 0#1]
  | .tinfo d a => [0#1 ++ 15#5 ++ 5#5 ++ d ++ a ++ 0#5 ++ 0#5 ++ 0#1]
  | .vadd typ td ta tb row => [0#1 ++ 16#5 ++ 0#5 ++ typ ++ td ++ ta ++ tb ++ row]
  | .vsub typ td ta tb row => [0#1 ++ 16#5 ++ 1#5 ++ typ ++ td ++ ta ++ tb ++ row]
  | .vmul typ td ta tb row => [0#1 ++ 16#5 ++ 2#5 ++ typ ++ td ++ ta ++ tb ++ row]
  | .vfma typ td ta tb row => [0#1 ++ 16#5 ++ 3#5 ++ typ ++ td ++ ta ++ tb ++ row]
  | .vfms typ td ta tb row => [0#1 ++ 16#5 ++ 4#5 ++ typ ++ td ++ ta ++ tb ++ row]
  | .vfnma typ td ta tb row => [0#1 ++ 16#5 ++ 5#5 ++ typ ++ td ++ ta ++ tb ++ row]
  | .vmin typ td ta tb row => [0#1 ++ 16#5 ++ 6#5 ++ typ ++ td ++ ta ++ tb ++ row]
  | .vmax typ td ta tb row => [0#1 ++ 16#5 ++ 7#5 ++ typ ++ td ++ ta ++ tb ++ row]
  | .vdiv typ td ta tb row => [0#1 ++ 16#5 ++ 8#5 ++ typ ++ td ++ ta ++ tb ++ row]
  | .vand typ td ta tb row => [0#1 ++ 16#5 ++ 9#5 ++ typ ++ td ++ ta ++ tb ++ row]
  | .vor typ td ta tb row => [0#1 ++ 16#5 ++ 10#5 ++ typ ++ td ++ ta ++ tb ++ row]
  | .vxor typ td ta tb row => [0#1 ++ 16#5 ++ 11#5 ++ typ ++ td ++ ta ++ tb ++ row]
  | .vandn typ td ta tb row => [0#1 ++ 16#5 ++ 12#5 ++ typ ++ td ++ ta ++ tb ++ row]
  | .vshl typ td ta tb row => [0#1 ++ 16#5 ++ 13#5 ++ typ ++ td ++ ta ++ tb ++ row]
  | .vshr typ td ta tb row => [0#1 ++ 16#5 ++ 14#5 ++ typ ++ td ++ ta ++ tb ++ row]
  | .vsra typ td ta tb row => [0#1 ++ 16#5 ++ 15#5 ++ typ ++ td ++ ta ++ tb ++ row]
  | .vceq typ td ta tb row => [0#1 ++ 16#5 ++ 16#5 ++ typ ++ td ++ ta ++ tb ++ row]
  | .vclt typ td ta tb row => [0#1 ++ 16#5 ++ 17#5 ++ typ ++ td ++ ta ++ tb ++ row]
  | .vcle typ td ta tb row => [0#1 ++ 16#5 ++ 18#5 ++ typ ++ td ++ ta ++ tb ++ row]
  | .vcne typ td ta tb row => [0#1 ++ 16#5 ++ 19#5 ++ typ ++ td ++ ta ++ tb ++ row]
  | .vadds typ td ta tb row => [0#1 ++ 16#5 ++ 20#5 ++ typ ++ td ++ ta ++ tb ++ row]
  | .vsubs typ td ta tb row => [0#1 ++ 16#5 ++ 21#5 ++ typ ++ td ++ ta ++ tb ++ row]
  | .vmulh typ td ta tb row => [0#1 ++ 16#5 ++ 22#5 ++ typ ++ td ++ ta ++ tb ++ row]
  | .vabsd typ td ta tb row => [0#1 ++ 16#5 ++ 23#5 ++ typ ++ td ++ ta ++ tb ++ row]
  | .vsel typ td ta tb row => [0#1 ++ 16#5 ++ 24#5 ++ typ ++ td ++ ta ++ tb ++ row]
  | .vcopysign typ td ta tb row => [0#1 ++ 16#5 ++ 25#5 ++ typ ++ td ++ ta ++ tb ++ row]
  | .vabs typ td ta row => [0#1 ++ 17#5 ++ 0#5 ++ typ ++ td ++ ta ++ 0#4 ++ row]
  | .vneg typ td ta row => [0#1 ++ 17#5 ++ 1#5 ++ typ ++ td ++ ta ++ 0#4 ++ row]
  | .vsqrt typ td ta row => [0#1 ++ 17#5 ++ 2#5 ++ typ ++ td ++ ta ++ 0#4 ++ row]
  | .vrcp typ td ta row => [0#1 ++ 17#5 ++ 3#5 ++ typ ++ td ++ ta ++ 0#4 ++ row]
  | .vrsq typ td ta row => [0#1 ++ 17#5 ++ 4#5 ++ typ ++ td ++ ta ++ 0#4 ++ row]
  | .vexp2 typ td ta row => [0#1 ++ 17#5 ++ 5#5 ++ typ ++ td ++ ta ++ 0#4 ++ row]
  | .vlog2 typ td ta row => [0#1 ++ 17#5 ++ 6#5 ++ typ ++ td ++ ta ++ 0#4 ++ row]
  | .vtanh typ td ta row => [0#1 ++ 17#5 ++ 7#5 ++ typ ++ td ++ ta ++ 0#4 ++ row]
  | .vfloor typ td ta row => [0#1 ++ 17#5 ++ 8#5 ++ typ ++ td ++ ta ++ 0#4 ++ row]
  | .vceil typ td ta row => [0#1 ++ 17#5 ++ 9#5 ++ typ ++ td ++ ta ++ 0#4 ++ row]
  | .vrint typ td ta row => [0#1 ++ 17#5 ++ 10#5 ++ typ ++ td ++ ta ++ 0#4 ++ row]
  | .vcvt typ td ta tb row => [0#1 ++ 17#5 ++ 11#5 ++ typ ++ td ++ ta ++ tb ++ row]
  | .vcvts typ td ta tb row => [0#1 ++ 17#5 ++ 12#5 ++ typ ++ td ++ ta ++ tb ++ row]
  | .vclz typ td ta row => [0#1 ++ 17#5 ++ 13#5 ++ typ ++ td ++ ta ++ 0#4 ++ row]
  | .vpopc typ td ta row => [0#1 ++ 17#5 ++ 14#5 ++ typ ++ td ++ ta ++ 0#4 ++ row]
  | .vnot typ td ta row => [0#1 ++ 17#5 ++ 15#5 ++ typ ++ td ++ ta ++ 0#4 ++ row]
  | .vscan typ td ta row => [0#1 ++ 17#5 ++ 16#5 ++ typ ++ td ++ ta ++ 0#4 ++ row]
  | .vscanmax typ td ta row => [0#1 ++ 17#5 ++ 17#5 ++ typ ++ td ++ ta ++ 0#4 ++ row]
  | .vsegscan typ td ta row => [0#1 ++ 17#5 ++ 18#5 ++ typ ++ td ++ ta ++ 0#4 ++ row]
  | .vclass typ td ta row => [0#1 ++ 17#5 ++ 19#5 ++ typ ++ td ++ ta ++ 0#4 ++ row]
  | .vmov td rd ta ra => [0#1 ++ 18#5 ++ 0#5 ++ td ++ rd ++ ta ++ ra ++ 0#1]
  | .vswap td rd ta ra => [0#1 ++ 18#5 ++ 1#5 ++ td ++ rd ++ ta ++ ra ++ 0#1]
  | .trn8B td rd ta ra => [0#1 ++ 18#5 ++ 2#5 ++ td ++ rd ++ ta ++ ra ++ 0#1]
  | .trn8H td rd ta ra => [0#1 ++ 18#5 ++ 3#5 ++ td ++ rd ++ ta ++ ra ++ 0#1]
  | .trn8W td rd ta ra => [0#1 ++ 18#5 ++ 4#5 ++ td ++ rd ++ ta ++ ra ++ 0#1]
  | .vrev td rd ta ra => [0#1 ++ 18#5 ++ 5#5 ++ td ++ rd ++ ta ++ ra ++ 0#1]
  | .vzero td rd => [0#1 ++ 18#5 ++ 6#5 ++ td ++ rd ++ 0#4 ++ 0#6 ++ 0#1]
  | .tzero td => [0#1 ++ 18#5 ++ 7#5 ++ td ++ 0#6 ++ 0#4 ++ 0#6 ++ 0#1]
  | .tmov td ta => [0#1 ++ 18#5 ++ 8#5 ++ td ++ 0#6 ++ ta ++ 0#6 ++ 0#1]
  | .vbcast typ t row s => [0#1 ++ 19#5 ++ 0#5 ++ typ ++ t ++ row ++ s ++ 0#3]
  | .vextr typ t row s => [0#1 ++ 19#5 ++ 1#5 ++ typ ++ t ++ row ++ s ++ 0#3]
  | .vredadd typ t row s => [0#1 ++ 19#5 ++ 2#5 ++ typ ++ t ++ row ++ s ++ 0#3]
  | .vredmax typ t row s => [0#1 ++ 19#5 ++ 3#5 ++ typ ++ t ++ row ++ s ++ 0#3]
  | .vredmin typ t row s => [0#1 ++ 19#5 ++ 4#5 ++ typ ++ t ++ row ++ s ++ 0#3]
  | .viota typ t row s => [0#1 ++ 19#5 ++ 5#5 ++ typ ++ t ++ row ++ s ++ 0#3]
  | .kfromrow typ t row k => [0#1 ++ 19#5 ++ 6#5 ++ typ ++ t ++ row ++ 0#5 ++ k]
  | .ktorow typ t row k => [0#1 ++ 19#5 ++ 7#5 ++ typ ++ t ++ row ++ 0#5 ++ k]
  | .kpopc typ s k => [0#1 ++ 19#5 ++ 8#5 ++ typ ++ 0#4 ++ 0#6 ++ s ++ k]
  | .kfirst typ s k => [0#1 ++ 19#5 ++ 9#5 ++ typ ++ 0#4 ++ 0#6 ++ s ++ k]
  | .kmovs q s k => [0#1 ++ 19#5 ++ 10#5 ++ 0#3 ++ 0#4 ++ 0#4 ++ q ++ s ++ k]
  | .kmovd q s k => [0#1 ++ 19#5 ++ 11#5 ++ 0#3 ++ 0#4 ++ 0#4 ++ q ++ s ++ k]
  | .kand kt ks k => [0#1 ++ 19#5 ++ 12#5 ++ 0#3 ++ 0#1 ++ kt ++ 0#6 ++ 0#2 ++ ks ++ k]
  | .kor kt ks k => [0#1 ++ 19#5 ++ 13#5 ++ 0#3 ++ 0#1 ++ kt ++ 0#6 ++ 0#2 ++ ks ++ k]
  | .kxor kt ks k => [0#1 ++ 19#5 ++ 14#5 ++ 0#3 ++ 0#1 ++ kt ++ 0#6 ++ 0#2 ++ ks ++ k]
  | .knot kt k => [0#1 ++ 19#5 ++ 15#5 ++ 0#3 ++ 0#1 ++ kt ++ 0#6 ++ 0#2 ++ 0#3 ++ k]
  | .pload pd t row s => [0#1 ++ 20#5 ++ 0#5 ++ pd ++ 0#3 ++ t ++ row ++ s]
  | .pstore pa t row => [0#1 ++ 20#5 ++ 1#5 ++ 0#3 ++ pa ++ t ++ row ++ 0#5]
  | .pgetr pa t row => [0#1 ++ 20#5 ++ 2#5 ++ 0#3 ++ pa ++ t ++ row ++ 0#5]
  | .psetr pd t row => [0#1 ++ 20#5 ++ 3#5 ++ pd ++ 0#3 ++ t ++ row ++ 0#5]
  | .pcomp pd pa pb => [0#1 ++ 20#5 ++ 4#5 ++ pd ++ pa ++ 0#1 ++ pb ++ 0#6 ++ 0#5]
  | .pinv pd pa => [0#1 ++ 20#5 ++ 5#5 ++ pd ++ pa ++ 0#4 ++ 0#6 ++ 0#5]
  | .prand pd s => [0#1 ++ 20#5 ++ 6#5 ++ pd ++ 0#3 ++ 0#4 ++ 0#6 ++ s]
  | .pid pd => [0#1 ++ 20#5 ++ 7#5 ++ pd ++ 0#3 ++ 0#4 ++ 0#6 ++ 0#5]
  | .pmov pd pa => [0#1 ++ 20#5 ++ 8#5 ++ pd ++ pa ++ 0#4 ++ 0#6 ++ 0#5]
  | .pcyc pa s => [0#1 ++ 20#5 ++ 9#5 ++ 0#3 ++ pa ++ 0#4 ++ 0#6 ++ s]
  | .pfix pa s => [0#1 ++ 20#5 ++ 10#5 ++ 0#3 ++ pa ++ 0#4 ++ 0#6 ++ s]
  | .pord pa s => [0#1 ++ 20#5 ++ 11#5 ++ 0#3 ++ pa ++ 0#4 ++ 0#6 ++ s]
  | .pclen pa s => [0#1 ++ 20#5 ++ 12#5 ++ 0#3 ++ pa ++ 0#4 ++ 0#6 ++ s]
  | .peq pa pb s => [0#1 ++ 20#5 ++ 13#5 ++ 0#3 ++ pa ++ 0#1 ++ pb ++ 0#6 ++ s]
  | .papplyR pa td ta => [0#1 ++ 20#5 ++ 16#5 ++ pa ++ td ++ ta ++ 0#3 ++ 0#6 ++ 0#1]
  | .papplyL pa td ta row => [0#1 ++ 20#5 ++ 17#5 ++ pa ++ td ++ ta ++ 0#3 ++ row ++ 0#1]
  | .mcall idx obj fl => [0#1 ++ 21#5 ++ 0#5 ++ idx ++ obj ++ 0#5 ++ fl]
  | .mpset ma s => [0#1 ++ 21#5 ++ 1#5 ++ ma ++ 0#4 ++ s ++ 0#5 ++ 0#4]
  | .mpget ma s => [0#1 ++ 21#5 ++ 2#5 ++ ma ++ 0#4 ++ s ++ 0#5 ++ 0#4]
  | .mtset t s a => [0#1 ++ 21#5 ++ 3#5 ++ 0#3 ++ t ++ s ++ a ++ 0#4]
  | .mtget t s => [0#1 ++ 21#5 ++ 4#5 ++ 0#3 ++ t ++ s ++ 0#5 ++ 0#4]
  | .mtclr t => [0#1 ++ 21#5 ++ 5#5 ++ 0#3 ++ t ++ 0#5 ++ 0#5 ++ 0#4]
  | .mloadp s a => [0#1 ++ 21#5 ++ 6#5 ++ 0#3 ++ 0#4 ++ s ++ a ++ 0#4]
  | .mfencep => [0#1 ++ 21#5 ++ 7#5 ++ 0#3 ++ 0#4 ++ 0#5 ++ 0#5 ++ 0#4]
  | .mbmap t => [0#1 ++ 21#5 ++ 8#5 ++ 0#3 ++ t ++ 0#5 ++ 0#5 ++ 0#4]
  | .sret => [0#1 ++ 22#5 ++ 0#6 ++ 0#5 ++ 0#5 ++ 0#5 ++ 0#1 ++ 0#1 ++ 0#3]
  | .pcsrr d n => [0#1 ++ 22#5 ++ 1#6 ++ d ++ n ++ 0#1 ++ 0#1 ++ 0#3]
  | .pcsrw d n => [0#1 ++ 22#5 ++ 2#6 ++ d ++ n ++ 0#1 ++ 0#1 ++ 0#3]
  | .tlbinv a b wa wb => [0#1 ++ 22#5 ++ 3#6 ++ 0#5 ++ a ++ b ++ wa ++ wb ++ 0#3]
  | .tlbsync => [0#1 ++ 22#5 ++ 4#6 ++ 0#5 ++ 0#5 ++ 0#5 ++ 0#1 ++ 0#1 ++ 0#3]
  | .ctxsave => [0#1 ++ 22#5 ++ 5#6 ++ 0#5 ++ 0#5 ++ 0#5 ++ 0#1 ++ 0#1 ++ 0#3]
  | .ctxload => [0#1 ++ 22#5 ++ 6#6 ++ 0#5 ++ 0#5 ++ 0#5 ++ 0#1 ++ 0#1 ++ 0#3]
  | .strstart d a wa => [0#1 ++ 22#5 ++ 7#6 ++ d ++ a ++ 0#5 ++ wa ++ 0#1 ++ 0#3]
  | .strstop a wa => [0#1 ++ 22#5 ++ 8#6 ++ 0#5 ++ a ++ 0#5 ++ wa ++ 0#1 ++ 0#3]
  | .wfi => [0#1 ++ 22#5 ++ 9#6 ++ 0#5 ++ 0#5 ++ 0#5 ++ 0#1 ++ 0#1 ++ 0#3]
  | .haltc => [0#1 ++ 22#5 ++ 10#6 ++ 0#5 ++ 0#5 ++ 0#5 ++ 0#1 ++ 0#1 ++ 0#3]
  | _ => []

/-- The 64-bit word of a matrix step. -/
def encodeStep : Instr → Option (BitVec 64)
  | .end_ => some (0#4 ++ 0#60)
  | .zero m keep => some (1#4 ++ 0#1 ++ m ++ keep ++ 0#55)
  | .lda m rf rc kb kn => some (2#4 ++ 0#1 ++ m ++ rf ++ rc ++ kb ++ kn ++ 0#24)
  | .ldb m rf rc kb kn => some (3#4 ++ 0#1 ++ m ++ rf ++ rc ++ kb ++ kn ++ 0#24)
  | .mac sp kb kn => some (4#4 ++ sp ++ 0#15 ++ kb ++ kn ++ 0#24)
  | .dec => some (5#4 ++ 0#60)
  | .bmap a b => some (6#4 ++ 0#58 ++ a ++ b)
  | .loop c cnt back => some (7#4 ++ 0#2 ++ c ++ cnt ++ 0#28 ++ back)
  | .adv m mode s => some (8#4 ++ 0#1 ++ m ++ mode ++ 0#38 ++ s)
  | .perm p => some (9#4 ++ 0#1 ++ p ++ 0#56)
  | .out m fmt sat rnd rf rc osh => some (10#4 ++ 0#1 ++ m ++ fmt ++ sat ++ rnd ++ rf ++ rc ++ osh ++ 0#28)
  | .sig stop msk => some (11#4 ++ 0#55 ++ stop ++ msk)
  | _ => none

/-- Is the word a MOVL, so that an extension word follows it (R140)? -/
def isMovl (w : BitVec 32) : Bool := decide (w.extractLsb' 26 5 = 4#5)

/-- The chain bit (R138). -/
def chains (w : BitVec 32) : Bool := w.getLsbD 31

/-- A bundle as the scan of R140 finds it: the position of its first word, its words with their positions and their
extension words, and the fault of the scan (kind 0 or 1 of R142 with the offending position, both counted within the
bundle). -/
structure Bundle where
  start : Nat
  words : List (Nat × BitVec 32 × BitVec 32)
  bad : Option (BitVec 2 × BitVec 2)
  deriving DecidableEq, Repr

/-- The scan of one bundle from word `i` of the packet (R140). `fuel` is the number of words left; the first result is
the position after the bundle. A MOVL with C = 1 as the third word fits kind 0 and kind 1 of R142; kind 1 is reported
(notes/assumptions 80: DESIGN CHOICE). -/
def scanBundle (p : Vector (BitVec 32) 3) (start : Nat) : Nat → Nat → List (Nat × BitVec 32 × BitVec 32) → Nat × Bundle
  | 0, i, ws => (i, ⟨start, ws, none⟩)
  | fuel + 1, i, ws =>
    let w := p[i]?.getD 0#32
    let pos := i - start
    if isMovl w then
      if i = 2 then (3, ⟨start, ws ++ [(pos, w, 0#32)], some (1#2, BitVec.ofNat 2 pos)⟩)
      else
        let ws := ws ++ [(pos, w, p[i + 1]?.getD 0#32)]
        if chains w then
          if i + 2 ≥ 3 then (3, ⟨start, ws, some (0#2, BitVec.ofNat 2 pos)⟩) else scanBundle p start fuel (i + 2) ws
        else (i + 2, ⟨start, ws, none⟩)
    else
      let ws := ws ++ [(pos, w, 0#32)]
      if chains w then
        if i + 1 ≥ 3 then (3, ⟨start, ws, some (0#2, BitVec.ofNat 2 pos)⟩) else scanBundle p start fuel (i + 1) ws
      else (i + 1, ⟨start, ws, none⟩)

/-- The bundles of a packet, in order (R140). -/
def splitPacket (p : Vector (BitVec 32) 3) : List Bundle :=
  let (i1, b1) := scanBundle p 0 3 0 []
  if i1 ≥ 3 then [b1] else
  let (i2, b2) := scanBundle p i1 3 i1 []
  if i2 ≥ 3 then [b1, b2] else
  let (_, b3) := scanBundle p i2 3 i2 []
  [b1, b2, b3]

/-- The bundle that starts at word `k` of a packet, if one does. -/
def bundleAt (p : Vector (BitVec 32) 3) (k : Nat) : Option Bundle :=
  (splitPacket p).find? (fun b => b.start = k)

/-- The pipe a word occupies by its major (R149): 1 S, 2 M, 3 V, 4 X; 0 none. -/
def pipeOf (w : BitVec 32) : Nat :=
  match (w.extractLsb' 26 5).toNat with
  | 1 | 2 | 3 | 4 | 5 | 6 | 7 | 15 | 22 => 1
  | 9 | 10 | 11 | 12 | 13 | 14 => 2
  | 16 | 17 | 18 | 19 => 3
  | 20 | 21 => 4
  | _ => 0

/-- May a word be the target of REP (R141)? -/
def repTargetOk (w : BitVec 32) : Bool :=
  match (w.extractLsb' 26 5).toNat with
  | 1 | 2 | 3 | 9 | 10 | 11 | 12 | 13 | 14 | 16 | 17 | 18 | 19 | 20 | 21 => true
  | 7 => decide (w.extractLsb' 20 6 = 0#6)
  | _ => false

/-- Add `n` to the field of width `wd` at bit `lo`, modulo 2^wd (R189). -/
def stepField (w : BitVec 32) (lo wd n : Nat) : BitVec 32 :=
  let old := (w >>> lo).toNat % 2 ^ wd
  let new := (old + n) % 2 ^ wd
  BitVec.ofNat 32 (w.toNat - old * 2 ^ lo + new * 2 ^ lo)

/-- The field places of the four step bits d, a, b, row for a target word (the table of R189); none stands for a dash.
Two places are stepped together in the fourth column of W and VX. -/
def stepPlaces (w : BitVec 32) : Option (Nat × Nat) × Option (Nat × Nat) × Option (Nat × Nat) × List (Nat × Nat) :=
  match (w.extractLsb' 26 5).toNat with
  | 1 | 7 => (some (15, 5), some (10, 5), some (5, 5), [])
  | 2 => (some (18, 5), some (13, 5), none, [])
  | 3 => (some (19, 5), none, none, [])
  | 9 | 10 => (some (21, 5), some (16, 5), none, [(0, 9)])
  | 11 => (some (19, 4), some (8, 5), none, [(13, 6), (0, 8)])
  | 12 =>
    if w.extractLsb' 21 5 = 31#5 then (some (14, 4), some (10, 4), some (6, 4), [(0, 6)])
    else (some (16, 5), some (11, 5), some (6, 5), [(1, 5)])
  | 13 | 14 => (some (16, 5), some (11, 5), some (6, 5), [])
  | 16 | 17 => (some (14, 4), some (10, 4), some (6, 4), [(0, 6)])
  | 18 => (some (17, 4), some (7, 4), none, [(11, 6), (1, 6)])
  | 19 => (some (14, 4), some (3, 5), none, [(8, 6)])
  | 20 =>
    if w.extractLsb' 25 1 = 1#1 then (some (14, 4), some (10, 4), some (18, 3), [(1, 6)])
    else (some (18, 3), some (15, 3), some (11, 4), [(5, 6)])
  | 21 =>
    if w.extractLsb' 21 5 = 0#5 then (none, none, none, [])
    else (some (14, 4), some (9, 5), some (4, 5), [(18, 3)])
  | _ => (none, none, none, [])

/-- Does the step mask use only columns the target has (R189)? -/
def stepAllowed (w : BitVec 32) (step : BitVec 4) : Bool :=
  let (d, a, b, r) := stepPlaces w
  (!step.getLsbD 3 || d.isSome) && (!step.getLsbD 2 || a.isSome) && (!step.getLsbD 1 || b.isSome) &&
    (!step.getLsbD 0 || !r.isEmpty)

/-- The target word of repetition `i` (R189). -/
def stepWord (w : BitVec 32) (step : BitVec 4) (stride : BitVec 2) (i : Nat) : BitVec 32 :=
  let n := i * 2 ^ stride.toNat
  let (d, a, b, r) := stepPlaces w
  let go (on : Bool) (p : Option (Nat × Nat)) (w : BitVec 32) : BitVec 32 :=
    match on, p with
    | true, some (lo, wd) => stepField w lo wd n
    | _, _ => w
  let w := go (step.getLsbD 3) d w
  let w := go (step.getLsbD 2) a w
  let w := go (step.getLsbD 1) b w
  if step.getLsbD 0 then r.foldl (fun w p => stepField w p.1 p.2 n) w else w

/-- The instruction the decoder reads from an instruction whose bits are `w`, bit 0 the least significant bit of its
first word, a second word's bits from 32 on; every bit above is 0. The word is decoded as the first of a bundle; 64 bits
that are no instruction word are read as a step of the pattern store. -/
def decodeTableWord (nbits w : Nat) : Option Instr :=
  match decode (BitVec.ofNat 32 w) (BitVec.ofNat 32 (w / 2 ^ 32)) with
  | some i => some i
  | none => if nbits = 64 then decodeStep (BitVec.ofNat 64 w) else none

end Sys2Proof
end

