-- ==== Sys2Proof/Machine/Translate.lean ====
section
/-! DEFINITION. Translation and address checks (20 R369-R373, 04 R86, R87, R89, 11 R254). -/

namespace Sys2Proof.Machine

/-! ## Causes (21 R387) -/

/-- A trap cause. -/
abbrev Cause := BitVec 8

def cIllegalOpcode : Cause := 0x01
def cIllegalBundle : Cause := 0x02
def cTargetAlign : Cause := 0x03
def cPrivilege : Cause := 0x04
def cEmptyRead : Cause := 0x05
def cExpired : Cause := 0x06
def cPoison : Cause := 0x07
def cRepCount : Cause := 0x08
def cPageNotPresent : Cause := 0x10
def cPermission : Cause := 0x11
def cMisaligned : Cause := 0x12
def cTargetType : Cause := 0x13
def cHostAtomic : Cause := 0x14
def cUndeclared : Cause := 0x15
def cTsOrder : Cause := 0x16
def cFormat : Cause := 0x17
def cPermInvalid : Cause := 0x18
def cFpTrap : Cause := 0x20
def cTrap : Cause := 0x30
def cBreak : Cause := 0x31
def cStep : Cause := 0x32
def cPreempt : Cause := 0x40
def cDeadlock : Cause := 0x41
def cMachineCheck : Cause := 0x50
def cRetryExhausted : Cause := 0x51

/-- A trap to be raised: its cause and value. -/
structure TrapInfo where
  cause : Cause
  value : Word
  deriving DecidableEq, Repr

/-! ## Physical layout (R86) -/

/-- The pod of a device number (R7). -/
def podOf (d : BitVec 17) : BitVec 11 := seg d 6 11

/-- Near memory carved on a die, in bytes (R93, R377). -/
def State.nearSize (s : State) (die : BitVec 3) : Nat := (seg (s.pkg.dmcfg.get die.toFin) 0 4).toNat * 2 ^ 26

/-- Whether an address keeps the layout of its target type (R86). -/
def State.layoutOk (s : State) (tt : BitVec 3) (pa : BitVec 52) : Bool :=
  match tt with
  | 0 => seg pa 44 8 == 0
  | 1 => seg pa 33 19 == 0 && decide ((seg pa 0 30).toNat < s.nearSize (seg pa 30 3))
  | 2 => seg pa 48 4 == 0 && podOf (seg pa 31 17) == podOf s.core.device
  | 3 => true
  | 4 => podOf (seg pa 35 17) == podOf s.core.device
  | 5 => true
  | _ => false

/-! ## The walk (R369, R371) -/

/-- A virtual address is canonical when bits [63:56] equal bit 55 (R369). -/
def canonical (va : Word) : Bool := seg va 55 9 == 0 || seg va 55 9 == BitVec.allOnes 9

/-- The index of a level (R369). -/
def walkIndex (lvl : Nat) (va : Word) : Nat :=
  match lvl with
  | 0 => (seg va 42 14).toNat
  | 1 => (seg va 29 13).toNat
  | 2 => (seg va 21 8).toNat
  | _ => (seg va 12 9).toNat

/-- The alignment of a level's table, in bits (R369). -/
def tableBits (lvl : Nat) : Nat :=
  match lvl with
  | 0 => 17
  | 1 => 16
  | _ => 12

/-- The page size of a leaf, in bits (R369). -/
def leafBits (lvl : Nat) (big : Bool) : Nat :=
  match lvl with
  | 1 => 29
  | 2 => if big then 25 else 21
  | _ => if big then 16 else 12

/-- One table entry, read at its home under key slot 0; TARGET_TYPE where its address breaks the layout, a machine check
where its line carries an uncorrectable error (R371, R396). -/
def State.readEntry (s : State) (tt : BitVec 3) (base : BitVec 52) (i : Nat) : Except Cause Word :=
  let p : Phys := { tt := tt, pa := base + BitVec.ofNat 52 (8 * i) }
  if decide (1 < tt.toNat) || !s.layoutOk tt p.pa then .error cTargetType
  else
    let (w, bad) := s.homeWord p
    if bad then .error cMachineCheck else .ok w

/-- The walk from a level on: `fuel` levels are left, the table stands at `base` (R371). The entry, and its page size in
bits. -/
def State.walkFrom (s : State) (va : Word) : Nat → Nat → BitVec 3 → BitVec 52 → Except Cause (Word × Nat)
  | 0, _, _, _ => .error cPageNotPresent
  | fuel + 1, lvl, tt, ptr =>
    let base : BitVec 52 := (ptr >>> tableBits lvl) <<< tableBits lvl
    match s.readEntry tt base (walkIndex lvl va) with
    | .error c => .error c
    | .ok e =>
      if !e.getLsbD 0 then .error cPageNotPresent
      else if e.getLsbD 1 then
        if lvl = 0 || (e.getLsbD 2 && lvl = 1) then .error cPageNotPresent
        else if e.getLsbD 2 then
          match s.readEntry tt base (walkIndex lvl va / 16 * 16) with
          | .error c => .error c
          | .ok h =>
            if !h.getLsbD 0 || !h.getLsbD 1 || !h.getLsbD 2 then .error cPageNotPresent
            else .ok (h, leafBits lvl true)
        else .ok (e, leafBits lvl false)
      else if lvl = 3 then .error cPageNotPresent
      else if 1 < (seg e 52 3).toNat then .error cTargetType
      else s.walkFrom va fuel (lvl + 1) (seg e 52 3) (seg e 12 40 ++ (0 : BitVec 12))

/-- The walk of a virtual address under a SATP value (R345, R369, R371). -/
def State.walk (s : State) (satp va : Word) : Except Cause (Word × Nat) :=
  if !canonical va then .error cPageNotPresent
  else s.walkFrom va 4 0 (seg satp 56 3) (seg satp 0 40 ++ (0 : BitVec 12))

/-! ## Cached translations (R373) -/

/-- Whether a cached entry is for an address under an address space. -/
def TlbEntry.hits (t : TlbEntry) (satp va : Word) : Bool :=
  (t.e.getLsbD 7 || t.asid == seg satp 40 16) && (seg va 0 56 >>> t.bits) == t.page

/-- The translation used: the walk's, or a cached entry that the tables no longer give, which may be used until a TLBINV
removes it (R373; which is a free choice) (notes/assumptions 11: DEDUCED). -/
def State.xlate (s : State) (satp va : Word) : Except Cause (Word × Nat) :=
  let w := s.walk satp va
  match s.core.tlb.find? (fun t => canonical va && t.hits satp va) with
  | none => w
  | some t =>
    match w with
    | .ok (e, b) => if e = t.e ∧ b = t.bits then w else if Config.useCached s.choice va then .ok (t.e, t.bits) else w
    | .error _ => if Config.useCached s.choice va then .ok (t.e, t.bits) else w

/-- The physical location of an address in the page of a leaf (R370). -/
def physOf (e : Word) (bits : Nat) (va : Word) : Phys :=
  let base : BitVec 52 := (seg e 12 40 ++ (0 : BitVec 12))
  { tt := seg e 52 3
    pa := ((base >>> bits) <<< bits) ||| (va.setWidth 52 - (((va.setWidth 52) >>> bits) <<< bits))
    c := e.getLsbD 9
    d := e.getLsbD 8
    key := seg e 56 8 }

/-- The core holds a translation from now on (R373: 512 entries of the first level, 8,192 of the second). -/
def State.noteTlb (s : State) (satp va : Word) : State :=
  match s.xlate satp va with
  | .error _ => s
  | .ok (e, b) =>
    let t : TlbEntry := { asid := seg satp 40 16, page := seg va 0 56 >>> b, bits := b, e := e }
    if s.core.tlb.elem t then s
    else { s with core := { s.core with tlb := (t :: s.core.tlb).take 8704 } }

/-- The same for the pages of a range. -/
def State.noteRange (s : State) (satp va : Word) (n : Nat) : State :=
  (List.range (n / 4096 + 1)).foldl (fun s i => s.noteTlb satp (va + w64 (min (4096 * i) (n - 1)))) s

/-! ## Scratchpad offsets (R89) and windows (R97, R98) -/

/-- The replica-area tiles of the core that owns a SPAD address: 32 until that core sets another number (R89) (notes/assumptions
23: DEDUCED). -/
def State.rplnOf (s : State) (p : Phys) : Nat :=
  if seg p.pa 31 17 = s.core.device ∧ seg p.pa 21 10 = s.core.core then (seg s.core.rpln 0 7).toNat
  else match s.pkg.rplns.find? (fun x => x.1 == seg p.pa 31 17 && x.2.1 == seg p.pa 21 10) with
    | some x => x.2.2
    | none => 32

/-- Offsets at or above this one are taken from programs (R89). -/
def spadLimit (n : Nat) : Nat := 0x1E0000 - n * 0x4000

/-- Whether `n` bytes of a scratchpad lie below the regions taken from programs. -/
def State.spadOk (s : State) (p : Phys) (n : Nat) : Bool :=
  decide ((seg p.pa 0 21).toNat + n ≤ spadLimit (s.rplnOf p))

/-- A SPAD address of the core itself. -/
def State.ownSpad (s : State) (p : Phys) : Bool :=
  p.tt == 2 && seg p.pa 31 17 == s.core.device && seg p.pa 21 10 == s.core.core

/-- Whether a scratchpad offset of the core lies in a coherent window of it. -/
def State.inWindow (s : State) (off : BitVec 21) : Bool :=
  s.core.wins.any (fun w => decide (w.base.toNat ≤ off.toNat) && decide (off.toNat < w.base.toNat + w.tiles * 0x4000))

/-- Whether an access is one with exposed latency: the core's own scratchpad, outside its open windows (R44). -/
def State.exposed (s : State) (p : Phys) : Bool := s.ownSpad p && !s.inWindow (seg p.pa 0 21)

/-! ## Address checks (R254, R87) -/

/-- The kinds of access the checks tell apart. -/
inductive Acc where
  | load | store | atomic | row | rowStore | described | describedStore | fetch
  deriving DecidableEq, Repr

/-- Whether the kind writes. -/
def Acc.writes : Acc → Bool
  | .store | .atomic | .rowStore | .describedStore => true
  | _ => false

/-- Whether the kind reads (an atomic reads and writes; STRD is checked as a store). -/
def Acc.reads : Acc → Bool
  | .load | .atomic | .row | .described => true
  | _ => false

/-- The page's permissions refuse the access (R254.3, R371) (notes/assumptions 49: DEDUCED). -/
def permRefused (k : Acc) (lvl : Level) (e : Word) : Bool :=
  (k.reads && !e.getLsbD 3) || (k.writes && !e.getLsbD 4) || (k == .fetch && !e.getLsbD 5)
    || (lvl == .u && (!e.getLsbD 6 || seg e 52 3 == 5))

/-- R86 or R87 refuses an access of `n` bytes. -/
def State.targetRefused (s : State) (k : Acc) (n : Nat) (p : Phys) : Bool :=
  !s.layoutOk p.tt p.pa ||
  match p.tt with
  | 0 | 1 =>
    (k == .described || k == .describedStore) && (!p.d || (p.tt == 0 && !s.inDescribed p.pa.toNat))
  | 2 => k == .described || k == .describedStore || k == .fetch || !s.spadOk p n
  | 3 | 4 => k == .described || k == .describedStore || k == .fetch
  | 5 => !((k == .load || k == .store) && (n == 4 || n == 8))
  | _ => true

/-- The checks of R254 in their order, at one address: the location, or the trap with `ea` as value. -/
def State.checkAddr (s : State) (lvl : Level) (satp : Word) (k : Acc) (align n : Nat) (ea : Word) :
    Except TrapInfo Phys :=
  if ea.toNat % align ≠ 0 then .error ⟨cMisaligned, ea⟩
  else match s.xlate satp ea with
    | .error c => .error ⟨c, ea⟩
    | .ok (e, b) =>
      if permRefused k lvl e then .error ⟨cPermission, ea⟩
      else
        let p := physOf e b ea
        if s.targetRefused k n p then .error ⟨cTargetType, ea⟩ else .ok p

/-- The current context's own check. -/
def State.check (s : State) (k : Acc) (align n : Nat) (ea : Word) : Except TrapInfo Phys :=
  s.checkAddr s.cur.level s.cur.sc.satp k align n ea

/-- The pieces of a range at page boundaries (4 KiB is the smallest page): address and length of each. -/
def pagePieces : Nat → Word → Nat → List (Word × Nat)
  | 0, _, _ => []
  | fuel + 1, va, n =>
    if n = 0 then []
    else
      let m := min n (4096 - va.toNat % 4096)
      (va, m) :: pagePieces fuel (va + w64 m) (n - m)

/-- The checks over a range of `n` bytes, page by page, lowest page first; the locations of its pages (R254). -/
def State.checkRange (s : State) (lvl : Level) (satp : Word) (k : Acc) (ea : Word) (n : Nat) :
    Except TrapInfo (List (Phys × Nat)) :=
  (pagePieces (n / 4096 + 2) ea n).foldr (fun (va, m) r =>
    match s.checkAddr lvl satp k 1 m va with
    | .error t => .error t
    | .ok p => match r with
      | .error t => .error t
      | .ok l => .ok ((p, m) :: l)) (.ok [])

/-- Read a range whose pages have been checked. -/
def State.readRange (s : State) (l : List (Phys × Nat)) : List Byte := (l.map (fun (p, m) => s.readAt p m)).flatten

/-- Write a range whose pages have been checked. -/
def State.writeRange (s : State) : List (Phys × Nat) → List Byte → State
  | [], _ => s
  | (p, m) :: t, bs => State.writeRange (s.writeAt p (bs.take m)) t (bs.drop m)

/-- Bytes at a virtual address as the supervisor level of an address space reads them, or nothing. -/
def State.vread (s : State) (satp va : Word) (n : Nat) : Option (List Byte) :=
  match s.checkRange .s satp .load va n with
  | .error _ => none
  | .ok l => some (s.readRange l)

/-- Write bytes at a virtual address as the supervisor level, where it translates. -/
def State.vwrite (s : State) (satp va : Word) (bs : List Byte) : State :=
  match s.checkRange .s satp .store va bs.length with
  | .error _ => s
  | .ok l => s.writeRange l bs

end Sys2Proof.Machine
end

