-- ==== Sys2Proof/Machine/Links.lean ====
section
/-! DEFINITION. The fabric from the sender's side: which device a location lies on, the messages of requests, and frames sent
on a link with their replay buffer (23 R402-R407, R415). -/

namespace Sys2Proof.Machine

/-! ## Pod time and devices -/

/-- PTIME: pod time in ns; the arithmetic clock is 1.5 GHz (R1, R409) (notes/assumptions 95: DEDUCED). -/
def State.ptime (s : State) : Word := w64 (s.pkg.ptimeBase + s.core.cyc * 2 / 3)

/-- The device a location lies on, if it is another one. -/
def State.otherDevice (s : State) (p : Phys) : Option (BitVec 17) :=
  match p.tt with
  | 2 => if seg p.pa 31 17 = s.core.device then none else some (seg p.pa 31 17)
  | 4 => if seg p.pa 35 17 = s.core.device then none else some (seg p.pa 35 17)
  | _ => none

/-- The local address behind an offset in this device's peer aperture, whatever its permissions (R375). -/
def State.paptLoc (s : State) (off : BitVec 35) : Option Phys :=
  let e := s.pkg.papt.get (seg off 30 5).toFin
  let tt := seg e 3 3
  let p : Phys := { tt := tt, pa := seg e 30 22 ++ seg off 0 30, d := true, key := seg e 8 8 }
  if e.getLsbD 0 && decide (tt.toNat < 3) && s.layoutOk tt p.pa then some p else none

/-- The place an access reaches: behind this device's own peer aperture, the local one (R375). -/
def State.homeLoc (s : State) (p : Phys) : Phys :=
  if p.tt = 4 ∧ (s.otherDevice p).isNone then (s.paptLoc (seg p.pa 0 35)).getD p else p

/-- Whether a home lies within the package (R130). -/
def State.withinPackage (s : State) (p0 : Phys) : Bool :=
  let p := s.homeLoc p0
  (p.tt != 4 || (s.otherDevice p).isNone) && !(p.tt == 2 && seg p.pa 31 17 != s.core.device)

/-- A record of the outside (notes/assumptions 50: DESIGN CHOICE). -/
def State.emit (s : State) (o : Out) : State := { s with pkg := { s.pkg with out := s.pkg.out ++ [o] } }

/-! ## Recording and replay of a launch (R416, R417) -/

/-- Whether a launch is being recorded: the packet asked for it and there is a buffer. -/
def Launch.recording (l : Launch) : Bool := l.record.any (fun r => r.2 != 0)

/-- Whether a launch is recorded or replayed. -/
def Launch.tracing (l : Launch) : Bool := l.recording || !l.feed.isEmpty

/-- Something a recording keeps has come about: recordings of the launches it concerns append it, with its kind, what names it and
its data; replays have fed it. -/
def State.traced (s : State) (mine : Launch → Bool) (kind : Nat) (key data : List Byte) : State :=
  if s.pkg.launches.any Launch.tracing then
    { s with pkg := { s.pkg with launches := s.pkg.launches.map (fun l =>
        if mine l then { l with
          log := if l.recording then l.log ++ [(kind, key ++ data)] else l.log
          feed := l.feed.eraseP (fun x => x.1 == kind && x.2.take key.length == key) }
        else l) } }
  else s

/-- What a replay of the launch feeds next of a kind under a name. -/
def Launch.fed (l : Launch) (kind : Nat) (key : List Byte) : Option (List Byte) :=
  (l.feed.find? (fun x => x.1 == kind && x.2.take key.length == key)).map (fun x => x.2.drop key.length)

/-! ## Frames (R402, R406, R407, R415) -/

/-- The class of a message (R402). -/
def msgClass : MsgBody → BitVec 2
  | .request _ _ (.read _) => 0
  | .request _ _ (.write _) => 0
  | .request _ _ _ => 2
  | .response _ _ => 1
  | .rejoin => 3
  | .manage _ => 3

/-- The 96-bit nonce of a frame (R407): lseq, the direction, the count of wraps. -/
def nonceOf (dir : Bool) (lseq : BitVec 24) (wraps : BitVec 71) : BitVec 96 := lseq ++ BitVec.ofBool dir ++ wraps

/-- The 16 bytes of a frame before its beats (R402): forwarding header, EtherType, link header, the most significant byte first. -/
def frameHeader (f : Frame) : List Byte :=
  (leBytes 6 (f.dst ++ f.src ++ f.cls ++ f.inc ++ f.flow).toNat).reverse ++ (leBytes 2 f.etherType.toNat).reverse
    ++ (leBytes 8 (f.lseq ++ f.lack ++ f.kidx ++ f.rsv).toNat).reverse

/-- The links that are up and whose replay buffer has room. -/
def State.openLinks (s : State) : List (Fin 32) :=
  (List.finRange 32).filter (fun i => (s.pkg.links.get i).up && decide ((s.pkg.links.get i).replay.length < 1024))

/-- A frame with one message goes out on a link, sealed under the key in use, and into its replay buffer; an armed injection in array 9
corrupts its FCS. -/
def State.transmit (s : State) (port : Fin 32) (dst : BitVec 17) (m : Msg) : State :=
  let k := s.pkg.links.get port
  let bad := s.core.einj.getLsbD 8 && seg s.core.einj 0 8 == 9
  let wraps := if k.tx + 1 = 0 then k.wraps + 1 else k.wraps
  let f : Frame :=
    { fcsOk := !bad, etherType := 0x88B5, dst := dst, src := s.core.device, cls := msgClass m.body, inc := s.pkg.inc
      flow := BitVec.ofNat 8 (Config.free s.choice), lseq := k.tx + 1, lack := k.rx, kidx := k.kidx, rsv := 0, tagOk := true
      key := if k.kidx = 0 then k.key0 else k.key1, nonce := nonceOf (Config.linkDir port.val) (k.tx + 1) wraps, msgs := [m] }
  let k1 : Link := { k with tx := k.tx + 1, wraps := wraps, replay := k.replay ++ [{ f with fcsOk := true }] }
  let s1 : State := { s with
    pkg := { s.pkg with links := s.pkg.links.set port.val k1 port.isLt }
    core := { s.core with einj := if bad then s.core.einj &&& ~~~0x100 else s.core.einj } }
  s1.emit (.frame (BitVec.ofNat 5 port.val) f)

/-- A message goes into a frame, on a free choice of the links that can take it; without one it waits (R406). -/
def State.place (s : State) (dst : BitVec 17) (m : Msg) : State :=
  let wait := { s with pkg := { s.pkg with outbox := s.pkg.outbox ++ [(dst, m)] } }
  match s.openLinks with
  | [] => wait
  | l => let (n, s2) := s.draw
    match l[n % l.length]? with
    | some p => s2.transmit p dst m
    | none => wait

/-- A message goes out. -/
def State.post (s : State) (dst : BitVec 17) (m : Msg) : State := (s.emit (.message dst m.msn m.body)).place dst m

/-- Messages that wait go out while a link has room, responses first: they never wait for room that requests hold (R403). -/
def State.flush (s : State) : State :=
  let l := s.pkg.outbox
  let first := l.filter (fun x => msgClass x.2.body == 1) ++ l.filter (fun x => msgClass x.2.body != 1)
  if l.isEmpty || s.openLinks.isEmpty then s
  else first.foldl (fun s x => s.place x.1 x.2) { s with pkg := { s.pkg with outbox := [] } }

/-- The next message sequence number to a device (R404). -/
def State.nextMsn (s : State) (dst : BitVec 17) : BitVec 32 × State :=
  let n : BitVec 32 := match s.pkg.msns.find? (fun x => x.1 == dst) with
    | some x => x.2 + 1
    | none => 0
  (n, { s with pkg := { s.pkg with msns := (dst, n) :: s.pkg.msns.filter (fun x => x.1 != dst) } })

/-! ## Messages of requests (R404) -/

/-- A place of another device as a message names it: a scratchpad address, or an offset in its peer aperture. -/
def Phys.named (p : Phys) : BitVec 3 × BitVec 52 := (p.tt, if p.tt = 4 then (seg p.pa 0 35).setWidth 52 else p.pa)

/-- What a request asks of a device, as its message says it; of a VAMO the lanes on that device. Described rows lie in pooled memory
and event bits in the cluster: they ask nothing of another device (R259, R281). -/
def State.asksOf (s : State) (dev : BitVec 17) : ReqOp → Option PeerOp
  | .load n _ => some (.read n)
  | .store bs => some (.write bs)
  | .note bs _ => some (.write bs)
  | .atomic fn wide b c _ => some (.atomic fn (BitVec.ofBool wide) b c)
  | .vamo op lanes _ _ _ _ => some (.vamo op ((lanes.filter (fun l => s.otherDevice l.loc == some dev)).map (fun l => (l.loc.named.1, l.loc.named.2, l.b))))
  | .arrive st _ => some (.arrive st)
  | .ldrd _ _ _ _ _ => none
  | .strd _ _ _ _ => none
  | .event _ _ => none
  | .ack => none

/-- The other devices that a request goes to, each with the first place there. -/
def State.peersOf (s : State) (q : Req) : List (BitVec 17 × Phys) :=
  (match q.op with
    | .vamo _ lanes _ _ _ _ => lanes.map VamoLane.loc
    | _ => [q.loc]).foldl (fun l p => match s.otherDevice p with
      | some d => if l.any (fun x => x.1 == d) then l else l ++ [(d, p)]
      | none => l) []

/-- A message that wants a response is sent; it is kept for the response and, of a request, for sending it again (R404, R412). -/
def State.sendKept (s : State) (d : BitVec 17) (body : MsgBody) (tag : Nat) : State :=
  let (msn, s1) := s.nextMsn d
  let x : Sent := { dst := d, msn := msn, body := body, resends := 0, tag := tag, sentAt := s.ptime.toNat }
  ({ s1 with pkg := { s1.pkg with sent := s1.pkg.sent ++ [x] } } : State).post d { msn := msn, body := body }

/-- A management message about a launch is sent (R408). -/
def State.manage (s : State) (d : BitVec 17) (m : Manage) : State :=
  let (msn, s1) := s.nextMsn d
  s1.post d { msn := msn, body := .manage m }

/-- A request to other devices goes out as messages, one to each. -/
def State.sendMessage (s : State) (q : Req) : State :=
  (s.peersOf q).foldl (fun (s : State) x => match s.asksOf x.1 q.op with
    | some op => s.sendKept x.1 (.request x.2.named.1 x.2.named.2 op) q.tag
    | none => s) s

/-- Whether a message is a request or an atomic, which is sent again until it is answered (R404). -/
def isResent : MsgBody → Bool
  | .request _ _ _ => true
  | _ => false

/-- A request has its responses: its messages are no longer sent again. -/
def State.answered (s : State) (tag : Nat) : State :=
  { s with pkg := { s.pkg with sent := s.pkg.sent.filter (fun x => x.tag != tag || !isResent x.body) } }

/-- The recorded incarnation of a device (R411). -/
def State.incOf (s : State) (dev : BitVec 17) : BitVec 4 :=
  match s.pkg.incs.find? (fun x => x.1 == dev) with
  | some x => x.2
  | none => 0

end Sys2Proof.Machine
end

