-- ==== Sys2Proof/Machine/Registers.lean ====
section
/-! DEFINITION. The register files of a context, results in flight and their landing, marks of long-latency producers and
their deliveries (02 R32-R52, 21 R389-R395). -/

namespace Sys2Proof.Machine

/-! ## Reading and setting registers of a context -/

/-- The value of a scalar; s0 reads 0 (R32). -/
def Ctx.sv (c : Ctx) (r : BitVec 5) : Word := if r = 0 then 0 else (c.s.get r.toFin).v

/-- The state of a scalar; s0 is FULL. -/
def Ctx.sst (c : Ctx) (r : BitVec 5) : RegState := if r = 0 then .full else (c.s.get r.toFin).st

/-- A tile. -/
def Ctx.tile (c : Ctx) (t : BitVec 4) : Tile := c.t.get t.toFin

/-- A tile row with its state. -/
def Ctx.rowReg (c : Ctx) (t : BitVec 4) (r : BitVec 6) : RowReg := (c.tile t).rows.get r.toFin

/-- The value of a mask; k0 reads all ones (R32). -/
def Ctx.kv (c : Ctx) (k : BitVec 3) : Mask := if k = 0 then BitVec.allOnes 256 else c.k.get k.toFin

/-- A permutation register; p0 is the identity, whose settings are all 0 (R32, R213). -/
def Ctx.pv (c : Ctx) (p : BitVec 3) : PermReg := if p = 0 then {} else c.p.get p.toFin

/-- A matrix argument register. -/
def Ctx.mav (c : Ctx) (m : BitVec 3) : Word := c.ma.get m.toFin

/-- Set a scalar; writes to s0 are discarded (R33). -/
def Ctx.setS (c : Ctx) (r : BitVec 5) (x : Scalar) : Ctx :=
  if r = 0 then c else { c with s := c.s.set r.toNat x r.isLt }

/-- Change a tile. -/
def Ctx.modTile (c : Ctx) (t : BitVec 4) (f : Tile → Tile) : Ctx :=
  { c with t := c.t.set t.toNat (f (c.tile t)) t.isLt }

/-- Set a row of a tile; any write to a row sets the live bit (R34). -/
def Ctx.setRow (c : Ctx) (t : BitVec 4) (r : BitVec 6) (x : RowReg) : Ctx :=
  c.modTile t (fun q => { q with rows := q.rows.set r.toNat x r.isLt, live := true })

/-- Set a mask; writes to k0 are discarded (R33). -/
def Ctx.setK (c : Ctx) (k : BitVec 3) (v : Mask) : Ctx :=
  if k = 0 then c else { c with k := c.k.set k.toNat v k.isLt }

/-- Set a permutation register; p0 is never written (R33). -/
def Ctx.setP (c : Ctx) (p : BitVec 3) (x : PermReg) : Ctx :=
  if p = 0 then c else { c with p := c.p.set p.toNat x p.isLt }

/-- Set a matrix argument register. -/
def Ctx.setMa (c : Ctx) (m : BitVec 3) (v : Word) : Ctx := { c with ma := c.ma.set m.toNat v m.isLt }

/-- The value and state of a destination, as a row. -/
def Ctx.destVal (c : Ctx) : Dest → Row
  | .s r => (c.sv r).setWidth 2048
  | .row t r => (c.rowReg t r).v
  | .k r => (c.kv r).setWidth 2048
  | .p r => (c.pv r).v.setWidth 2048
  | .ma r => (c.mav r).setWidth 2048

/-- Write a value into a register, FULL or POISONED, at wall cycle `now`; of a row or
a mask only the bytes `sel` selects (R47). -/
def Ctx.put (c : Ctx) (now : Nat) (d : Dest) (v : Row) (sel : Mask) (poison : Bool) : Ctx :=
  let st : RegState := if poison then .poisoned else .full
  match d with
  | .s r => c.setS r { v := v.setWidth 64, st := st }
  | .row t r => c.setRow t r { v := blend (c.rowReg t r).v v sel, st := st, wr := now }
  | .k r => c.setK r ((blend ((c.kv r).setWidth 2048) v sel).setWidth 256)
  | .p r => c.setP r { v := v.setWidth 352, full := true }
  | .ma r => c.setMa r (v.setWidth 64)

/-- Mark a register EMPTY (R39); masks and matrix arguments are always FULL. -/
def Ctx.empty (c : Ctx) (now : Nat) (d : Dest) : Ctx :=
  match d with
  | .s r => c.setS r { v := c.sv r, st := .empty }
  | .row t r => c.setRow t r { v := (c.rowReg t r).v, st := .empty, wr := now }
  | .p r => c.setP r { v := (c.pv r).v, full := false }
  | _ => c

/-- Whether a register is EMPTY. -/
def Ctx.isEmpty (c : Ctx) : Dest → Bool
  | .s r => c.sst r == .empty
  | .row t r => (c.rowReg t r).st == .empty
  | .p r => !(c.pv r).full
  | _ => false

/-- The wait of a SUSP whose bundle has further repetitions to come is not yet the strand's own: an interruption drops it (R192). -/
def Ctx.endDropped (c : Ctx) : Ctx :=
  match c.repEnd with
  | some (_, _, some _) => { c with repEnd := none, strand := c.strand.map (fun x => { x with wait := none }) }
  | _ => { c with repEnd := none }

/-! ## The strand of a context -/

/-- The id under which the context's results and requests travel; all ones for S code in an empty context. -/
def Ctx.sid (c : Ctx) : BitVec 40 :=
  match c.strand with
  | some st => st.id
  | none => BitVec.allOnes 40

/-- Change the strand of a context. -/
def Ctx.modStrand (c : Ctx) (f : Strand → Strand) : Ctx := { c with strand := c.strand.map f }

/-- Change the current context. -/
def State.modCur (s : State) (f : Ctx → Ctx) : State := { s with cur := f s.cur }

/-! ## User CSRs that a context holds -/

/-- The reserved bits of a user CSR read 0 and their writes are ignored (R3, R70, R83, R193, R268, R279, R391). -/
def ucsrMask (n : BitVec 10) (v : Word) : Word :=
  match n with
  | 0x006 => v &&& 0x3F0F
  | 0x007 => v &&& 0x3F
  | 0x008 => v &&& 0xFFFFFFFFFFFFFDFF
  | 0x009 => v &&& 0xFFFFFFFFFFFFFDFF
  | 0x00A => v &&& 0x0000FFFFFFFFFFFF
  | 0x00B => v &&& 0x00FFFFFFFFFFFFFC
  | 0x00C => v &&& 0x1FF
  | 0x00D => (sext64 56 v) &&& 0xFFFFFFFFFFFFFFFC
  | 0x00E => (sext64 56 v) &&& 0xFFFFFFFFFFFFFFFC
  | 0x00F => (sext64 56 v) &&& 0xFFFFFFFFFFFFFFFC
  | _ => v

/-- Write a user CSR of a context by number; a read-only one ignores the write (R185, R186). -/
def UCsr.write (u : UCsr) (n : BitVec 10) (v : Word) : UCsr :=
  let x := ucsrMask n v
  match n with
  | 0x006 => { u with rm := if (seg x 0 3).toNat < 6 then x else setSeg x 0 (seg u.rm 0 3) }
  | 0x007 => { u with ffl := x }
  | 0x008 => { u with repc := x }
  | 0x009 => { u with vap := x }
  | 0x00A => { u with wto := x }
  | 0x00B => { u with utvec := x }
  | 0x00C => { u with ucause := x }
  | 0x00D => { u with uepc := x }
  | 0x00E => { u with unpc := x }
  | 0x00F => { u with unnpc := x }
  | 0x010 => { u with utval := x }
  | 0x014 => { u with srs := x, gen := x }
  | _ => u

/-! ## Results in flight (R43, R50, R51) -/

/-- Queue an effect of the bundle being issued. -/
def State.push (s : State) (rem : Nat) (e : Eff) : State :=
  s.modCur (fun c => { c with pend := c.pend ++ [{ rem := rem, eff := e }] })

/-- Queue a scalar result with latency `l`. -/
def State.pushS (s : State) (l : Nat) (d : BitVec 5) (v : Word) : State :=
  s.push l (.write (.s d) (v.setWidth 2048) (BitVec.allOnes 256) false)

/-- Queue a whole-row result, of which the bytes `sel` selects are written. -/
def State.pushRow (s : State) (l : Nat) (t : BitVec 4) (r : BitVec 6) (v : Row) (sel : Mask) : State :=
  s.push l (.write (.row t r) v sel false)

/-- Queue a mask result. -/
def State.pushK (s : State) (l : Nat) (k : BitVec 3) (v : Mask) : State :=
  s.push l (.write (.k k) (v.setWidth 2048) (BitVec.allOnes 256) false)

/-- Queue a permutation result. -/
def State.pushP (s : State) (l : Nat) (p : BitVec 3) (v : Switches) : State :=
  s.push l (.write (.p p) (v.setWidth 2048) (BitVec.allOnes 256) false)

/-- Whether an effect is a result for a destination. -/
def Eff.writesTo (e : Eff) (d : Dest) : Bool :=
  match e with
  | .write d' _ _ _ => d' == d
  | _ => false

/-- An effect without its part for one destination: a tile is then cleared but for that row (R42). -/
def Eff.sparing (e : Eff) (d : Dest) : Eff :=
  match e, d with
  | .zeroTile t keep, .row t' r => if t' == t then .zeroTile t (keep ||| (1 <<< r.toNat)) else e
  | _, _ => e

/-- A result that lands in the row registers counts as row-class, one that lands in scalars or ma registers as
scalar-class (R51). -/
def Eff.rowClass : Eff → Bool
  | .write (.row _ _) _ _ _ => true
  | .write (.k _) _ _ _ => true
  | .write (.p _) _ _ _ => true
  | .zeroTile _ _ => true
  | _ => false

def Eff.scalarClass : Eff → Bool
  | .write (.s _) _ _ _ => true
  | .write (.ma _) _ _ _ => true
  | _ => false

/-- The limits of R51 hold for the results in flight. -/
def Ctx.withinLimits (c : Ctx) : Bool :=
  decide ((c.pend.filter (fun p => p.eff.rowClass)).length ≤ 16)
    && decide ((c.pend.filter (fun p => p.eff.scalarClass)).length ≤ 32)

/-! ## Marks of long-latency producers (R39, R42, R45) -/

/-- A fresh tag, in program order. -/
def State.newTag (s : State) : Nat × State := (s.pkg.tag, { s with pkg := { s.pkg with tag := s.pkg.tag + 1 } })

/-- Whether a destination is marked at all: s0 is not (R33). -/
def Dest.real : Dest → Bool
  | .s r => r != 0
  | .k r => r != 0
  | .p r => r != 0
  | _ => true

/-- A long-latency producer issues with this destination: earlier results in flight to it are cancelled (R42), and it becomes
EMPTY at the end of the issue cycle. Marks of earlier producers stand: a value of theirs that comes first is delivered, and
then overwritten. -/
def State.mark (s : State) (tag : Nat) (d : Dest) : State :=
  if d.real then
    let s1 := s.modCur (fun c => { c with pend := (c.pend.filter (fun p => !p.eff.writesTo d)).map (fun p => { p with eff := p.eff.sparing d })
      ++ [{ rem := 1, eff := .mark d }] })
    { s1 with pkg := { s1.pkg with marks := { sid := s.cur.sid, tag := tag, dest := d } :: s1.pkg.marks } }
  else s

/-- A later write that lands in a register discards every delivery it waits for (R42). -/
def State.unmark (s : State) (sid : BitVec 40) (d : Dest) : State :=
  { s with pkg := { s.pkg with marks := s.pkg.marks.filter (fun m => !(m.sid == sid && m.dest == d)) } }

/-- A register waits for this delivery. -/
def State.marked (s : State) (sid : BitVec 40) (tag : Nat) (d : Dest) : Bool :=
  s.pkg.marks.any (fun m => m.sid == sid && m.tag == tag && m.dest == d)

/-! ## Streams: positions (R107, R111) -/

/-- The address of the next row of a stream's pattern (R107). -/
def Stream.addr (x : Stream) : Word :=
  x.base + x.i0.setWidth 64 * x.s0 + x.i1.setWidth 64 * x.s1 + x.i2.setWidth 64 * x.s2 + x.i3.setWidth 64 * x.s3

/-- A pattern with a count of 0 is exhausted from the start; any other when its last position has been taken: i3 has then
come to n3, which a saved slot keeps (R108, R111) (notes/assumptions 65: DEDUCED). -/
def Stream.exhausted (x : Stream) : Bool :=
  x.n0 == 0 || x.n1 == 0 || x.n2 == 0 || x.n3 == 0 || decide (x.n3.toNat ≤ x.i3.toNat)

/-- The next position: i0 fastest (R107). -/
def Stream.next (x : Stream) : Stream :=
  if x.i0 + 1 ≠ x.n0 then { x with i0 := x.i0 + 1 }
  else if x.i1 + 1 ≠ x.n1 then { x with i0 := 0, i1 := x.i1 + 1 }
  else if x.i2 + 1 ≠ x.n2 then { x with i0 := 0, i1 := 0, i2 := x.i2 + 1 }
  else { x with i0 := 0, i1 := 0, i2 := 0, i3 := x.i3 + 1 }

/-- The position before this one. -/
def Stream.prev (x : Stream) : Stream :=
  if x.i0 ≠ 0 then { x with i0 := x.i0 - 1 }
  else if x.i1 ≠ 0 then { x with i0 := x.n0 - 1, i1 := x.i1 - 1 }
  else if x.i2 ≠ 0 then { x with i0 := x.n0 - 1, i1 := x.n1 - 1, i2 := x.i2 - 1 }
  else { x with i0 := x.n0 - 1, i1 := x.n1 - 1, i2 := x.n2 - 1, i3 := x.i3 - 1 }

/-- The addresses of the coming positions, as many as given, as far as the pattern goes. -/
def Stream.coming (x : Stream) : Nat → List Word
  | 0 => []
  | n + 1 => if x.exhausted then [] else x.addr :: x.next.coming n

/-- The stream of the context that a tile is bound to, in one direction. -/
def Ctx.streamOf (c : Ctx) (out : Bool) (t : BitVec 4) : Option (Fin 4) :=
  (List.finRange 4).find? (fun k => (c.streams.get k).bound && (c.streams.get k).out == out && (c.streams.get k).tile == t)

/-- Change a stream. -/
def Ctx.modStream (c : Ctx) (k : Fin 4) (f : Stream → Stream) : Ctx :=
  { c with streams := c.streams.set k.val (f (c.streams.get k)) k.isLt }

/-! ## Requests (R256, R130) -/

/-- When something sent now arrives: a free number of wall cycles (04 R88: typical figures bind nothing), within 1 ms (R30)
(notes/assumptions 9: DEDUCED). -/
def State.dueSoon (s : State) : Nat × State :=
  let (n, s1) := s.draw
  (s.core.cyc + 1 + n % 1500000, s1)

/-- The same, by a wall cycle that does not depend on it. -/
def State.dueWithin (s : State) (limit : Nat) : Nat × State :=
  let (n, s1) := s.draw
  (s.core.cyc + n % max 1 (limit - s.core.cyc), s1)

/-- The places that a request touches. -/
def Req.locs (q : Req) : List Phys :=
  match q.op with
  | .vamo _ lanes _ _ _ _ => lanes.map (fun l => l.loc)
  | .ldrd x _ _ _ _ => x.blocks.map (fun b => b.2.1)
  | .strd x _ _ _ => x.blocks.map (fun b => b.2.1)
  | .event _ _ => []
  | .ack => []
  | _ => [q.loc]

/-- Whether the own scratchpad serves a request, outside every window: such accesses perform in issue order (R117)
(notes/assumptions 52: DEDUCED). -/
def State.ownServed (s : State) (q : Req) : Bool := q.locs.any (fun p => s.exposed p)

/-- The tile number of a location anywhere. -/
def Phys.tileNo (p : Phys) : BitVec 52 := p.pa >>> 14

/-- Whether an operation stores, whether it gets a reply or not. -/
def ReqOp.stores : ReqOp → Bool
  | .store _ => true
  | .strd _ _ _ _ => true
  | .note _ _ => true
  | .atomic _ _ _ _ _ => true
  | .vamo _ _ _ _ _ _ => true
  | .arrive _ _ => true
  | _ => false

/-- The core's own copies of tiles of other packages that an operation writes go, at its issue (R105). -/
def State.dropCopies (s : State) (l : List Phys) : State :=
  let hit := fun (r : Replica) => r.lease.isSome && l.any (fun p => decide (p.tt = 2) && p.tileNo == r.tile)
  { s with core := { s.core with replicas := s.core.replicas.filter (fun r => !hit r) } }

/-- The strands that live on the device, resident ones included. -/
def State.strands (s : State) : List Strand := s.cur.strand.toList ++ s.oth.strand.toList ++ s.pkg.strands

/-- The strand with an id. -/
def State.strandOf (s : State) (id : BitVec 40) : Option Strand := s.strands.find? (fun x => x.id == id)

/-- Whether the host-line cache holds a line of HOST as an access needs it: a store needs ownership (R385). -/
def State.hostHit (s : State) (p : Phys) (stores : Bool) : Bool :=
  p.c && s.pkg.hcache.any (fun x => x.1 == p.key0 / 64 && (x.2 || !stores))

/-- What the device sends to the host for a request (R383, R385): a snoop of each line in host bias, a request for each C = 1 HOST line
that the host-line cache does not hold as needed. -/
def State.askHostFor (s : State) (q : Req) : State :=
  let st := q.op.stores
  q.locs.foldl (fun (s : State) p =>
    if s.inHostBias p then s.emit (.cxl (if st then .biSnpInv else .biSnpCur) (p.key0 / 64))
    else if decide (p.tt = 3) && p.c && !s.hostHit p st then s.emit (.cxl (if st then .rdOwn else .rdShared) (p.key0 / 64))
    else s) s

/-- A request is sent for a strand; its due time is set here: the end of this cycle where the own scratchpad serves it, so that
it performs before the next bundle issues (R117); else within 1 ms (R30). One to a page in host bias snoops the host's copy (R383). -/
def State.send (s : State) (q : Req) : State :=
  let (soon, s1) := s.dueSoon
  let due := if s.ownServed q then s.core.cyc else soon
  let dom := q.dom <|> (s.strandOf q.sid).map (fun x => x.part ++ x.lnch)
  let s2 : State := { s1 with pkg := { s1.pkg with reqs := s1.pkg.reqs ++ [{ q with due := due, limit := s.core.cyc + 1500000, dom := dom }] } }
  ((if q.op.stores then s2.dropCopies q.locs else s2).askHostFor q).sendMessage q

/-- A store of a strand: performed at issue in the own scratchpad outside windows, posted elsewhere (R256). -/
def State.store (s : State) (sid : BitVec 40) (p : Phys) (va : Word) (bs : List Byte) (rel : Option (BitVec 2)) : State :=
  if s.exposed p then s.writeAt p bs
  else
    let (tag, s1) := s.newTag
    s1.send { sid := sid, tag := tag, op := .store bs, loc := p, va := va, due := 0, rel := rel }

/-- The location of a push: as checked before its bundle issued, else as translated now; none where that is refused
(notes/assumptions 66: DEDUCED). -/
def State.pushLoc (s : State) (x : Stream) : Option Phys :=
  match x.locs.find? (fun l => l.1 == x.addr) with
  | some l => some l.2
  | none => match s.check .rowStore 256 256 x.addr with
    | .ok p => some p
    | .error _ => none

/-- A row landing in an out-bound tile is pushed as a store of the strand at the next pattern address (R110, R112); a push past
the end is dropped and sets ovr (R111). -/
def State.pushStream (s : State) (t : BitVec 4) (r : BitVec 6) : State :=
  match s.cur.streamOf true t with
  | none => s
  | some k =>
    let x := s.cur.streams.get k
    if x.exhausted then s.modCur (fun c => c.modStream k (fun x => { x with ovr := true }))
    else
      let s1 := match s.pushLoc x with
        | some p =>
          let (tag, s1) := s.newTag
          s1.send { sid := s.cur.sid, tag := tag, op := .store (rowBytes (s.cur.rowReg t r).v), loc := p, va := x.addr, due := 0, push := some k }
        | none => s
      s1.modCur (fun c => c.modStream k (fun x => { x.next with done := x.done + 1, locs := x.locs.filter (fun l => l.1 != x.addr) }))

/-- Rows still to land in a tile: results in flight, and destinations that wait for their delivery. -/
def State.rowsComing (s : State) (t : BitVec 4) : Nat :=
  (s.cur.pend.map (fun p => match p.eff with
    | .write (.row t' _) _ _ _ => if t' == t then 1 else 0
    | .zeroTile t' _ => if t' == t then 64 else 0
    | _ => 0)).sum
  + (s.pkg.marks.filter (fun m => m.sid == s.cur.sid && (match m.dest with
    | .row t' _ => t' == t
    | _ => false))).length

/-- Rows that a stream has pushed and that are not yet performed (R110, R111). -/
def State.rowsPushed (s : State) (k : Fin 4) : Nat :=
  (s.pkg.reqs.filter (fun q => q.sid == s.cur.sid && q.push == some k && q.op != .ack)).length

/-! ## Privileged CSRs (R342-R345, R398, R414, R415, R421) -/

/-- Write a privileged CSR of the context; a read-only one ignores the write, reserved bits read 0 (R342). -/
def SCsr.write (c : SCsr) (n : BitVec 10) (v : Word) : SCsr :=
  match n with
  | 0x100 => { c with sstatus := v &&& 0x1F }
  | 0x101 => { c with stvec := v }
  | 0x102 => { c with scause := v &&& 0xFF }
  | 0x103 => { c with sepc := v }
  | 0x104 => { c with snpc := v }
  | 0x105 => { c with snnpc := v }
  | 0x106 => { c with stval := v }
  | 0x107 => { c with satp := v &&& 0x07FFFFFFFFFFFFFF }
  | 0x108 => { c with retrymax := v &&& 0xF }
  | 0x109 => { c with quantum := v &&& 0xFFFFFFFF }
  | 0x10A => { c with qcnt := v &&& 0xFFFFFFFF }
  | 0x10B => { c with pmask := v &&& 0xF }
  | 0x10F => { c with sscratch := v }
  | _ => c

/-- Write a CSR of the core: DBGCTL, ERRLOGP (head read-only, wrap only cleared), DLKP; a write of EINJ, RPLN or ARRF is an
event that comes next. -/
def State.writeCoreCsr (s : State) (n : BitVec 10) (v : Word) : State :=
  match n with
  | 0x10C => { s with core := { s.core with dbgctl := v &&& 0xFFFFFFFFFFFFFC03 } }
  | 0x10D => s.soon .einjWrite { v := v }
  | 0x10E => { s with core := { s.core with
      errlogp := (v &&& 0x000FFFFFFFFFF000) ||| (s.core.errlogp &&& v &&& 0x40) ||| (s.core.errlogp &&& 0x3F) } }
  | 0x113 => { s with core := { s.core with dlkp := v &&& 0xFFFFFFFFFFFFFFC0 } }
  | 0x114 => s.soon .rplnWrite { v := v }
  | 0x115 => s.soon .arrfWrite { v := v }
  | _ => s

/-- A CSR write lands (R185, R342). -/
def State.writeCsr (s : State) (n : BitVec 10) (v : Word) : State :=
  if n.toNat < 0x100 then s.modCur (fun c => { c with u := c.u.write n v })
  else (s.modCur (fun c => { c with sc := c.sc.write n v })).writeCoreCsr n v

/-! ## Landing (R43, R46, R47) -/

/-- The wall cycle of the coming issue cycle, in which what lands now is written (R43, R49): after a freeze that is due, its two
wall cycles later (R48). -/
def State.landCycle (s : State) : Nat := s.core.cyc + (if s.core.refreshed < s.core.isc / 1024 then 2 else 0)

/-- Rows of a tile pushed in their order, where it is bound out (R110). -/
def State.pushRows (s : State) (t : BitVec 4) (l : List (BitVec 6)) : State := l.foldl (fun s r => s.pushStream t r) s

/-- The rows that a TZERO clears. -/
def zeroedRows (keep : BitVec 64) : List (BitVec 6) :=
  ((List.range 64).filter (fun i => !keep.getLsbD i)).map (BitVec.ofNat 6)

/-- The attributes TMOV and PAPPLY.R carry over: efmt, afmt and bm of the source, sl kept (R208). -/
def movedAttr (dst src : BitVec 32) : BitVec 32 := (src &&& 0x2FF) ||| (dst &&& 0x100)

/-- What lands takes its effect on the current context. -/
def State.land (s : State) : Eff → State
  | .write d v sel poison =>
    let s1 := (s.modCur (fun c => c.put s.landCycle d v sel poison)).unmark s.cur.sid d
    match d with
    | .row t r => s1.pushStream t r
    | _ => s1
  | .zeroTile t keep =>
    let s1 := s.modCur (fun c => c.modTile t (fun q =>
      { q with
        rows := Vector.ofFn (fun i => if keep.getLsbD i.val then q.rows.get i else { v := 0, st := .full, wr := s.landCycle })
        live := false }))
    ({ s1 with pkg := { s1.pkg with marks := s1.pkg.marks.filter (fun m =>
        !(m.sid == s.cur.sid && (match m.dest with
          | .row t' r => t' == t && !keep.getLsbD r.toNat
          | _ => false))) } } : State).pushRows t (zeroedRows keep)
  | .mark d => s.modCur (fun c => c.empty s.landCycle d)
  | .csr n v => s.writeCsr n v
  | .flags f => s.modCur (fun c => { c with u := { c.u with ffl := c.u.ffl ||| f.setWidth 64 } })
  | .gen v => s.modCur (fun c => { c with u := { c.u with gen := v } })
  | .attr t v bm => s.modCur (fun c => c.modTile t (fun q =>
      let started := v.getLsbD 8 && !q.attr.getLsbD 8
      { q with
        attr := v &&& 0x3FF
        rows := if started then q.rows.map (fun x => { x with wr := s.landCycle }) else q.rows
        bm := bm.getD q.bm }))
  | .moved t v bm => s.modCur (fun c => c.modTile t (fun q =>
      { q with attr := movedAttr q.attr v, bm := bm.getD q.bm }))
  | .tsw t clear v => s.modCur (fun c => c.modTile t (fun q => { q with tsw := if clear then 0 else (q.tsw ||| v) &&& 0x1F }))

/-- A CSR write, which is applied before the flags of its own issue cycle (R83). -/
def Eff.isCsr : Eff → Bool
  | .csr _ _ => true
  | _ => false

/-- An advance of the generator, which a write of SRS in its own issue cycle overrides (R71: the state is the value written). -/
def Eff.isGen : Eff → Bool
  | .gen _ => true
  | _ => false

/-- One issue cycle passes for the results in flight of the current context (R43): those due land, in program order, the
generator's advances and then CSR writes first. -/
def State.tick (s : State) : State :=
  let all := s.cur.pend.filter (fun p => decide (p.rem ≤ 1))
  let due := all.filter (fun p => p.eff.isGen) ++ all.filter (fun p => p.eff.isCsr) ++ all.filter (fun p => !p.eff.isGen && !p.eff.isCsr)
  let later := (s.cur.pend.filter (fun p => !decide (p.rem ≤ 1))).map (fun p => { p with rem := p.rem - 1 })
  due.foldl (fun s p => s.land p.eff) (s.modCur (fun c => { c with pend := later }))

/-- The generator's state as the next word of the bundle draws from it: after the draws of the words before it (R71, R115). -/
def Ctx.genNow (c : Ctx) : Word :=
  c.pend.foldl (fun g p => match p.eff with
    | .gen v => v
    | _ => g) c.u.gen

/-- An issue cycle ends: the counters advance and what is due lands; the V pipe and the banks come free (R43, R44, R90); QCNT
counts the issue cycles of U (R355), in its 32 bits (R342). Results of the context that is switched to do not age before it
issues (R13, R52), nor those of one that is being saved (R394). -/
def State.cycleEnd (s : State) : State :=
  let counts := s.cur.level == .u && s.cur.strand.isSome
  let s1 : State := { s with
    core := { s.core with
      vbusy := s.core.vbusy - 1
      banks := (s.core.banks.filter (fun b => decide (1 < b.2))).map (fun b => (b.1, b.2 - 1))
      isc := s.core.isc + 1
      cyc := s.core.cyc + 1
      switching := s.core.switching - 1 }
    choice := s.choice + 1 }
  let s2 := if s.core.switching = 0 && s.cur.saving.isNone then s1.tick else s1
  if counts then s2.modCur (fun c => { c with sc := { c.sc with qcnt := (c.sc.qcnt + 1) &&& 0xFFFFFFFF } }) else s2

/-- A refresh freeze that is due is taken (R48). -/
def State.frozen (s : State) : State :=
  if s.core.refreshed < s.core.isc / 1024 then
    { s with core := { s.core with cyc := s.core.cyc + 2, refreshed := s.core.refreshed + 1 } }
  else s

/-- Issue cycles pass until nothing is in flight (R389 in S, R392): at most 16. -/
def State.drain (s : State) : State :=
  (List.range 16).foldl (fun s _ => if s.cur.pend.isEmpty then s else s.frozen.cycleEnd) s

/-! ## Deliveries (R15, R42, R390, R395) -/

/-- A delivery is queued. -/
def State.deliver (s : State) (x : Dlv) : State := { s with pkg := { s.pkg with dlvs := s.pkg.dlvs ++ [x] } }

/-- A scalar result of the current strand that arrives at wall cycle `due`. -/
def State.deliverS (s : State) (tag : Nat) (d : BitVec 5) (v : Word) (due : Due) : State :=
  s.deliver { sid := s.cur.sid, tag := tag, dest := .s d, v := v.setWidth 2048, sel := BitVec.allOnes 256, poison := false, due := due }

/-- A delivery has come up: a wall cycle has passed, or an issue cycle of the core. -/
def State.isDue (s : State) : Due → Bool
  | .issue n => decide (n ≤ s.core.isc)
  | .wall n => decide (n ≤ s.core.cyc)

end Sys2Proof.Machine
end

