-- ==== Sys2Proof/Machine/Image.lean ====
section
/-! DEFINITION. The continuation record and the register image: writing and reading them (01 R9, 02 R53-R57, 04 R108,
10 R250). -/

namespace Sys2Proof.Machine

/-! ## Codes -/

/-- The code of a register state (R55). -/
def RegState.code : RegState → Nat
  | .full => 0
  | .empty => 1
  | .expired => 2
  | .poisoned => 3

/-- The register state of a code. -/
def RegState.ofCode (n : Nat) : RegState :=
  match n with
  | 0 => .full
  | 1 => .empty
  | 2 => .expired
  | _ => .poisoned

/-- The code of a strand state (R10). -/
def StState.code : StState → Nat
  | .new => 0
  | .ready => 1
  | .running => 2
  | .parked => 3
  | .reply => 4
  | .done => 5
  | .faulted => 6
  | .exited => 7

/-- The strand state of a code; codes 8-15 are never written by the device. -/
def StState.ofCode (n : Nat) : StState :=
  match n with
  | 0 => .new
  | 1 => .ready
  | 2 => .running
  | 3 => .parked
  | 4 => .reply
  | 5 => .done
  | 6 => .faulted
  | _ => .exited

/-- A list of 2-bit codes packed, first lowest. -/
def packCodes : List Nat → Nat
  | [] => 0
  | x :: t => x % 4 + 4 * packCodes t

/-! ## The record (R9) -/

/-- The difference of two bundle addresses in words (R9). -/
def wordOff (x pc : Word) : BitVec 32 := ((x - pc).sshiftRight 2).setWidth 32

/-- The word at +40 of a record (R9): state, priority, version, retries, kind, flags, deferred cause, why. -/
def Strand.flagWord (st : Strand) : Nat :=
  st.state.code + st.prio.toNat * 2 ^ 4 + st.ver.toNat * 2 ^ 6 + st.retry.toNat * 2 ^ 8
    + bit st.isTask * 2 ^ 16 + bit st.ord * 2 ^ 17 + bit st.stepping * 2 ^ 18 + bit st.dfp * 2 ^ 19
    + st.dcause.toNat * 2 ^ 24 + st.why.toNat * 2 ^ 32

/-- The 64 bytes of a record of a strand with its fetch state and live-tile mask. -/
def recordBytes (st : Strand) (pc npc nnpc : Word) (live : Nat) : List Byte :=
  let w4 : Nat := st.id.toNat + st.parCore.toNat * 2 ^ 40 + st.parSeq.toNat * 2 ^ 50 + bit st.root * 2 ^ 63
  leBytes 8 pc.toNat ++ leBytes 4 (wordOff npc pc).toNat ++ leBytes 4 (wordOff nnpc pc).toNat
    ++ leBytes 8 st.ts.toNat ++ leBytes 8 ((seg st.img 8 48).toNat + live * 2 ^ 48)
    ++ leBytes 8 w4 ++ leBytes 8 st.flagWord ++ leBytes 8 st.rset.toNat ++ leBytes 8 st.wset.toNat

/-- The record's words. -/
structure RecView where
  pc : Word
  npc : Word
  nnpc : Word
  ts : Word
  img : Word
  live : BitVec 16
  w4 : Word
  w5 : Word
  rset : Word
  wset : Word
  deriving DecidableEq, Repr

/-- The address that an offset in words from the pc names. -/
def fromOff (pc : Word) (o : BitVec 32) : Word := pc + (o.signExtend 64 <<< 2)

/-- A record read from its 64 bytes. -/
def recView (b : List Byte) : RecView :=
  let pc := wordAt b 0
  { pc := pc
    npc := fromOff pc (half32At b 8)
    nnpc := fromOff pc (half32At b 12)
    ts := wordAt b 16
    img := sext64 56 ((wordAt b 24 &&& 0x0000FFFFFFFFFFFF) <<< 8)
    live := seg (wordAt b 24) 48 16
    w4 := wordAt b 32
    w5 := wordAt b 40
    rset := wordAt b 48
    wset := wordAt b 56 }

/-- The bytes of a template: its fixed part and the slots of its live tiles (R54, R57). -/
def templateSize (b : List Byte) : Nat :=
  6144 + ((List.range 16).filter (fun i => (wordAt b 8).getLsbD i)).foldl
    (fun a i => a + (if (half32At b (1344 + 8 * i)).getLsbD 9 then 20736 else 16640)) 0

/-! ## Writing an image (R54-R56) -/

/-- The live-tile mask of a context. -/
def Ctx.liveMask (c : Ctx) : Nat := packLanes 1 ((List.finRange 16).map (fun i => BitVec.ofBool (c.t.get i).live))

/-- The bound-stream mask of a context. -/
def Ctx.boundMask (c : Ctx) : Nat := packLanes 1 ((List.finRange 4).map (fun i => BitVec.ofBool (c.streams.get i).bound))

/-- A tile slot's size (R56). -/
def Tile.slotSize (q : Tile) : Nat := if q.attr.getLsbD 9 then 20736 else 16640

/-- Bits per row of an element bitmap (R37); 0 for a reserved format. -/
def bmBits (efmt : BitVec 4) : Nat :=
  match efmt with
  | 0 => 64
  | 1 => 128
  | 2 => 128
  | 3 => 32
  | 4 => 64
  | 5 => 128
  | 6 => 256
  | 7 => 32
  | 8 => 256
  | 9 => 256
  | 10 => 512
  | 11 => 512
  | 12 => 128
  | 13 => 256
  | _ => 0

/-- The bitmap's 4,096 bytes, packed from row 0 as R37 sizes the rows (R56). -/
def Tile.bmBytes (q : Tile) : List Byte :=
  let n := bmBits (seg q.attr 0 4)
  leBytes 4096 (q.bm.toList.reverse.foldl (fun acc b => acc * 2 ^ n + b.toNat % 2 ^ n) 0)

/-- The bitmap read back. -/
def bmOfBytes (efmt : BitVec 4) (bs : List Byte) : Vector (BitVec 512) 64 :=
  let n := bmBits efmt
  let v := ofBytes bs
  Vector.ofFn (fun i => BitVec.ofNat 512 (v / 2 ^ (n * i.val) % 2 ^ n))

/-- The state under which a row is saved: FULL rows of a short-lived tile as EXPIRED (R14, R39), but for a tile that a call of the matrix
unit has bound, which is saved unchanged (R250). -/
def Tile.savedState (q : Tile) (bound : Bool) (x : RowReg) : RegState :=
  if q.attr.getLsbD 8 && !bound && x.st == .full then .expired else x.st

/-- A tile slot (R56). -/
def Tile.slotBytes (q : Tile) (bound : Bool) : List Byte :=
  (q.rows.toList.map (fun x => rowBytes x.v)).flatten
    ++ leBytes 16 (packCodes (q.rows.toList.map (fun x => (q.savedState bound x).code)))
    ++ List.replicate 240 0
    ++ (if q.attr.getLsbD 9 then q.bmBytes else [])

/-- Whether a buffered row can be saved: no fault, no poison, which its slot has no place for. -/
def BufRow.plain : BufRow → Bool
  | .data _ poison _ _ => !poison
  | .fault _ _ => false

/-- A stream as it is saved: up to eight buffered rows; the position goes back over the rows after them, whose fetches are
taken again (notes/assumptions 65: DEDUCED). -/
def Stream.rewound (x : Stream) : Stream :=
  let keep := (x.buf.takeWhile BufRow.plain).take 8
  let n := (x.buf.filter (fun b => match b with
    | .data _ _ _ _ => true
    | .fault _ _ => false)).length - keep.length
  { (List.range n).foldl (fun y _ => y.prev) x with buf := keep }

/-- A stream slot (R56, R108). -/
def Stream.slotBytes (x0 : Stream) : List Byte :=
  let x := x0.rewound
  let good := x.buf
  leBytes 8 x.base.toNat
    ++ leBytes 2 x.n0.toNat ++ leBytes 2 x.n1.toNat ++ leBytes 2 x.n2.toNat ++ leBytes 2 x.n3.toNat
    ++ leBytes 8 x.s0.toNat ++ leBytes 8 x.s1.toNat ++ leBytes 8 x.s2.toNat ++ leBytes 8 x.s3.toNat
    ++ leBytes 2 x.i0.toNat ++ leBytes 2 x.i1.toNat ++ leBytes 2 x.i2.toNat ++ leBytes 2 x.i3.toNat
    ++ leBytes 8 (bit x.out + x.tile.toNat * 2 + bit x.ovr * 32 + bit x.bound * 64 + good.length * 256
        + x.done.toNat * 2 ^ 32)
    ++ List.replicate 192 0
    ++ ((good ++ List.replicate (8 - good.length) (BufRow.data 0 false 0 .u)).map (fun (b : BufRow) => match b with
        | .data v _ _ _ => rowBytes v
        | .fault _ _ => rowBytes 0)).flatten

/-- The matrix save area (R250). -/
def MCall.saveBytes (m : MCall) : List Byte :=
  let w0 := m.idx.toNat + m.step * 2 ^ 8 + 2 ^ 20 + bit m.zr * 2 ^ 21 + bit m.aAt.isSome * 2 ^ 22
    + bit m.bAt.isSome * 2 ^ 23 + bit m.ab * 2 ^ 24 + bit m.bb * 2 ^ 25 + bit m.dec * 2 ^ 26 + bit m.sp * 2 ^ 27
    + m.kdone * 2 ^ 28
  let staging := fun (x : Option (Nat × BitVec 16 × BitVec 16)) => match x with
    | none => 0
    | some (st, n, k) => st + n.toNat * 2 ^ 16 + k.toNat * 2 ^ 32
  leBytes 8 w0 ++ leBytes 8 (m.status ||| (m.flags.setWidth 64 <<< 16)).toNat ++ leBytes 8 m.obj.toNat
    ++ leBytes 8 (m.fl.toNat + m.flags.toNat * 2 ^ 8 + m.icore.toNat * 2 ^ 12)
    ++ (m.cnt.toList.map (fun x => leBytes 2 x.toNat)).flatten
    ++ leBytes 8 (staging m.aAt) ++ leBytes 8 (staging m.bAt) ++ List.replicate 8 0
    ++ (m.pos.toList.map (fun (n, k) => leBytes 2 n.toNat ++ leBytes 2 k.toNat)).flatten
    ++ (m.ma.toList.map (fun x => leBytes 8 x.toNat)).flatten
    ++ (m.order ++ List.replicate (64 - m.order.length) 0).map (BitVec.ofNat 8)
    ++ List.replicate 32 0

/-- The kind code of a destination (R40, R53). -/
def Dest.kind : Dest → Nat
  | .s _ => 0
  | .ma _ => 1
  | .row _ _ => 2
  | .k _ => 3
  | .p _ => 4

/-- The register number of a destination. -/
def Dest.num : Dest → Nat
  | .s r => r.toNat
  | .ma r => r.toNat
  | .row t _ => t.toNat
  | .k r => r.toNat
  | .p r => r.toNat

/-- The row of a destination, 0 but for a tile row. -/
def Dest.rowNo : Dest → Nat
  | .row _ r => r.toNat
  | _ => 0

/-- The destination of a kind, a number and a row. -/
def Dest.of (kind reg row : Nat) : Dest :=
  match kind with
  | 0 => .s (BitVec.ofNat 5 reg)
  | 1 => .ma (BitVec.ofNat 3 reg)
  | 2 => .row (BitVec.ofNat 4 reg) (BitVec.ofNat 6 row)
  | 3 => .k (BitVec.ofNat 3 reg)
  | _ => .p (BitVec.ofNat 3 reg)

/-- Whether a destination is scalar-class (R51). -/
def Dest.scalarClass : Dest → Bool
  | .s _ => true
  | .ma _ => true
  | _ => false

/-- The results in flight that land before one with `rem` cycles left, of which `seen` precede it in program order and `after`
follow it, in the order in which they land (R46, R52). -/
def landBefore (seen after : List Pend) (rem : Nat) : List Pend :=
  ((List.range rem).map (fun r => (seen ++ after).filter (fun p => p.rem == r))).flatten ++ seen.filter (fun p => p.rem == rem)

/-- The value a destination will hold when the given results have landed in their order (R47). -/
def valueAfter (c : Ctx) (l : List Pend) (d : Dest) : Row :=
  l.foldl (fun old p => match p.eff with
    | .write d' v sel _ => if d' == d then blend old v sel else old
    | _ => old) (c.destVal d)

/-- The snapshot as (remaining cycles, destination, whole value), in program order (R50); a masked result is recorded
merged with the value its register will hold at its landing. -/
def snapEntries (c : Ctx) : List Pend → List Pend → List (Nat × Dest × Row)
  | _, [] => []
  | seen, p :: t =>
    match p.eff with
    | .write d v sel _ =>
      (p.rem, d, blend (valueAfter c (landBefore seen t p.rem) d) v sel) :: snapEntries c (seen ++ [p]) t
    | _ => snapEntries c (seen ++ [p]) t

/-- The slots of snapshot entries: each takes the next free one of its class. -/
def snapSlots : Nat → Nat → List (Nat × Dest × Row) → List (Nat × Dest × Row × Nat)
  | _, _, [] => []
  | a, b, (r, d, v) :: t =>
    if d.scalarClass then (r, d, v, a) :: snapSlots (a + 1) b t else (r, d, v, b) :: snapSlots a (b + 1) t

/-- The snapshot area (R53). -/
def snapBytes (c : Ctx) (pend : List Pend) : List Byte :=
  let es := (snapSlots 0 0 (snapEntries c [] pend)).take 48
  let ds := es.map (fun (r, d, _, sl) =>
    leBytes 4 (r % 32 + d.kind * 2 ^ 5 + d.num * 2 ^ 8 + d.rowNo * 2 ^ 13 + sl * 2 ^ 19 + 2 ^ 31))
  let sv := (es.filter (fun (_, d, _, _) => d.scalarClass)).map (fun (_, _, v, _) => leBytes 8 v.toNat)
  let rv := (es.filter (fun (_, d, _, _) => !d.scalarClass)).map (fun (_, _, v, _) => rowBytes v)
  leBytes 8 es.length ++ List.replicate 56 0
    ++ ds.flatten ++ List.replicate (192 - 4 * es.length) 0
    ++ (sv.flatten ++ List.replicate 256 0).take 256
    ++ (rv.flatten ++ List.replicate 4096 0).take 4096

/-- The stores, atomics and posted writes of a strand still without acknowledgement that a release at scope `sc` waits for: below pod
scope those with a home in the package (R130). -/
def State.unacked (s : State) (sid : BitVec 40) (sc : BitVec 2) : Nat :=
  (s.pkg.reqs.filter (fun q => q.sid == sid && (q.op.stores || q.op == .ack)
    && (sc == 3 || s.withinPackage q.loc || q.locs.any s.withinPackage))).length

/-- The matrix call of a strand that runs or is queued on the core. -/
def State.callOf (s : State) (sid : BitVec 40) : Option MCall := s.core.calls.find? (fun m => m.sid == sid && !m.ended)

/-- The context with the accumulator tile's rows holding their accumulated values (R250). -/
def Ctx.withAcc (c : Ctx) (m : MCall) : Ctx :=
  match m.accTile with
  | none => c
  | some t => c.modTile t (fun q => { q with rows := Vector.ofFn (fun (i : Fin 64) =>
      { q.rows.get i with v := BitVec.ofNat 2048 (packLanes 32 (m.acc.get i).v.toList) }) })

/-- The parts of an image with their offsets (R54). `pend` is the snapshot to record. -/
def State.imageParts (s : State) (c0 : Ctx) (pend : List Pend) : List (Nat × List Byte) :=
  let c := match s.callOf c0.sid with
    | some m => c0.withAcc m
    | none => c0
  let live := (List.finRange 16).filter (fun i => (c.t.get i).live)
  let bound := (List.finRange 4).filter (fun i => (c.streams.get i).bound)
  let call := s.callOf c.sid
  let tiles := live.map (fun i => (c.t.get i).slotBytes (call.any (fun m => m.named.elem (BitVec.ofNat 4 i.val))))
  let streams := bound.map (fun i => (c.streams.get i).slotBytes)
  let matrix := match call with
    | none => []
    | some m => m.saveBytes
  let size := 6144 + (tiles.map List.length).foldl (· + ·) 0 + 2304 * bound.length + matrix.length
  let h1 := c.liveMask + c.boundMask * 2 ^ 16 + bit call.isSome * 2 ^ 20 + bit (!pend.isEmpty) * 2 ^ 21
  let u := c.u
  let csrs := [u.rm, u.ffl, u.repc, u.vap, u.wto, u.utvec, u.ucause, u.uepc, u.unpc, u.unnpc, u.utval, u.srs, u.gen]
  let header := leBytes 8 (3 + size * 2 ^ 32) ++ leBytes 8 h1
    ++ leBytes 8 (packCodes (c.s.toList.map (fun x => x.st.code)))
    ++ leBytes 8 (packCodes (c.p.toList.map (fun x => if x.full then 0 else 1)))
    ++ (csrs.map (fun x => leBytes 8 x.toNat)).flatten
    ++ ([0, 1, 2, 3].map (fun sc => leBytes 2 (s.unacked c.sid sc))).flatten ++ List.replicate 112 0
  let fixed :=
    [ (0, header)
    , (256, ((List.range 32).map (fun r => leBytes 8 (c.sv (BitVec.ofNat 5 r)).toNat)).flatten)
    , (512, ((List.range 8).map (fun k => leBytes 32 (c.kv (BitVec.ofNat 3 k)).toNat)).flatten)
    , (768, ((List.range 8).map (fun p => leBytes 64 (c.pv (BitVec.ofNat 3 p)).v.toNat)).flatten)
    , (1280, (c.ma.toList.map (fun x => leBytes 8 x.toNat)).flatten ++
        (c.t.toList.map (fun q => leBytes 4 q.attr.toNat ++ leBytes 4 q.tsw.toNat)).flatten)
    , (1472, snapBytes c pend ++ List.replicate 64 0) ]
  let var := (tiles ++ streams ++ (if call.isSome then [matrix] else [])).foldl
    (fun (acc : Nat × List (Nat × List Byte)) b => (acc.1 + b.length, acc.2 ++ [(acc.1, b)])) (6144, [])
  fixed ++ var.2

/-- The size of the image of a context. -/
def State.imageSize (s : State) (c : Ctx) (pend : List Pend) : Nat :=
  (s.imageParts c pend).foldl (fun m (o, b) => max m (o + b.length)) 0

/-- Write the image of a context at its strand's image address, through the context's address space. -/
def State.writeImage (s : State) (c : Ctx) (img : Word) (pend : List Pend) : State :=
  (s.imageParts c pend).foldl (fun s (o, b) => s.vwrite c.sc.satp (img + w64 o) b) s

/-! ## Reading an image (R54-R57) -/

/-- A tile slot read back; `dflt` is the state a part marked EMPTY loads as. -/
def tileOfSlot (now : Nat) (template : Bool) (attr tsw : BitVec 32) (b : List Byte) : Tile :=
  let codes := ofBytes ((b.drop 16384).take 16)
  let stOf := fun (i : Nat) =>
    let st := RegState.ofCode (codes / 4 ^ i % 4)
    if template && st == .empty then .expired else st
  { rows := Vector.ofFn (fun i => { v := rowOf ((b.drop (256 * i.val)).take 256), st := stOf i.val, wr := now })
    live := true
    attr := attr
    tsw := tsw
    bm := if attr.getLsbD 9 then bmOfBytes (seg attr 0 4) ((b.drop 16640).take 4096) else Vector.replicate 64 0 }

/-- The addresses of the `n` rows of a pattern that come before its position, the first first. -/
def Stream.behind (x : Stream) (n : Nat) : List Word := ((List.range n).foldl (fun y _ => y.prev) x).coming n

/-- A stream slot read back, its buffered rows at the addresses before its position; what the strand has accessed before `tag` comes
before its reads (R112). -/
def streamOfSlot (now tag : Nat) (b : List Byte) : Stream :=
  let h := fun o => BitVec.ofNat 16 (ofBytes ((b.drop o).take 2))
  let ctl := wordAt b 56
  let n := min 8 (seg ctl 8 4).toNat
  let x : Stream :=
  { bound := ctl.getLsbD 6
    out := ctl.getLsbD 0
    ovr := ctl.getLsbD 5
    tile := seg ctl 1 4
    base := wordAt b 0
    n0 := h 8
    n1 := h 10
    n2 := h 12
    n3 := h 14
    s0 := wordAt b 16
    s1 := wordAt b 24
    s2 := wordAt b 32
    s3 := wordAt b 40
    i0 := h 48
    i1 := h 50
    i2 := h 52
    i3 := h 54
    done := seg ctl 32 32
    due := now
    tag := tag }
  let at_ := x.behind n
  { x with buf := (List.range n).map (fun i => .data (rowOf ((b.drop (256 + 256 * i)).take 256)) false (at_.getD i 0) .u) }

/-- The snapshot read back (R53). A descriptor has no place for poison, so that the result of an exposed load that carried some
lands FULL (notes/assumptions 82: DESIGN CHOICE). -/
def snapOf (b : List Byte) : List Pend :=
  ((List.range (min 48 (ofBytes (b.take 1) % 64))).map (fun i =>
    let d := (half32At b (64 + 4 * i)).toNat
    let dest := Dest.of (d / 2 ^ 5 % 8) (d / 2 ^ 8 % 32) (d / 2 ^ 13 % 64)
    let sl := d / 2 ^ 19 % 32
    let v : Row := if dest.scalarClass then (wordAt b (256 + 8 * sl)).setWidth 2048
      else rowOf ((b.drop (512 + 256 * sl)).take 256)
    (d / 2 ^ 31, ({ rem := d % 32, eff := .write dest v (BitVec.allOnes 256) false } : Pend)))).filterMap
      (fun (v, p) => if v = 1 then some p else none)

/-- The registers of a context from an image's bytes: scalars, masks, permutations, matrix arguments, tiles, saved user
CSRs and generator, streams, snapshot (left in `snap`). A template loads EMPTY parts as EXPIRED and no snapshot, stream
or matrix area (R57); a permutation register, which has no EXPIRED state, as FULL; and a tile with bm = 1 that the image does not
hold gets a bitmap of zeros (notes/assumptions 78: DESIGN CHOICE). -/
def State.ctxOfImage (s : State) (c : Ctx) (img : Word) (template : Bool) : Ctx :=
  let satp := c.sc.satp
  let rd := fun (o n : Nat) => (s.vread satp (img + w64 o) n).getD (List.replicate n 0)
  let f := rd 0 6144
  let live := ofBytes ((f.drop 8).take 2)
  let bound := if template then 0 else ofBytes ((f.drop 10).take 1) % 16
  let sst := ofBytes ((f.drop 16).take 8)
  let pst := ofBytes ((f.drop 24).take 2)
  let cs := fun i => wordAt f (32 + 8 * i)
  let attrAt := fun (i : Nat) => half32At f (1344 + 8 * i)
  let sizeAt := fun (i : Nat) => if (attrAt i).getLsbD 9 then 20736 else 16640
  let offAt := fun (i : Nat) => 6144 + ((List.range i).filter (fun j => live.testBit j)).foldl (fun a j => a + sizeAt j) 0
  let tilesEnd := offAt 16
  let stOf := fun (i : Nat) =>
    let st := RegState.ofCode (sst / 4 ^ i % 4)
    if template && st == .empty then .expired else st
  { c with
    s := Vector.ofFn (fun i => if i.val = 0 then {} else { v := wordAt f (256 + 8 * i.val), st := stOf i.val })
    k := Vector.ofFn (fun i => BitVec.ofNat 256 (ofBytes ((f.drop (512 + 32 * i.val)).take 32)))
    p := Vector.ofFn (fun i =>
      { v := BitVec.ofNat 352 (ofBytes ((f.drop (768 + 64 * i.val)).take 44))
        full := i.val = 0 || template || pst / 4 ^ i.val % 4 = 0 })
    ma := Vector.ofFn (fun i => wordAt f (1280 + 8 * i.val))
    t := Vector.ofFn (fun i =>
      if live.testBit i.val then
        tileOfSlot s.core.cyc template (attrAt i.val &&& 0x3FF) (half32At f (1348 + 8 * i.val) &&& 0x1F)
          (rd (offAt i.val) (sizeAt i.val))
      else
        { rows := Vector.replicate 64 { wr := s.core.cyc }
          attr := attrAt i.val &&& 0x3FF
          tsw := half32At f (1348 + 8 * i.val) &&& 0x1F })
    u := { rm := ucsrMask 6 (cs 0), ffl := ucsrMask 7 (cs 1), repc := ucsrMask 8 (cs 2), vap := ucsrMask 9 (cs 3),
           wto := ucsrMask 10 (cs 4), utvec := ucsrMask 11 (cs 5), ucause := ucsrMask 12 (cs 6),
           uepc := ucsrMask 13 (cs 7), unpc := ucsrMask 14 (cs 8), unnpc := ucsrMask 15 (cs 9),
           utval := cs 10, srs := cs 11, gen := cs 12 }
    streams := Vector.ofFn (fun i =>
      if bound.testBit i.val then
        streamOfSlot s.core.cyc s.pkg.tag
          (rd (tilesEnd + 2304 * ((List.range i.val).filter (fun j => bound.testBit j)).length) 2304)
      else {})
    pend := []
    snap := if template || !(wordAt f 8).getLsbD 21 then [] else snapOf ((f.drop 1472).take 4608) }

/-- Where the matrix save area of an image stands, if it is present (R54, R55). -/
def State.matrixArea (s : State) (satp img : Word) : Option (List Byte) :=
  let rd := fun (o n : Nat) => (s.vread satp (img + w64 o) n).getD (List.replicate n 0)
  let h := wordAt (rd 8 8) 0
  if h.getLsbD 20 then some (rd (ofBytes (rd 4 4) - 256) 256) else none

end Sys2Proof.Machine
end

