-- ==== Sys2Proof/Machine/Home.lean ====
section
/-! DEFINITION. Requests at their homes: orderings between a strand's requests, device registers, peer apertures, atomics,
barrier and completion objects, event bits, windows and leases, and the performance of a request (04 R92-R106, 05 R117-R133,
11 R255-R270, 12 R275-R282, 20 R374-R377, R385, R386, 23 R405, R410, R413, R414). -/

namespace Sys2Proof.Machine

/-! ## Pod time and the error log (R1, R409, R413, R414) -/

/-- The 64 bytes of an entry. -/
def ErrEntry.bytes (e : ErrEntry) : List Byte :=
  leBytes 1 e.arr.toNat ++ leBytes 1 e.cls.toNat ++ leBytes 2 e.syn.toNat ++ leBytes 4 e.count.toNat
    ++ leBytes 8 e.addr.toNat ++ leBytes 8 e.sid.toNat ++ leBytes 4 e.lnch.toNat ++ leBytes 4 e.dev.toNat
    ++ leBytes 8 e.first.toNat ++ leBytes 8 e.last.toNat ++ List.replicate 16 0

/-- An error is logged: a repeat at the same array and address adds to the count; the last 16 entries are kept; with a
base in ERRLOGP the entry goes into the ring. The second result is the entry's address in the ring, or 0. -/
def State.logError (s : State) (arr cls : BitVec 8) (syn : BitVec 16) (addr : Word) (dev : BitVec 17) : State × Word :=
  let base : Nat := (seg s.core.errlogp 12 40).toNat * 4096
  let head := seg s.core.errlogp 0 6
  let ring := if base = 0 then 0 else base + 64 * head.toNat
  let now := s.ptime
  let e : ErrEntry :=
    match s.core.errs.find? (fun e => e.arr == arr && e.addr == addr) with
    | some e => { e with cls := cls, syn := syn, count := e.count + 1, last := now, ringAt := w64 ring }
    | none =>
      let who := s.iss.actor.getD ((s.cur.strand.map (fun x => (x.id, x.lnch))).getD (0, 0))
      { arr := arr, cls := cls, syn := syn, count := 1, addr := addr, sid := who.1, lnch := who.2, dev := dev
        first := now, last := now, ringAt := w64 ring }
  let errs := (e :: s.core.errs.filter (fun x => !(x.arr == arr && x.addr == addr))).take 16
  let s1 : State := { s with core := { s.core with errs := errs } }
  if base = 0 then (s1, 0)
  else
    let s2 := s1.writeAt { tt := 1, pa := BitVec.ofNat 52 ring } e.bytes
    let p0 := setSeg s2.core.errlogp 0 (head + 1)
    ({ s2 with core := { s2.core with errlogp := if head = 63 then setSeg p0 6 1#1 else p0 } }, w64 ring)

/-! ## Orderings between requests of a strand (R117-R121, R130, R132, R133, R272) -/

/-- Reads and atomics. -/
def ReqOp.isRead : ReqOp → Bool
  | .load _ _ => true
  | .atomic _ _ _ _ _ => true
  | .vamo _ _ _ _ _ _ => true
  | .arrive _ _ => true
  | .ldrd _ _ _ _ _ => true
  | _ => false

/-- Stores and posted writes, those whose acknowledgement is on its way included. -/
def ReqOp.isWrite : ReqOp → Bool
  | .store _ => true
  | .strd _ _ _ _ => true
  | .note _ _ => true
  | .ack => true
  | .event _ _ => true
  | _ => false

/-- The virtual addresses that a request touches, with lengths: each block of a described row, each lane of a VAMO. -/
def Req.vas (q : Req) : List (Word × Nat) :=
  match q.op with
  | .ldrd x _ _ _ _ => x.blocks.map (fun b => (q.va + w64 (64 * b.1), 64))
  | .strd x _ _ _ => x.blocks.map (fun b => (q.va + w64 (64 * b.1), 64))
  | .vamo _ lanes _ _ _ _ => lanes.map (fun l => (l.va, 8))
  | .load n _ => [(q.va, n)]
  | .store bs => [(q.va, bs.length)]
  | _ => [(q.va, 1)]

/-- Whether a release at scope `sc` waits for a request: every load; of stores, atomics and posted writes, below pod scope, those
whose home lies within the package (R119, R130). -/
def State.awaited (s : State) (sc : BitVec 2) (q : Req) : Bool :=
  match q.op with
  | .load _ _ => true
  | .ldrd _ _ _ _ _ => true
  | .vamo _ lanes _ _ _ _ => sc == 3 || lanes.any (fun l => s.withinPackage l.loc)
  | _ => sc == 3 || s.withinPackage q.loc

/-- Lease time (R103). -/
def State.leaseNow (s : State) : BitVec 32 := BitVec.ofNat 32 (s.ptime.toNat / 64)

/-- Whether a lease has passed, as the home sees it (R103). -/
def leasePassed (now e : BitVec 32) : Bool := decide ((now - e).toNat < 2 ^ 31)

/-- Whether its holder treats a lease as valid (R103). -/
def leaseValid (now e : BitVec 32) : Bool :=
  let d := ((e - 1) - now).toNat
  decide (1 ≤ d) && decide (d < 2 ^ 31)

/-- The tile number of an offset in the own scratchpad. -/
def State.ownTile (s : State) (t : BitVec 21) : BitVec 52 :=
  ((0 : BitVec 4) ++ s.core.device ++ s.core.core ++ t) >>> 14

/-- Whether a lease that the home has granted has not passed (R103). -/
def State.leaseOut (s : State) (l : Lease) : Bool := !l.gone && !leasePassed s.leaseNow l.expiry

/-- Whether a lease on a tile of the own scratchpad has not passed (R103). -/
def State.leasedOut (s : State) (tile : BitVec 52) : Bool :=
  s.core.leases.any (fun l => s.ownTile l.tile == tile && s.leaseOut l)

/-- Whether a lease on a tile that has been written has not passed, as its home records it (R106). -/
def State.writeLeased (s : State) (w : PodWrite) : Bool :=
  match w.until_ with
  | some t => decide (s.core.cyc < t)
  | none => s.leasedOut w.tile

/-- What a release of the strand at scope `sc` still waits for among its accesses before `tag`: requests on their way, the delivery
of loads (R130, R133); at pod scope the leases on tiles it has written (R106), and the modified pooled lines of the package
(R95). -/
def State.releaseWaits (s : State) (sid : BitVec 40) (tag : Nat) (sc : BitVec 2) : Bool :=
  s.pkg.reqs.any (fun q => q.sid == sid && decide (q.tag < tag) && s.awaited sc q)
    || s.pkg.dlvs.any (fun d => d.sid == sid && decide (d.tag < tag) && (match d.due with
      | .wall _ => true
      | .issue _ => false))
    || (sc == 3 && (s.pkg.podWrites.any (fun w => w.sid == sid && decide (w.tag < tag) && s.writeLeased w)
      || s.pkg.lines.any (fun x => x.due.isSome)))

/-- Whether an address lies in a range of an ordering. -/
def inRange (r : Word × Nat) (va : Word) : Bool := decide (r.1.toNat ≤ va.toNat) && decide (va.toNat < r.1.toNat + r.2)

/-- Whether a request touches a range of an ordering. -/
def Req.reaches (q : Req) (r : Word × Nat) : Bool := q.vas.any (fun x => meets r.1.toNat r.2 x.1.toNat x.2)

/-- Whether a location lies in a page that an ordering names. -/
def Fence.names (f : Fence) (tt : BitVec 3) (pa : Nat) : Bool := f.pages.any (fun p => p.tt == tt && decide (p.pa.toNat / 4096 = pa / 4096))

/-- What a restricted release waits for: earlier stores to its tiles, at pod scope the leases on those of them that have been
written, and their modified pooled lines (R95, R106, R132). -/
def State.rangeWaits (s : State) (f : Fence) (r : Word × Nat) : Bool :=
  s.pkg.reqs.any (fun q => q.sid == f.sid && decide (q.tag < f.tag) && (q.op.isWrite || q.op.stores) && s.awaited f.sc q && q.reaches r)
    || (f.sc == 3 && (s.pkg.podWrites.any (fun w => w.sid == f.sid && decide (w.tag < f.tag) && s.writeLeased w
        && f.pages.any (fun p => decide (p.tt = 2) && p.tileNo == w.tile))
      || s.pkg.lines.any (fun x => x.due.isSome && f.names 0 (64 * x.line))))

/-- Whether an acquire of a strand still waits for its acquiring read: a read or atomic before it that is not performed. One that
was pending at a save is not waited for (R119, R133). -/
def State.readsBefore (s : State) (f : Fence) : Bool :=
  s.pkg.reqs.any (fun q => q.sid == f.sid && decide (q.tag < f.tag) && q.op.isRead && !q.old)

/-- Whether an ordering holds a later access at `va` (R119, R132, R272). -/
def State.fenceHolds (s : State) (f : Fence) (writes : Bool) (va : Word) : Bool :=
  let reads := s.readsBefore f || !f.acquired
  match f.range with
  | none =>
    match f.ord with
    | 0 => reads
    | 1 => writes && s.releaseWaits f.sid f.tag f.sc
    | 2 => reads || (writes && s.releaseWaits f.sid f.tag f.sc)
    | _ => reads || s.releaseWaits f.sid f.tag f.sc
  | some r =>
    match f.ord with
    | 0 => inRange r va && reads
    | _ => writes && s.rangeWaits f r

/-- Whether an acquire of the bundle at PC itself, of a word before this one, is on its way: what follows it is ordered at its home
(R115, R119). -/
def State.acquiring (s : State) : Bool :=
  s.pkg.reqs.any (fun q => q.sid == s.cur.sid && q.acq.isSome && s.iss.first.any (fun t => decide (t ≤ q.tag)))

/-- Whether a later access of the current strand is held: by an ordering word, or by an acquire of an earlier bundle not yet
performed. -/
def State.accessHeld (s : State) (writes : Bool) (va : Word) : Bool :=
  s.pkg.fences.any (fun f => f.sid == s.cur.sid && s.fenceHolds f writes va)
    || s.pkg.reqs.any (fun q => q.sid == s.cur.sid && q.acq.isSome && !s.iss.first.any (fun t => decide (t ≤ q.tag)))

/-- An acquire: at pod scope every copy of a tile of another package whose lease is no longer valid is dropped (R105), and every
clean pooled line of the package's caches (R95). -/
def State.acquired (s : State) (sc : BitVec 2) : State :=
  if sc = 3 then
    { s with
      core := { s.core with replicas := s.core.replicas.filter (fun r => match r.lease with
        | none => true
        | some e => s.pkg.ptimeOk && leaseValid s.leaseNow e) }
      pkg := { s.pkg with lines := s.pkg.lines.filter (fun x => x.due.isSome), msc := [] } }
  else s

/-- An acquire restricted to tiles, at any scope: the copies of the named tiles that may be older than their homes go, and their clean
pooled lines (R132). -/
def State.acquiredIn (s : State) (f : Fence) : State :=
  { s with
    core := { s.core with replicas := s.core.replicas.filter (fun r => r.lease.isNone || !f.pages.any (fun p => decide (p.tt = 2) && p.tileNo == r.tile)) }
    pkg := { s.pkg with
      lines := s.pkg.lines.filter (fun x => x.due.isSome || !f.names 0 (64 * x.line))
      msc := s.pkg.msc.filter (fun x => !f.names 0 (64 * x.line)) } }

/-- An ordering with acquire meaning whose acquiring read has been performed acquires now (R119, R123, R132). -/
def State.fenceAcquires (s : State) : State :=
  let due := fun (f : Fence) => !f.acquired && !s.readsBefore f
  let s1 := (s.pkg.fences.filter due).foldl (fun s f => match f.range with
    | none => s.acquired f.sc
    | some _ => s.acquiredIn f) s
  { s1 with pkg := { s1.pkg with fences := s1.pkg.fences.map (fun f => if due f then { f with acquired := true } else f) } }

/-- Whether an ordering still has something before it. -/
def State.fenceStands (s : State) (f : Fence) : Bool :=
  !f.acquired || s.pkg.reqs.any (fun q => q.sid == f.sid && decide (q.tag < f.tag))
    || (f.ord != 0 && (match f.range with
      | none => s.releaseWaits f.sid f.tag f.sc
      | some r => s.rangeWaits f r))

/-- Orderings whose acquiring read is performed acquire; those with nothing before them left are done. A release at pod scope that
is done leaves the writes before it nothing to wait for (R106). -/
def State.pruneFences (s0 : State) : State :=
  let s := if s0.pkg.fences.isEmpty then s0 else s0.fenceAcquires
  let met := s.pkg.fences.filter (fun f => !s.fenceStands f && f.sc == 3 && f.ord != 0 && f.range.isNone)
  { s with pkg := { s.pkg with
      fences := s.pkg.fences.filter s.fenceStands
      podWrites := s.pkg.podWrites.filter (fun w => !met.any (fun f => f.sid == w.sid && decide (w.tag < f.tag))) } }

/-- The places that a request touches, with their lengths. -/
def Req.places (q : Req) : List (Phys × Nat) :=
  match q.op with
  | .load n _ => [(q.loc, n)]
  | .store bs => [(q.loc, bs.length)]
  | .atomic fn wide _ _ _ => [(q.loc, if fn = 13 || fn = 14 then 16 else if wide then 8 else 4)]
  | .vamo _ lanes _ _ _ _ => lanes.map (fun l => (l.loc, 8))
  | .arrive _ _ => [(q.loc, 32)]
  | .ldrd x _ _ _ _ => x.blocks.map (fun b => (b.2.1, 64))
  | .strd x _ _ _ => x.blocks.map (fun b => (b.2.1, 64))
  | .note bs _ => [(q.loc, bs.length)]
  | .event _ _ => []
  | .ack => []

/-- The ranges of memory that a request touches where it is served: key and length. -/
def State.touches (s : State) (q : Req) : List (Nat × Nat) := q.places.map (fun x => ((s.homeLoc x.1).key0, x.2))

/-- Whether two requests meet at some byte. -/
def State.overlap (s : State) (a b : Req) : Bool := (s.touches a).any (fun x => (s.touches b).any (fun y => meets x.1 x.2 y.1 y.2))

/-- Whether accesses to a location are held: by a change of DMCFG (R377.1), of C = 1 POOL lines homed on the die and of NEAR beyond the
smaller size; by a BIAS command that has come to its page (R384). -/
def State.dmHeld (s : State) (p : Phys) : Bool :=
  s.pkg.dmBusy.any (fun (die, near, _) =>
    match p.tt with
    | 0 => p.c && (seg p.pa 12 3 ^^^ seg p.pa 15 3 ^^^ seg p.pa 18 3) == die
    | 1 => seg p.pa 30 3 == die && decide (min (near.toNat * 2 ^ 26) (s.nearSize die) ≤ (seg p.pa 0 30).toNat)
    | _ => false)
  || s.pkg.bias.any (fun j => s.windowPage p == some j.page)

/-- Whether an access that is no request waits: held as above, or for the host's answer on a line it may hold a copy of (R383). -/
def State.memHeld (s : State) (p : Phys) (n : Nat) : Bool :=
  s.dmHeld p || (s.inHostBias p && (linesOf p.key0 n).any s.pkg.hostLines.elem)

/-- Whether a place of a request is so held. -/
def State.dmHolds (s : State) (q : Req) : Bool := q.places.any (fun x => s.dmHeld x.1)

/-- Whether the host answers a request before it performs: one to a HOST line that the host-line cache does not hold as needed (R385,
R386), or to a page in host bias (R383). -/
def State.viaHost (s : State) (q : Req) : Bool :=
  q.places.any (fun x => (decide (x.1.tt = 3) && !s.hostHit x.1 q.op.stores) || s.inHostBias x.1)

/-- Whether the accesses of a strand before an operation of it have been performed, so that the operation may run (R127)
(notes/assumptions 53: DEDUCED). -/
def State.forked (s : State) (sid : BitVec 40) (tag : Nat) : Bool :=
  !s.pkg.reqs.any (fun q => q.sid == sid && decide (q.tag < tag) && (match q.op with
    | .ack => false
    | _ => true))

/-- The release scope of an arrival is its object's (R276). -/
def State.releaseScope (s : State) (q : Req) : Option (BitVec 2) :=
  match q.op with
  | .arrive _ _ => some (seg (BitVec.ofNat 32 (s.numAt ((s.homeLoc q.loc).plus 20) 4)) 1 2)
  | _ => q.rel

/-- Whether a request is to be visible to every package from one moment on: a release store at pod scope, an atomic, an arrival
(R131). -/
def Req.atOnce (q : Req) : Bool :=
  match q.op with
  | .store _ => q.rel == some 3
  | .atomic _ _ _ _ _ => true
  | .vamo _ _ _ _ _ _ => true
  | .arrive _ _ => true
  | _ => false

/-- Whether such a request meets a tile of this core on which a lease stands: it waits until all have passed (R131)
(notes/assumptions 67: DEDUCED). -/
def State.leaseHeld (s : State) (q : Req) : Bool :=
  q.atOnce && q.places.any (fun x => decide ((s.homeLoc x.1).tt = 2) && s.leasedOut (s.homeLoc x.1).tileNo)

/-- The strands that wait, wherever they stand. -/
def State.waiters (s : State) : List Strand := s.strands.filter (fun x => x.wait.isSome)

/-- Whether an own access inside a window waits at its home for its bank (R90). -/
def State.windowBank (s : State) (q : Req) : Bool :=
  q.places.any (fun x => s.ownSpad (s.homeLoc x.1) && !s.exposed (s.homeLoc x.1)
    && s.core.banks.any (fun b => b.1 == seg (s.homeLoc x.1).pa 8 5))

/-- Whether a wait of the strand before the request, not yet asked at its home, comes first: it acquires, orders everything, or
meets the request's bytes (R117, R119, R280). -/
def State.behindWait (s : State) (q : Req) : Bool :=
  s.waiters.any (fun x => x.id == q.sid && x.wait.any (fun w => !w.asked && decide (w.tag < q.tag)
    && (w.acq || w.full || (match w.on.watches with
      | some (p, n) => (s.touches q).any (fun t => meets t.1 t.2 (s.homeLoc p).key0 n)
      | none => false))))

/-- Whether the bank of an own scratchpad location is occupied (R90). -/
def State.bankBusy (s : State) (p : Phys) : Bool := s.ownSpad p && s.core.banks.any (fun b => b.1 == seg p.pa 8 5)

/-- Whether a pushed row waits: for its bank, which the pipeline takes first (R90), or for an ordering of its strand (R112, R119). -/
def State.pushHeld (s : State) (q : Req) : Bool :=
  q.push.isSome && (s.bankBusy (s.homeLoc q.loc) || s.pkg.fences.any (fun f => f.sid == q.sid && decide (f.tag ≤ q.tag) && s.fenceHolds f true q.va))

/-- Whether, in a replayed launch, a floating add waits for another that the log names before it on its location (R417). -/
def State.replayHolds (s : State) (q : Req) : Bool :=
  let later := fun (l : Launch) (p : Phys) (b : Word) =>
    let mine := l.feed.filter (fun x => x.1 == 1 && x.2.take 8 == leBytes 8 (s.homeLoc p).key0)
    mine.any (fun x => x.2.drop 8 == leBytes 8 b.toNat) && !mine.head?.any (fun x => x.2.drop 8 == leBytes 8 b.toNat)
  s.pkg.launches.any (fun l => !l.feed.isEmpty && q.dom == some (l.part ++ l.lnch) && (match q.op with
    | .atomic 15 _ b _ _ => later l q.loc b
    | .vamo 7 lanes _ _ _ _ => lanes.any (fun x => later l x.loc x.b)
    | _ => false))

/-- A request may be performed now: program order to one location and among MMIO accesses, acquires before it, its own
release meaning, leases on its tile, a wait before it, a DMCFG in progress (R117, R119, R131, R257, R377). -/
def State.reqReady (s : State) (q : Req) (earlier : List Req) : Bool :=
  let mine := earlier.filter (fun r => r.sid == q.sid)
  !mine.any (fun r => s.overlap r q) && !(q.loc.tt == 5 && mine.any (fun r => r.loc.tt == 5))
    && !mine.any (fun r => r.acq.isSome) && !s.dmHolds q && !s.leaseHeld q && !s.behindWait q && !s.pushHeld q && !s.windowBank q
    && !(s.releaseScope q).any (fun sc => s.releaseWaits q.sid q.tag sc) && !s.replayHolds q

/-! ## Device registers (R374, R376, R377) -/

/-- The word of a device register; an address with no register reads as a free value (notes/assumptions 22: DESIGN CHOICE). -/
def State.mmioWord (s : State) (a : Nat) : Word :=
  if 0x10000 ≤ a ∧ a < 0x10100 then s.pkg.papt.get (Fin.ofNat 32 ((a - 0x10000) / 8))
  else if a = 0x10100 then s.pkg.dlo
  else if a = 0x10108 then s.pkg.dhi
  else if a = 0x10110 then s.pkg.shb
  else if 0x10200 ≤ a ∧ a < 0x10240 then
    let die := (a - 0x10200) / 8
    s.pkg.dmcfg.get (Fin.ofNat 8 die) ||| (if s.pkg.dmBusy.any (fun x => x.1.toNat == die) then 0x100 else 0)
  else Config.freeWord s.choice

/-- The `n` bytes of a device register access. -/
def State.mmioBytes (s : State) (p : Phys) (n : Nat) : List Byte :=
  ((leBytes 8 (s.mmioWord (p.pa.toNat / 8 * 8)).toNat).drop (p.pa.toNat % 8)).take n

/-- A write of a device register at its home: the register's own event comes next, with its address and new word. -/
def State.mmioStore (s : State) (p : Phys) (bs : List Byte) : State :=
  let a := p.pa.toNat / 8 * 8
  let w := w64 (ofBytes (spliceBytes (leBytes 8 (s.mmioWord a).toNat) (p.pa.toNat % 8) bs))
  let e : EvArgs := { v := w64 a, w := w }
  if 0x10000 ≤ a ∧ a < 0x10100 then s.soon .registerWrite e
  else if 0x10100 ≤ a ∧ a ≤ 0x10110 then s.soon .describedRangeWrite e
  else if 0x10200 ≤ a ∧ a < 0x10240 then
    let die : BitVec 3 := BitVec.ofNat 3 ((a - 0x10200) / 8)
    let near := seg w 0 4
    let carved := s.pkg.carve.any (fun (d, o, n) => d == die && decide (near.toNat * 2 ^ 26 < o + n))
    let now := match s.pkg.dmBusy.reverse.find? (fun x => x.1 == die) with
      | some x => x.2.1
      | none => seg (s.pkg.dmcfg.get die.toFin) 0 4
    if 12 < near.toNat ∨ carved ∨ near = now then s
    else
      let (due, s1) := s.dueSoon
      { s1 with pkg := { s1.pkg with dmBusy := s1.pkg.dmBusy ++ [(die, near, due)] } }
  else s

/-! ## Where a request is served (R375, R405) -/

/-- An access through this device's own peer aperture: it permits the reads, the writes, or both that the access makes
(R375). -/
def State.papt (s : State) (off : BitVec 35) (rd wr : Bool) : Option Phys :=
  let e := s.pkg.papt.get (seg off 30 5).toFin
  if (!rd || e.getLsbD 1) && (!wr || e.getLsbD 2) then s.paptLoc off else none

/-- Where an access is performed, or none where its home refuses it (R375) or its device is lost (R405). -/
def State.served (s : State) (p : Phys) (rd wr refuse : Bool) : Option Phys :=
  match s.otherDevice p with
  | some d => if refuse || s.pkg.lost.elem d then none else some p
  | none => if p.tt = 4 then s.papt (seg p.pa 0 35) rd wr else some p

/-- The permissions of an aperture that an operation needs, to read and to write; an atomic is a write (R374). -/
def ReqOp.needs : ReqOp → Bool × Bool
  | .load _ _ => (true, false)
  | .ldrd _ _ _ _ _ => (true, false)
  | .store _ => (false, true)
  | .strd _ _ _ _ => (false, true)
  | .note _ _ => (false, true)
  | .atomic _ _ _ _ _ => (false, true)
  | .vamo _ _ _ _ _ _ => (false, true)
  | .arrive _ _ => (false, true)
  | .event _ _ => (false, false)
  | .ack => (false, false)

/-- A refused access is logged by the requesting device: array 11, 12 for a lost peer, 10 for the host port (R375, R386, R405, R413). -/
def State.logAccess (s : State) (p : Phys) (va : Word) : State :=
  let dev := (s.otherDevice p).getD s.core.device
  (s.logError (if p.tt = 3 then 10 else if s.pkg.lost.elem dev then 12 else 11) (if s.pkg.lost.elem dev then 3 else 2) 0 va dev).1

/-- What follows is done for a strand of a launch (R413). -/
def State.acting (s : State) (sid : BitVec 40) (lnch : BitVec 32) : State := { s with iss := { s.iss with actor := some (sid, lnch) } }

/-- The refusal of a request is logged under its own strand and launch (R413). -/
def State.logRefusal (s : State) (q : Req) : State :=
  let s1 := (s.acting q.sid ((q.dom.map (fun d => seg d 0 32)).getD 0)).logAccess q.loc q.va
  { s1 with iss := { s1.iss with actor := s.iss.actor } }

/-! ## Windows and replicas (R99-R106) -/

/-- The window tile of a location of the own scratchpad. -/
def tileBase (p : Phys) : BitVec 21 := (seg p.pa 14 7) ++ (0 : BitVec 14)

/-- The location of a row of a tile. -/
def rowLoc (tile : BitVec 52) (row : Nat) : Phys := { tt := 2, pa := (tile <<< 14) + BitVec.ofNat 52 (256 * row) }

/-- Leases on a tile of the own scratchpad note that it has been written: the predictor of each replica starts anew (R104). -/
def State.noteWritten (s : State) (t : BitVec 21) : State :=
  { s with core := { s.core with leases := s.core.leases.map (fun l => if l.tile == t then { l with steps := [] } else l) } }

/-- Bytes that a copy holds newer than the home's backing go to the backing, by their offsets in the tile (R100). -/
def State.mergeTile (s : State) (t : BitVec 21) (l : List (BitVec 14 × Byte)) : State :=
  l.foldl (fun s x => s.writeAt ((rowLoc (s.ownTile t) 0).plus x.1.toNat) [x.2]) s

/-- What the copies of a tile hold newer than the backing. -/
def State.newerOf (s : State) (t : BitVec 21) : List (BitVec 14 × Byte) :=
  ((s.core.dir.filter (fun e => e.tile == t)).map DirEntry.newer).flatten

/-- The home core's own access to a window tile, and one served directly at the home: a read takes what a modified copy holds and
leaves its owner in S; a write drops every copy after that (R100). Leases note the write (R104). -/
def State.homeTouch (s : State) (p : Phys) (writes : Bool) : State :=
  if s.ownSpad p && s.inWindow (seg p.pa 0 21) then
    let t := tileBase p
    let s1 := s.mergeTile t (s.newerOf t)
    let s2 : State := { s1 with core := { s1.core with
        dir := if writes then s1.core.dir.filter (fun e => e.tile != t)
          else s1.core.dir.map (fun e => if e.tile == t && (e.st == .m || e.st == .o) then { e with st := .s, newer := [], due := none } else e) } }
    if writes then s2.noteWritten t else s2
  else s

/-- The rows of its tile that `n` bytes at a location touch. -/
def rowsTouched (p : Phys) (n : Nat) : List Nat :=
  let o := p.pa.toNat % 16384
  (List.range ((o + n - 1) / 256 - o / 256 + 1)).map (fun i => o / 256 + i)

/-- The bytes of a copy at a location, where it holds all the rows. -/
def Replica.bytes (r : Replica) (p : Phys) (n : Nat) : Option (List Byte) :=
  let rows := (rowsTouched p n).filterMap (fun i => (r.data.find? (fun d => d.1 == i)).map (fun d => rowBytes d.2))
  if rows.length = (rowsTouched p n).length then some ((rows.flatten.drop (p.pa.toNat % 256)).take n) else none

/-- The lines of its tile that `n` bytes at a location touch. -/
def linesTouched (p : Phys) (n : Nat) : List Nat := linesOf (p.pa.toNat % 16384) n

/-- Whether a copy holds one of the lines poisoned (R410). -/
def Replica.badIn (r : Replica) (p : Phys) (n : Nat) : Bool := (linesTouched p n).any r.bad.elem

/-- The core's copy of the tile of a location in another scratchpad (R99). -/
def State.copyOf (s : State) (p : Phys) : Option Replica :=
  if decide (p.tt = 2) && !s.ownSpad p then s.core.replicas.find? (fun r => r.tile == p.tileNo) else none

/-- The bytes a copy of the core holds for a read, if it does: of a leased one, whether its lease is valid or not (R105). -/
def State.replicaBytes (s : State) (p : Phys) (n : Nat) : Option (List Byte) := (s.copyOf p).bind (fun r => r.bytes p n)

/-- The core's copies change. -/
def State.modCopies (s : State) (f : List Replica → List Replica) : State :=
  { s with core := { s.core with replicas := f s.core.replicas } }

/-- The panels of a tile of another scratchpad that an access touches are asked for at the home, unless they have been or 64 are
under way (notes/assumptions 64: DESIGN CHOICE); a core without a replica area asks for none (R99, R105). -/
def State.askPanels (s : State) (p : Phys) (n : Nat) : State :=
  if decide (p.tt = 2) && !s.ownSpad p && seg s.core.rpln 0 7 != 0 then
    let l := (((rowsTouched p n).map (fun r => (p.tileNo, r / 8))).eraseDups.filter (fun x => !s.core.asks.elem x)).take (64 - s.core.asks.length)
    { s with
      core := { s.core with asks := s.core.asks ++ l }
      pkg := { s.pkg with out := s.pkg.out ++ l.map (fun x => Out.tileAsk x.1 x.2) } }
  else s

/-- A copy serves a read: it is the last one used; where its lease is no longer valid, a renewal starts (R99, R105). -/
def State.useCopy (s : State) (p : Phys) (n : Nat) : State :=
  let s1 := s.modCopies (fun l => l.map (fun r => if r.tile == p.tileNo then { r with used := s.core.cyc } else r))
  if (s.copyOf p).any (fun r => r.lease.any (fun e => !(s.pkg.ptimeOk && leaseValid s.leaseNow e))) then s1.askPanels p n else s1

/-- The modified rows of a copy go back to the home, with the marks of their lines (R99, R410). -/
def State.copyHome (s : State) (r : Replica) : State :=
  r.modified.foldl (fun s i => match r.data.find? (fun d => d.1 == i) with
    | some d => (r.bad.filter (fun l => l / 4 == i)).foldl (fun s l => s.poisonLines ((rowLoc r.tile 0).plus (64 * l)) 64)
        (s.writeAt (rowLoc r.tile i) (rowBytes d.2))
    | none => s) s

/-- A copy whose modified rows are at the home. -/
def Replica.clean (r : Replica) : Replica := { r with modified := [], due := none }

/-- An access at the home of a tile of this package that the core has a copy of: the copy's data goes home; the copy goes too if
the access writes (R100). -/
def State.recallCopy (s : State) (p : Phys) (writes : Bool) : State :=
  match (s.copyOf p).filter (fun r => r.lease.isNone) with
  | some r => (s.copyHome r).modCopies (fun l =>
      if writes then l.filter (fun x => x.tile != r.tile) else l.map (fun x => if x.tile == r.tile then x.clean else x))
  | none => s

/-- Whether a wait watches bytes of a range (R28). -/
def State.waitedOn (s : State) (p : Phys) (n : Nat) : Bool :=
  s.waiters.any (fun x => x.wait.any (fun w => match w.on.watches with
    | some (l, m) => meets p.key0 n (s.homeLoc l).key0 m
    | none => false))

/-- A store into rows that the core holds a copy of under the tile protocol is performed there (R99, R131), and reaches the home by the
wall cycle `limit` (R30, R96); where a wait watches the bytes, the home takes them at once. -/
def State.writeCopy (s : State) (p : Phys) (bs : List Byte) (limit : Nat) : Option State :=
  match s.copyOf p with
  | none => none
  | some r =>
    if r.lease.isSome || (r.bytes p bs.length).isNone then none
    else
      let put := fun (d : Nat × Row) =>
        let o := p.pa.toNat % 16384
        if o < 256 * d.1 + 256 ∧ 256 * d.1 < o + bs.length then
          (d.1, rowOf (if o < 256 * d.1 then spliceBytes (rowBytes d.2) 0 (bs.drop (256 * d.1 - o)) else spliceBytes (rowBytes d.2) (o - 256 * d.1) bs))
        else d
      let r1 : Replica := { r with
        data := r.data.map put
        modified := (rowsTouched p bs.length).foldl insertAsc r.modified
        bad := r.bad.filter (fun l => !(wholeLines (p.pa.toNat % 16384) bs.length).elem l)
        used := s.core.cyc
        due := some (min limit (r.due.getD s.lineDue)) }
      let s1 := s.modCopies (fun l => l.map (fun x => if x.tile == r.tile then r1 else x))
      some (if s1.waitedOn p bs.length then s1.recallCopy p false else s1)

/-- The bank of an own scratchpad location is taken for an access of an engine or the matrix unit, or is occupied (R90). -/
def State.takeBank (s : State) (p : Phys) (cycles : Nat) : Option State :=
  if s.bankBusy p then none
  else some (if s.ownSpad p then { s with core := { s.core with banks := (seg p.pa 8 5, cycles) :: s.core.banks } } else s)

/-- A read by the core, from a copy it holds or at the home: the bytes, whether they carry poison, the state after it (R88, R99,
R100, R105, R410). -/
def State.readServed (s : State) (p : Phys) (n : Nat) : List Byte × Bool × State :=
  match s.replicaBytes p n with
  | some bs => (bs, (s.copyOf p).any (fun r => r.badIn p n), s.useCopy p n)
  | none =>
    let s1 := (s.homeTouch p false).askPanels p n
    (s1.readAt p n, s1.badAt p n, s1.fillLines p n)

/-- Bytes of a free value, for what a refused read delivers POISONED. -/
def State.freeBytes (s : State) (n : Nat) : List Byte := (rowBytes (Config.freeRow s.choice)).take n

/-- The same at any location: a refused read gives poisoned bytes (R375, R405). -/
def State.coreRead (s : State) (p : Phys) (n : Nat) : List Byte × Bool × State :=
  match s.served p true false false with
  | some p1 => s.readServed p1 n
  | none => (s.freeBytes n, true, s.logAccess p 0)

/-- A write to a tile of a pod-scope window, or to a tile whose home may keep leases, is noted for the strand's releases; the
leases of another home have passed after at most the longest of the ladder (R104, R106) (notes/assumptions 68: DEDUCED). -/
def State.notePodWrite (s : State) (sid : BitVec 40) (tag : Nat) (p : Phys) : State :=
  let add := fun (u : Option Nat) => { s with pkg := { s.pkg with
    podWrites := { sid := sid, tag := tag, tile := p.tileNo, until_ := u } :: s.pkg.podWrites.filter (fun w => !w.until_.any (fun t => decide (t ≤ s.core.cyc))) } }
  if p.tt != 2 then s
  else if s.ownSpad p then
    if s.core.wins.any (fun w => w.sc == 3 && decide (w.base.toNat ≤ (seg p.pa 0 21).toNat) && decide ((seg p.pa 0 21).toNat < w.base.toNat + w.tiles * 0x4000))
    then add none else s
  else add (some (s.core.cyc + Config.free s.choice % 6000000))

/-- A store of a request where it is performed: into a copy under the tile protocol, else at the home, whose panels of a tile of this
package it asks for (R92, R99, R100, R105); it reaches its backing within 1 ms of its issue (R30, R94). -/
def State.storeServed (s : State) (q : Req) (p : Phys) (bs : List Byte) : State :=
  (match s.writeCopy p bs q.limit with
    | some s1 => s1
    | none =>
      let s1 := (((s.homeTouch p true).writeAt p bs).dueBy p bs.length q.limit).dropCopies [p]
      if (s.otherDevice p).isNone then s1.askPanels p bs.length else s1).notePodWrite q.sid q.tag p

/-! ## Atomics (R263, R264, R267) -/

/-- The sign-extended or zero-extended old value. -/
def oldValue (wide sign : Bool) (m : Nat) : Word :=
  if wide then w64 m else if sign then sext64 32 (w64 m) else w64 (m % 2 ^ 32)

/-- The sum of AFADD: rounded to nearest even, subnormals kept, no flag (R263). -/
def fAdd (wide : Bool) (m b : Nat) : Nat :=
  let e : FEnv := { f := if wide then ffF64 else ffF32, mode := .rne, ftz := false }
  (e.add m b).1

/-- An atomic on old value `m` with operands `b`, `c` and the word `lim` that follows it: the new value, if it writes, and
the result (R263, R264). -/
def atomicOp (fn : BitVec 5) (wide : Bool) (m b c lim : Nat) : Option Nat × Word :=
  let w := if wide then 64 else 32
  let n := 2 ^ w
  let sx := fun (x : Nat) => (BitVec.ofNat w x).toInt
  let fail := (oldValue wide false m) ||| (1 <<< 63)
  match fn.toNat with
  | 0 => (some ((m + b) % n), oldValue wide true m)
  | 1 => (some (m &&& b), oldValue wide true m)
  | 2 => (some (m ||| b), oldValue wide true m)
  | 3 => (some (m ^^^ b), oldValue wide true m)
  | 4 => (some (if sx b < sx m then b else m), oldValue wide true m)
  | 5 => (some (if sx m < sx b then b else m), oldValue wide true m)
  | 6 => (some (min m b), oldValue wide true m)
  | 7 => (some (max m b), oldValue wide true m)
  | 8 => (some b, oldValue wide true m)
  | 9 => (if m = b then some c else none, oldValue wide true m)
  | 10 => if m < b then (some ((m + 1) % n), oldValue wide false m) else (none, fail)
  | 11 => (some (if b = 0 then (m + 1) % n else (m + 1) % b), oldValue wide false m)
  | 12 => if m ≠ 0 then (some (m - 1), oldValue wide false m) else (none, fail)
  | 13 => if m + b ≤ lim then (some (m + b), oldValue wide false m) else (none, fail)
  | 14 =>
    if lim ≤ m then (none, (1 <<< 63) ||| w64 (m % 2 ^ 40))
    else
      let rem := lim - m
      let q := if b % 2 ^ 16 = 0 then 1 else b % 2 ^ 16
      let u := b / 2 ^ 16 % 2 ^ 16
      let ch := min (min (max u ((rem + q - 1) / q)) rem) 0x7FFFFF
      (some (m + ch), w64 (ch * 2 ^ 40 + m % 2 ^ 40))
  | _ => (some (fAdd wide m b), oldValue wide false m)

/-- The ATOM function that a VAMO op is (R267). -/
def vamoFn (op : BitVec 3) : BitVec 5 :=
  match op with
  | 0 => 0
  | 1 => 1
  | 2 => 2
  | 3 => 3
  | 4 => 4
  | 5 => 5
  | 6 => 8
  | _ => 15

/-- An atomic at its home: the result, or none where the location is poisoned (R265, R410). -/
def State.atomicAt (s : State) (p : Phys) (fn : BitVec 5) (wide : Bool) (b c : Word) : State × Option Word :=
  let pair := fn = 13 || fn = 14
  let n := if wide then 8 else 4
  if s.badAt p (if pair then 16 else n) then (s, none)
  else
    let mask := fun (x : Word) => x.toNat % 2 ^ (8 * n)
    let lim := if pair then s.numAt (p.plus 8) 8 else 0
    let (new, d) := atomicOp fn wide (s.numAt p n) (mask b) (mask c) lim
    match new with
    | some v => (s.writeAt p (leBytes n v), some d)
    | none => (s, some d)

/-! ## Barrier and completion objects (R275-R277) -/

/-- The object after a merge of status `st` (R277): status word and ph. -/
def mergeStatus (old : Word) (ph : Bool) (st : Word) : Word :=
  let o : Word := if ph then old else 0
  let o1 := setSeg o 16 (seg o 16 4 ||| seg st 16 4)
  if (seg o1 0 8).toNat < (seg st 0 8).toNat then
    setSeg (setSeg (setSeg o1 0 (seg st 0 8)) 8 (seg st 8 8)) 32 (seg st 32 32)
  else o1

/-- An arrival at an object's home, with a merge first where a status is given: the token (R276, R277) (notes/assumptions 57:
DEDUCED). -/
def State.arriveAt (s : State) (p : Phys) (status : Option Word) : State × BitVec 32 :=
  let b := s.readAt p 32
  let gen := half32At b 0
  let expected := ofBytes ((b.drop 4).take 2)
  let arrived := ofBytes ((b.drop 6).take 2)
  let stat := wordAt b 8
  let flags := half32At b 20
  if flags.getLsbD 0 then (s, gen)
  else
    let (stat1, ph1) := match status with
      | none => (stat, flags.getLsbD 3)
      | some st => (mergeStatus stat (flags.getLsbD 3) st, true)
    let last := (if expected = 0 then 1 else expected) ≤ arrived + 1
    let gen1 := if last then gen + 1 else gen
    let ph2 := if last then false else ph1
    let nb := leBytes 4 gen1.toNat ++ leBytes 2 expected ++ leBytes 2 (if last then 0 else arrived + 1)
      ++ leBytes 8 stat1.toNat ++ (b.drop 16).take 4 ++ leBytes 4 (setSeg flags 3 (BitVec.ofBool ph2)).toNat
      ++ (b.drop 24).take 8
    (s.writeAt p nb, gen)

/-- The place where an atomic, an arrival or the rewriting of a block performs: of a C = 1 pooled line pooled memory itself, at the line's
home (R261, R265). -/
def Phys.atHome (p : Phys) : Phys := if p.pooled then { p with c := false } else p

/-- A place at whose home an atomic or an arrival performs: copies are taken back first (R265). -/
def State.atHome (s : State) (p : Phys) (n : Nat) : State :=
  (((s.recallCopy p true).recallLines p n).homeTouch p true).dropCopies [p]

/-- Whether a completion waits at its object: a lease stands on the object's tile (R131). -/
def State.objLeased (s : State) (obj : Option Phys) : Bool :=
  obj.any (fun p => decide ((s.homeLoc p).tt = 2) && s.leasedOut (s.homeLoc p).tileNo)

/-- A completion: the status merged and one arrival, at the object if there is one (R285). -/
def State.completeAt (s : State) (obj : Option Phys) (status : Word) : State :=
  match obj with
  | none => s
  | some p => match s.served p false true false with
    | some p1 =>
      let s1 := s.atHome p1 32
      if s1.badAt p1.atHome 32 then s1 else (s1.arriveAt p1.atHome (some status)).1
    | none => s.logAccess p 0

/-! ## Event bits and tasks that wait for them (R281, R282, R316) -/

/-- The partition with a number (R340). -/
def State.part (s : State) (n : BitVec 4) : Option Part := s.pkg.parts.find? (fun p => p.n == n)

/-- The address space of a partition (0 where it does not exist). -/
def State.partSatp (s : State) (n : BitVec 4) : Word :=
  match s.part n with
  | some p => p.satp
  | none => 0

/-- Write the state of a strand into its record (+40): state, retries, deferred fault and why. Priority, version and step bit stay as
they stand there, where software may have written them (R9, R394, R399). -/
def State.touchRecord (s : State) (x : Strand) : State :=
  let own : Word := 0x000000FFFF080F0F
  match s.vread (s.partSatp x.part) (x.recAddr + 40) 8 with
  | some b => s.vwrite (s.partSatp x.part) (x.recAddr + 40)
      (leBytes 8 ((wordAt b 0 &&& ~~~own) ||| (BitVec.ofNat 64 x.flagWord &&& own)).toNat)
  | none => s

/-- The step bit of a record is set or cleared by firmware (R400). -/
def State.setStepBit (s : State) (x : Strand) (step : Bool) : State :=
  match s.vread (s.partSatp x.part) (x.recAddr + 40) 8 with
  | some b => s.vwrite (s.partSatp x.part) (x.recAddr + 40) (leBytes 8 (setSeg (wordAt b 0) 18 (BitVec.ofBool step)).toNat)
  | none => s

/-- The cluster and the die of the core. -/
def State.cluster (s : State) : BitVec 7 := seg s.core.core 3 7
def State.die (s : State) : BitVec 3 := seg s.core.core 7 3

/-- The event bits of the cluster a strand is queued in; of a cluster other than the core's, of which the model sees no event
instruction, they are 0 as at the launch's start (R281, R303). -/
def State.eventsOf (s : State) (x : Strand) : Mask :=
  match x.place with
  | .cluQ c => if c = s.cluster then s.pkg.events else 0
  | _ => s.pkg.events

/-- A task's wait mask is satisfied by the event bits of its cluster (R16, R316). -/
def State.waitMet (s : State) (x : Strand) : Bool := (s.eventsOf x &&& x.waitMask) == x.waitMask

/-- Whether a NEW task becomes READY by the event bits as they are (R316). -/
def State.turnsReady (s : State) (x : Strand) : Bool := x.state == .new && x.isTask && s.waitMet x

/-- A strand after a change of the event bits: a NEW task whose mask is met becomes READY, an EVWAIT that is met is
settled. -/
def State.eventStrand (s : State) (x : Strand) : Strand :=
  let x1 := if s.turnsReady x then { x with state := .ready, since := s.core.cyc } else x
  match x1.wait with
  | some w => match w.on with
    | .events m =>
      if w.asked && w.res.isNone && (s.pkg.events &&& m) == m then { x1 with wait := some { w with res := some 0 } } else x1
    | _ => x1
  | none => x1

/-- The event bits change: tasks and waits see them, and the record of a task that becomes READY says so (R9, R316). -/
def State.setEvents (s : State) (m : Mask) : State :=
  let s1 : State := { s with pkg := { s.pkg with events := m } }
  let s2 : State := { s1 with
    cur := { s1.cur with strand := s1.cur.strand.map s1.eventStrand }
    oth := { s1.oth with strand := s1.oth.strand.map s1.eventStrand }
    pkg := { s1.pkg with strands := s1.pkg.strands.map s1.eventStrand } }
  (s1.pkg.strands.filter s1.turnsReady).foldl (fun s x => s.touchRecord { x with state := .ready }) s2

/-- Event bits are set (R281, R313). -/
def State.orEvents (s : State) (m : Mask) : State := s.setEvents (s.pkg.events ||| m)

/-! ## The performance of a request -/

/-- The reply of a request sets out. -/
def State.reply (s : State) (q : Req) (dest : Dest) (v : Row) (sel : Mask) (poison : Bool) (flags : BitVec 6) : State :=
  let (due, s1) := s.dueSoon
  s1.deliver { sid := q.sid, tag := q.tag, dest := dest, v := v, sel := sel, poison := poison, due := .wall due, flags := flags }

/-- The value of a load from the bytes read: destination and row value. -/
def loadValue (dst : LoadTo) (bs : List Byte) : Option (Dest × Row) :=
  match dst with
  | .scalar r zx =>
    let n := 8 * bs.length
    let v := w64 (ofBytes bs)
    some (.s r, (if zx then zext64 n v else sext64 n v).setWidth 2048)
  | .row t r => some (.row t r, rowOf bs)
  | .bcast t r => some (.row t r, rowOf (List.replicate (256 / max 1 bs.length) bs).flatten)
  | .none => none

/-- A reply to a load. -/
def State.replyLoad (s : State) (q : Req) (dst : LoadTo) (bs : List Byte) (poison : Bool) : State :=
  match loadValue dst bs with
  | some (d, v) => s.reply q d v (BitVec.allOnes 256) poison 0
  | none => s

/-- The byte selector of the lanes of a VAMO batch. -/
def vamoSel (lanes : List VamoLane) : Mask := ofBits 256 (fun i => lanes.any (fun l => l.lane == i / 8))

/-- The old values that peers have answered for lanes, and the bytes they fill (R404). -/
def vamoGot (got : List (Nat × Word)) : Nat := got.foldl (fun a x => a + x.2.toNat * 2 ^ (64 * x.1)) 0
def vamoGotSel (got : List (Nat × Word)) : Mask := ofBits 256 (fun i => got.any (fun x => x.1 == i / 8))

/-- An AtomicOp's answer reaches the bundle that waits for it (R270). -/
def State.answerHost (s : State) (sid : BitVec 40) (a : HostAns) : State :=
  let f := fun (c : Ctx) => if c.sid == sid then { c with hostOp := c.hostOp.map (fun x => (x.1, a)) } else c
  { s with cur := f s.cur, oth := f s.oth }

/-- A handler entry joins the core's arrival queue (R113, R289, R293). -/
def State.addArrival (s : State) (a : Arrival) : State := { s with core := { s.core with arrivals := s.core.arrivals ++ [a] } }

/-- The handler entry of an ANOTE (R113, R293). -/
def EngOp.noteArrival (o : EngOp) : Arrival :=
  { pc := o.pc, dst := o.desc.dst, bytes := 8, arg := o.desc.arg, s28 := o.s28, lnch := o.lnch, part := o.part, ver := o.ver }

/-- The slot of an ANOTE comes free. -/
def State.freeNote (s : State) (slot : Nat) : State :=
  { s with core := { s.core with ops := s.core.ops.filter (fun x => x.slot != slot) } }

/-- The store of an ANOTE has been performed: its handler entry, on the core that owns a scratchpad destination, else on
the issuing core, and the slot free again (R113, R293). While the arrival queue is full the operation waits (R114). -/
def State.noteDone (s : State) (p : Phys) (slot : Nat) : State :=
  match s.core.ops.find? (fun o => o.slot == slot && o.kind == .note) with
  | none => s
  | some o =>
    if p.tt = 2 && !s.ownSpad p then s.freeNote slot
    else if s.core.arrivals.length < 64 then (s.addArrival o.noteArrival).freeNote slot
    else { s with core := { s.core with ops := s.core.ops.map (fun x => if x.slot == slot then { x with ended := true } else x) } }

/-- The lanes of a VAMO perform, in lane order, each at its own home; a lane refused there, or that reads poison, makes the
batch POISONED (R265, R267, R375). -/
def State.performVamo (s : State) (q : Req) (refuse : Bool) (op : BitVec 3) (lanes : List VamoLane) : State × Nat × Bool :=
  lanes.foldl (fun (acc : State × Nat × Bool) l =>
    match acc.1.served l.loc false true (refuse && (s.otherDevice l.loc).isSome) with
    | none => (acc.1.logRefusal { q with va := l.va, loc := l.loc }, acc.2.1 + (Config.freeWord s.choice).toNat * 2 ^ (64 * l.lane), true)
    | some p =>
      let (s2, v) := (acc.1.atHome p 8).atomicAt p.atHome (vamoFn op) true l.b 0
      (s2.notePodWrite q.sid q.tag p, acc.2.1 + (v.getD (Config.freeWord s.choice)).toNat * 2 ^ (64 * l.lane), acc.2.2 || v.isNone)) (s, 0, false)

/-- What a request does at its home, where it is served (R92, R100, R105, R256, R260, R261, R265, R276, R281) (notes/assumptions
8: DESIGN CHOICE). -/
def State.performServed (s : State) (q : Req) (p : Phys) : State :=
  match q.op with
  | .load n dst =>
    let s1 := s.acquired (q.acq.getD 0)
    if p.tt = 5 then s1.replyLoad q dst (s1.mmioBytes p n) false
    else
      let (bs, bad, s2) := s1.readServed p n
      s2.replyLoad q dst bs bad
  | .store bs => if p.tt = 5 then s.mmioStore p bs else s.storeServed q p bs
  | .note bs slot => (s.storeServed q p bs).noteDone p slot
  | .atomic fn wide b c d =>
    let (s1, r) := (s.atHome p 16).atomicAt p.atHome fn wide b c
    let s2 := s1.notePodWrite q.sid q.tag p
    if q.host then s2.answerHost q.sid (match r with
      | some v => .value v
      | none => .aborted)
    else s2.reply q (.s d) ((r.getD (Config.freeWord s.choice)).setWidth 2048) (BitVec.allOnes 256) r.isNone 0
  | .vamo op lanes t r bad0 got =>
    let (s1, vs, bad) := s.performVamo q false op lanes
    s1.reply q (.row t r) (BitVec.ofNat 2048 (vs + vamoGot got)) (vamoSel lanes ||| vamoGotSel got) (bad || bad0) 0
  | .arrive status d =>
    let s0 := s.atHome p 32
    if s0.badAt p.atHome 32 then
      s0.reply q (.s d) ((Config.freeWord s.choice).setWidth 2048) (BitVec.allOnes 256) true 0
    else
      let (s1, token) := s0.arriveAt p.atHome status
      (s1.notePodWrite q.sid q.tag p).reply q (.s d) (token.setWidth 2048) (BitVec.allOnes 256) false 0
  | .event set b =>
    let bitm : Mask := 1 <<< b.toNat
    if set then s.orEvents bitm else s.setEvents (s.pkg.events &&& ~~~bitm)
  | .ldrd x t r rm draws =>
    let (v, fl) := x.assemble rm draws (fun b => s.readAt b.2.1 64)
    let poison := x.blocks.any (fun (_, loc, h) => !hdrZero h && s.badAt loc 64)
    ((x.blocks.filter (fun b => !hdrZero b.2.2)).foldl (fun s b => s.fillLines b.2.1 64) s).reply q (.row t r) v (BitVec.allOnes 256) poison fl
  | .strd x v rm gen =>
    let f := fmtOf x.fmt
    let vals := rowValues x.fmt (ftzOf rm) v
    let (s1, fl, _) := x.blocks.foldl (fun (acc : State × Flags × Word) b =>
      let (ds, g) := if f.draws && modeOf rm == .sr then srDraws acc.2.2 f.epb else ([], acc.2.2)
      let p := b.2.1.atHome
      let s0 := acc.1.recallLines b.2.1 64
      let (bs, fl) := rewriteBlock x.fmt rm false b.1 x.first vals ds (s0.readAt p 64)
      (if s0.badAt p 64 then s0.writePoisonAt p bs else s0.writeAt p bs, acc.2.1 ||| fl, g)) (s, 0, gen)
    s1.deliver { sid := q.sid, tag := q.tag, dest := .s 0, v := 0, sel := 0, poison := false, due := .wall s1.core.cyc, flags := fl }
  | .ack => s

/-- A refused request (R375, R405, R385): reads and atomics are delivered POISONED, stores dropped, the refusal logged
(notes/assumptions 21: DEDUCED). -/
def State.performRefused (s : State) (q : Req) : State :=
  let s1 := s.logRefusal q
  let all := BitVec.allOnes 256
  match q.op with
  | .load n dst => s1.replyLoad q dst (s1.freeBytes n) true
  | .atomic _ _ _ _ d =>
    if q.host then s1.answerHost q.sid .aborted
    else s1.reply q (.s d) (Config.freeRow s.choice) all true 0
  | .vamo op lanes t r _ got =>
    let (s2, vs, _) := s.performVamo q (!(s.otherDevice q.loc).any s.pkg.lost.elem) op lanes
    s2.reply q (.row t r) (BitVec.ofNat 2048 (vs + vamoGot got)) (vamoSel lanes ||| vamoGotSel got) true 0
  | .arrive _ d => s1.reply q (.s d) (Config.freeRow s.choice) all true 0
  | .ldrd _ t r _ _ => s1.reply q (.row t r) (Config.freeRow s.choice) all true 0
  | .note _ slot => s1.freeNote slot
  | _ => s1

/-- Whether a request stores without a reply, so that its acknowledgement follows. -/
def ReqOp.acks : ReqOp → Bool
  | .store _ => true
  | .strd _ _ _ _ => true
  | .note _ _ => true
  | _ => false

/-- Where a request is served; the lanes of a VAMO have homes of their own. -/
def State.servedReq (s : State) (q : Req) (refuse : Bool) : Option Phys :=
  match q.op with
  | .vamo _ _ _ _ _ _ => if refuse then none else some q.loc
  | _ => s.served q.loc q.op.needs.1 q.op.needs.2 refuse

/-- A pod-scope release has performed: the writes before it to tiles that may be leased need no further wait (R106). -/
def State.released (s : State) (q : Req) : State :=
  if q.rel = some 3 then
    { s with pkg := { s.pkg with podWrites := s.pkg.podWrites.filter (fun w => !(w.sid == q.sid && decide (w.tag < q.tag))) } }
  else s

/-- What performs at the own scratchpad by itself takes its bank: a pushed row, and an own access inside a window (R90). -/
def State.pushBank (s : State) (q : Req) : State :=
  let take := fun (s : State) (p : Phys) (n : Nat) => (s.takeBank p (if n ≤ 8 then 2 else 16)).getD s
  if q.push.isSome then take s (s.homeLoc q.loc) 256
  else (q.places.filter (fun x => s.ownSpad (s.homeLoc x.1) && !s.exposed (s.homeLoc x.1))).foldl (fun s x => take s (s.homeLoc x.1) x.2) s

/-- The launch of a strand. -/
def Strand.launched (x : Strand) (l : Launch) : Bool := l.lnch == x.lnch && l.part == x.part

/-- Recordings note the order of floating adds on a location (R416): of AFADD, and of each lane of a VAMO. -/
def State.faddTraced (s : State) (q : Req) : State :=
  let note := fun (s : State) (p : Phys) (b : Word) => match s.strandOf q.sid with
    | some x => s.traced x.launched 1 (leBytes 8 (s.homeLoc p).key0) (leBytes 8 b.toNat)
    | none => s
  match q.op with
  | .atomic 15 _ b _ _ => note s q.loc b
  | .vamo 7 lanes _ _ _ _ => lanes.foldl (fun s l => note s l.loc l.b) s
  | _ => s

/-- A request is performed at its home, or refused there; a write then waits for its acknowledgement, which comes within 1 ms of
its issue (R30) and which `now` says is counted at once. -/
def State.performReq (s : State) (q : Req) (refuse now : Bool) : State :=
  let s1 := match s.servedReq q refuse with
    | some p => ((s.pushBank q).performServed q p).faddTraced q
    | none => s.performRefused q
  let s2 : State := ({ s1 with pkg := { s1.pkg with reqs := s1.pkg.reqs.filter (fun r => r.tag != q.tag || r.sid != q.sid) } } : State).released q
  if q.op.acks && !now then
    let (due, s3) := s2.dueWithin q.limit
    { s3 with pkg := { s3.pkg with reqs := s3.pkg.reqs ++ [{ q with op := .ack, due := due }] } }
  else (s2.answered q.tag).pruneFences

/-- The `i`-th request with those before it. -/
def State.reqAt (s : State) (i : Nat) : Option (Req × List Req) := (s.pkg.reqs[i]?).map (fun q => (q, s.pkg.reqs.take i))

end Sys2Proof.Machine
end

