-- ==== Sys2Proof/Machine/Routine.lean ====
section
/-! DEFINITION. What a matrix call knows of its routine: the table entry, the tiles and permutation registers its steps name,
and a call read back from a save area (10 R230, R245, R250). -/

namespace Sys2Proof.Machine

/-- A tile operand's tile (R228); none for a scratchpad operand. -/
def maTile (v : Word) : Option (BitVec 4) := if v.getLsbD 63 then none else some (seg v 0 4)

/-- What the steps of a routine name (R245.3): the accumulator tile, the rows of tile OUT destinations, the permutation
registers, all tiles, and the first check that fails (R233, R242). -/
structure Scan where
  zeroM : Option (BitVec 3) := none
  acc : Option (BitVec 4) := none
  outs : List (Nat × BitVec 4 × Nat × Nat × BitVec 3) := []
  perms : List (BitVec 3) := []
  tiles : List (BitVec 4) := []
  err : Option (Nat × BitVec 8 × Option (BitVec 3)) := none

/-- An error at a step with the operand concerned (R248), unless an earlier one is known. -/
def Scan.fail (x : Scan) (q : Nat) (cause : BitVec 8) (m : BitVec 3) : Scan :=
  if x.err.isSome then x else { x with err := some (q, cause, some m) }

/-- A tile named. -/
def Scan.name (x : Scan) (t : Option (BitVec 4)) : Scan := { x with tiles := x.tiles ++ t.toList }

/-- An OUT format that a matrix OUT refuses (R242). -/
def outFormatBad (fmt : BitVec 4) : Bool := fmt == 12 || fmt == 3 || fmt == 7 || (fmtOf fmt).bits == 0

/-- One step of the scan; a word that is no step ends the call when it is reached. An OUT whose check fails names its rows all the same
(R245.5). -/
def Scan.step (ma : Vector Word 8) (x : Scan) (q : Nat) (w : Word) : Scan :=
  let tile := fun (m : BitVec 3) => maTile (ma.get m.toFin)
  match decodeStep w with
  | some (.zero m _) =>
    match x.zeroM with
    | none => match tile m with
      | some t => { x.name (some t) with zeroM := some m, acc := some t }
      | none => ({ x with zeroM := some m }).fail q 0x71 m
    | some m0 => if m = m0 then x else (x.name (tile m)).fail q 0x71 m
  | some (.lda m _ _ _ _) => x.name (tile m)
  | some (.ldb m _ _ _ _) => x.name (tile m)
  | some (.perm p) => { x with perms := x.perms ++ (if p = 0 || x.perms.elem p then [] else [p]) }
  | some (.out m fmt _ _ rf rc _) =>
    let y := x.name (tile m)
    let z := match tile m with
      | some t => { y with outs := y.outs ++ [(q, t, rf.toNat, min rc.toNat (63 - rf.toNat), m)] }
      | none => y
    if outFormatBad fmt then z.fail q 0x17 m else if 63 < rf.toNat + rc.toNat then z.fail q 0x70 m else z
  | _ => x

/-- The scan of `len` steps from `start`; an OUT into the accumulator tile is the last check (R242). -/
def State.scan (s : State) (ma : Vector Word 8) (start len : Nat) : Scan :=
  let x : Scan := (List.range len).foldl (fun (x : Scan) q => x.step ma q (s.core.steps.get (Fin.ofNat 4096 (start + q)))) {}
  match x.outs.find? (fun o => some o.2.1 == x.acc) with
  | none => x
  | some o =>
    match x.err with
    | some (q, _) => if o.1 < q then { x with err := some (o.1, 0x70, some o.2.2.2.2) } else x
    | none => { x with err := some (o.1, 0x70, some o.2.2.2.2) }

/-- Table entry `idx`: start and length, or none where it holds no routine (R230). -/
def State.routine (s : State) (idx : BitVec 8) : Option (Nat × Nat) :=
  let e := s.core.table.get idx.toFin
  let start := (seg e 0 12).toNat
  let len := (seg e 12 13).toNat
  if len = 0 ∨ 4096 < start + len then none else some (start, len)

/-- The rows of a tile as accumulator rows. -/
def accOf (q : Tile) (poison : Nat → Bool) : Vector AccRow 64 :=
  Vector.ofFn (fun (i : Fin 64) =>
    { v := Vector.ofFn (fun (j : Fin 64) => lane 32 (q.rows.get i).v j.val), poison := poison i.val })

/-- The rows that tile OUT steps name, once each. -/
def Scan.rows (x : Scan) : List (BitVec 4 × BitVec 6) :=
  let all := (x.outs.map (fun o => (List.range (o.2.2.2.1 + 1)).map (fun i => (o.2.1, BitVec.ofNat 6 (o.2.2.1 + i))))).flatten
  (all.filter (fun y => some y.1 != x.acc)).foldl (fun l y => if l.elem y then l else l ++ [y]) []

/-- An OUT row with its contents at issue. -/
def Ctx.outRow (c : Ctx) (y : BitVec 4 × BitVec 6) (written : Bool) : OutRow :=
  { t := y.1, r := y.2, v := (c.rowReg y.1 y.2).v, poison := (c.rowReg y.1 y.2).st == .poisoned && written, written := written }

/-- A strand's calls go with it: they are stopped at a boundary (R250). -/
def State.stopCalls (s : State) (sid : BitVec 40) : State :=
  let mine := fun (m : MCall) => m.sid == sid && !m.ended
  if s.core.calls.any mine then
    { s with
      core := { s.core with calls := s.core.calls.filter (fun m => !mine m) }
      pkg := { s.pkg with stopped := s.core.calls.filter mine ++ s.pkg.stopped.filter (fun m => m.sid != sid) } }
  else s

/-- A call stopped at CTXSAVE goes on where its strand stays in its context (R250, R349). -/
def State.resumeCalls (s : State) (sid : BitVec 40) : State :=
  let mine := fun (m : MCall) => m.sid == sid
  if s.pkg.stopped.any mine then
    { s with
      core := { s.core with calls := s.core.calls ++ s.pkg.stopped.filter mine }
      pkg := { s.pkg with stopped := s.pkg.stopped.filter (fun m => !mine m) } }
  else s

/-- A call read back from its save area (R250): it is queued again, with the routine of this core's store, and restages
before it goes on. What the area does not hold is that of the call that was stopped: the poison of its accumulator rows, its tag, the
snapshots taken at issue, what the checks of step 3 found, the status without F (R227, R246) (notes/assumptions 75: DEDUCED). -/
def State.callOfArea (s : State) (c : Ctx) (b : List Byte) : MCall :=
  let w0 := wordAt b 0
  let w3 := wordAt b 24
  let staging := fun (has : Bool) (w : Word) =>
    if has then some ((seg w 0 12).toNat, seg w 16 16, seg w 32 16) else none
  let obj := wordAt b 16
  let idx := seg w0 0 8
  let ma : Vector Word 8 := Vector.ofFn (fun i => wordAt b (96 + 8 * i.val))
  let (start, len) := (s.routine idx).getD (0, 0)
  let x := s.scan ma start len
  let old := s.pkg.stopped.find? (fun m => m.sid == c.sid && m.idx == idx)
  let poison := fun (i : Nat) => old.any (fun m => (m.acc.get (Fin.ofNat 64 i)).poison)
  { sid := c.sid
    tag := (old.map MCall.tag).getD s.pkg.tag
    idx := idx
    fl := seg w3 0 3
    obj := obj
    objAt := if obj = 0 then none else match s.checkAddr .s c.sc.satp .atomic 32 32 obj with
      | .ok p => some p
      | .error _ => none
    icore := seg w3 12 10
    ma := ma
    perms := (old.map MCall.perms).getD (Vector.ofFn (fun i => (c.pv (BitVec.ofNat 3 i.val)).v))
    tiles := (old.map MCall.tiles).getD c.t
    accTile := x.acc
    acc := match x.acc with
      | some t => accOf (c.tile t) poison
      | none => Vector.replicate 64 { v := Vector.replicate 64 0, poison := false }
    outs := (old.map MCall.outs).getD (x.rows.map (fun y => c.outRow y ((c.rowReg y.1 y.2).st != .empty)))
    named := x.tiles
    permsNamed := x.perms
    start := start
    len := len
    pre := if (s.routine idx).isNone then some (0, 0x72, none) else match old with
      | some m => m.pre
      | none => x.err
    step := (seg w0 8 12).toNat
    zr := w0.getLsbD 21
    ab := w0.getLsbD 24
    bb := w0.getLsbD 25
    dec := w0.getLsbD 26
    sp := w0.getLsbD 27
    order := (List.range 64).map (fun i => (b.getD (160 + i) 0).toNat % 64)
    kdone := (seg w0 28 11).toNat
    cnt := Vector.ofFn (fun i => BitVec.ofNat 16 (ofBytes ((b.drop (32 + 2 * i.val)).take 2)))
    pos := Vector.ofFn (fun i => (BitVec.ofNat 16 (ofBytes ((b.drop (64 + 4 * i.val)).take 2)),
      BitVec.ofNat 16 (ofBytes ((b.drop (66 + 4 * i.val)).take 2))))
    status := (old.map MCall.status).getD (wordAt b 8)
    flags := seg w3 8 4
    aAt := staging (w0.getLsbD 22) (wordAt b 40)
    bAt := staging (w0.getLsbD 23) (wordAt b 48)
    restage := true
    due := s.core.cyc + 1 }

/-- The rows a restored call will deliver are marked for it. -/
def State.callMarks (s : State) (c : Ctx) (m : MCall) : State :=
  let rows := (match m.accTile with
    | some t => (List.range 64).map (fun i => Dest.row t (BitVec.ofNat 6 i))
    | none => []) ++ m.outs.map (fun o => Dest.row o.t o.r)
  let new := rows.filter (fun d => c.isEmpty d && !s.pkg.marks.any (fun k => k.sid == m.sid && k.dest == d))
  { s with pkg := { s.pkg with
      marks := new.map (fun d => { sid := m.sid, tag := m.tag, dest := d }) ++ s.pkg.marks
      stopped := s.pkg.stopped.filter (fun k => k.sid != m.sid) } }

end Sys2Proof.Machine
end

