-- ==== Sys2Proof/Machine/Sched.lean ====
section
/-! DEFINITION. Strands, queues, keys, versions, aborts, context save, restore and dispatch (01 R9-R16, R27; 13 R295-R322,
R420; 19 R352-R354; 21 R394, R395). -/

namespace Sys2Proof.Machine

/-- How a word fares before it issues: it issues, giving the state with its effects queued; it raises a trap; it is held. -/
inductive Res where
  | ok (s : State)
  | trap (t : TrapInfo)
  | hold (w : HoldWhy)
  /-- held, after a first part of what it does (an AtomicOp sent, R270; tasks unpicked, R318) -/
  | wait (s : State) (w : HoldWhy)
  deriving DecidableEq, Repr

/-! ## Partitions and strands -/

/-- Change the strand with an id, wherever it stands. -/
def State.modStrand (s : State) (id : BitVec 40) (f : Strand → Strand) : State :=
  let g := fun (x : Strand) => if x.id == id then f x else x
  { s with
    cur := { s.cur with strand := s.cur.strand.map g }
    oth := { s.oth with strand := s.oth.strand.map g }
    pkg := { s.pkg with strands := s.pkg.strands.map g } }

/-- Remove the strand with an id from the tables; a context that held it becomes empty (its SREC and SIMG read 0). -/
def State.dropStrand (s : State) (id : BitVec 40) : State :=
  let g := fun (c : Ctx) => match c.strand with
    | some x => if x.id == id then
        { c with strand := none, pend := [], snap := [], held := [], level := .u, annul := 0, stuck := 0, repN := none, repEnd := none,
                 saving := none, sc := { c.sc with srec := 0, simg := 0 } }
      else c
    | none => c
  { s with
    cur := g s.cur
    oth := g s.oth
    pkg := { s.pkg with
      strands := s.pkg.strands.filter (fun x => x.id != id)
      marks := s.pkg.marks.filter (fun m => m.sid != id)
      dlvs := s.pkg.dlvs.filter (fun d => d.sid != id)
      fences := s.pkg.fences.filter (fun f => f.sid != id) } }

/-- Write the record of a strand that is not resident, or is about to be (R9, R16). -/
def State.writeRecord (s : State) (x : Strand) (pc npc nnpc : Word) (live : Nat) : State :=
  s.vwrite (s.partSatp x.part) x.recAddr (recordBytes x pc npc nnpc live)

/-- A strand joins a queue as READY: at its priority, from now on, after the others (R352, R353). -/
def State.enqueue (s : State) (id : BitVec 40) (place : Place) : State :=
  let s1 := s.modStrand id (fun x =>
    { x with state := .ready, place := place, level := x.prio, since := s.core.cyc, arr := s.pkg.arrNo })
  { s1 with pkg := { s1.pkg with arrNo := s1.pkg.arrNo + 1 } }

/-- Whether a strand is resident on the core. -/
def State.resident (s : State) (id : BitVec 40) : Bool :=
  s.cur.strand.any (fun x => x.id == id) || s.oth.strand.any (fun x => x.id == id)

/-- A saved strand with the priority, version and step bit that its record now holds (R9, R394, R399). -/
def State.asRecorded (s : State) (x : Strand) : Strand :=
  match s.vread (s.partSatp x.part) (x.recAddr + 40) 8 with
  | some b =>
    let w := wordAt b 0
    { x with prio := seg w 4 2, ver := seg w 6 2, stepping := w.getLsbD 18 }
  | none => x

/-- A strand becomes READY: a resident one stays in its context (R13); an ordered task goes to its cluster's queues, any
other to the die queue of the die on which it last ran (R352). -/
def State.makeReady (s : State) (id : BitVec 40) : State :=
  if s.resident id then s.modStrand id (fun x => { x with state := .ready })
  else
    let ord := (s.strandOf id).any (fun x => x.ord)
    let s1 := (s.modStrand id s.asRecorded).enqueue id (if ord then .cluQ s.cluster else .dieQ s.die)
    match s1.strandOf id with
    | some x => s1.touchRecord x
    | none => s1

/-- A new id from the core's sequence counter, which skips values held by live strands the core created (R11). -/
def State.findSeq (s : State) : Nat → BitVec 13 → Option (BitVec 13)
  | 0, _ => none
  | n + 1, q =>
    if s.strands.any (fun x => x.hasId && seg x.id 0 13 == q && seg x.id 13 10 == s.core.core
        && seg x.id 23 17 == s.core.device) then s.findSeq n (q + 1)
    else some q

/-- A new id, if one is free. -/
def State.newId (s : State) : Option (BitVec 40 × State) :=
  match s.findSeq 8192 s.core.seq with
  | none => none
  | some q => some (s.core.device ++ s.core.core ++ q, { s with core := { s.core with seq := q + 1 } })

/-! ## Keys (R296) -/

/-- Order of tiebreaks: a prefix sorts first. -/
def tbLess : List Nat → List Nat → Bool
  | [], [] => false
  | [], _ :: _ => true
  | _ :: _, [] => false
  | a :: x, b :: y => if a = b then tbLess x y else decide (a < b)

/-- Order of keys. -/
def keyLess (a b : TaskInfo) : Bool :=
  if a.ts ≠ b.ts then decide (a.ts.toNat < b.ts.toNat) else tbLess a.tb b.tb

/-- The key of a strand; a strand without one sorts nowhere. -/
def Strand.keyLess (a b : Strand) : Bool :=
  match a.task, b.task with
  | some x, some y => Machine.keyLess x y
  | _, _ => false

/-- The speculation domain of a strand: its launch, a number within its partition (R295). -/
def Strand.dom (x : Strand) : BitVec 36 := x.part ++ x.lnch

/-- The uncommitted ordered tasks of a domain (R295). -/
def State.domain (s : State) (d : BitVec 36) : List Strand := s.strands.filter (fun x => x.ord && x.dom == d && x.state != .exited)

/-- The oldest uncommitted task of a domain. -/
def State.oldest (s : State) (d : BitVec 36) : Option Strand := minBy Strand.keyLess (s.domain d)

/-- Whether a strand is the oldest ordered task of its domain. -/
def State.isOldest (s : State) (x : Strand) : Bool := (s.oldest x.dom).any (fun y => y.id == x.id)

/-- Whether a strand is a speculative ordered task (R310). -/
def State.speculative (s : State) (x : Strand) : Bool := x.ord && !s.isOldest x

/-- Whether the current context runs a speculative ordered task. -/
def State.curSpec (s : State) : Bool := s.cur.strand.any (fun x => s.speculative x)

/-! ## Versions (R304-R309) -/

/-- The stitch of a location: its 256-byte block. -/
def Phys.stitch (p : Phys) : Nat := p.key0 / 256

/-- The location of a stitch's first byte. -/
def Phys.stitchLoc (p : Phys) : Phys := { p with pa := (p.pa >>> 8) <<< 8 }

/-- The version of a stitch that a task reads: its own, or that of the task with the highest key below its own (R305). -/
def State.versionFor (s : State) (x : Strand) (stitch : Nat) : Option Version :=
  match s.pkg.versions.find? (fun v => v.stitch == stitch && v.tid == x.id) with
  | some v => some v
  | none =>
    let below := s.pkg.versions.filter (fun v => v.stitch == stitch &&
      (s.strandOf v.tid).any (fun y => y.dom == x.dom && Strand.keyLess y x))
    minBy (fun a b => match s.strandOf a.tid, s.strandOf b.tid with
      | some p, some q => Strand.keyLess q p
      | _, _ => false) below

/-- What a task reads at a stitch: the row and where it came from. Of a window tile it takes what a modified copy holds (R98, R100). -/
def State.stitchFor (s : State) (x : Strand) (loc : Phys) : Row × Option (BitVec 40) :=
  match s.versionFor x loc.stitch with
  | some v => (v.data, some v.tid)
  | none => (((s.recallCopy loc.stitchLoc false).homeTouch loc.stitchLoc false).rowAt loc.stitchLoc, none)

/-- The lines of a stitch, 0 to 3, that `n` bytes at a location touch. -/
def stitchLines (loc : Phys) (n : Nat) : List Nat :=
  let o := loc.pa.toNat % 256
  (List.range 4).filter (fun i => decide (o < 64 * i + 64) && decide (64 * i < o + n))

/-- Whether what a task reads there carries poison (R410). -/
def State.stitchBad (s : State) (x : Strand) (loc : Phys) (n : Nat) : Bool :=
  match s.versionFor x loc.stitch with
  | some v => (stitchLines loc n).any v.bad.elem
  | none => s.badAt loc n

/-- Whether what the task reads of its own version of the stitch carries poison: the error strikes the task (R319). -/
def State.ownBad (s : State) (x : Strand) (loc : Phys) (n : Nat) : Bool :=
  s.pkg.versions.any (fun v => v.stitch == loc.stitch && v.tid == x.id && (stitchLines loc n).any v.bad.elem)

/-- A tracked read of one stitch is recorded (R305). -/
def State.noteRead (s : State) (x : Strand) (loc : Phys) : State :=
  { s with pkg := { s.pkg with treads := { tid := x.id, stitch := loc.stitch, src := (s.stitchFor x loc).2 } :: s.pkg.treads } }

/-- The bytes a tracked read within one stitch returns. -/
def State.trackedBytes (s : State) (x : Strand) (loc : Phys) (n : Nat) : List Byte :=
  ((rowBytes (s.stitchFor x loc).1).drop (loc.pa.toNat % 256)).take n

/-! ## Aborts (R307, R308, R309) -/

/-- One round of the closure: what the aborted and discarded so far bring with them. -/
def State.closeOnce (s : State) (ab dis : List (BitVec 40)) : List (BitVec 40) × List (BitVec 40) :=
  let hit := fun id => ab.elem id || dis.elem id
  let dis' := (s.strands.filter (fun x => x.ord && x.state != .exited && !dis.elem x.id &&
    (x.task.any (fun t => t.parent.any hit)))).map Strand.id
  let ab' := (s.strands.filter (fun x => x.ord && x.state != .exited && !ab.elem x.id && !dis.elem x.id &&
    s.pkg.treads.any (fun r => r.tid == x.id && r.src.any (fun w => w != x.id && hit w)))).map Strand.id
  let d := dis ++ dis'
  ((ab ++ ab').filter (fun id => !d.elem id), d)

/-- The closure of an abort of the tasks `ab` and of a discard of the tasks `dis`: the tasks aborted and the tasks discarded
(R308). -/
def State.closure (s : State) (ab dis : List (BitVec 40)) : List (BitVec 40) × List (BitVec 40) :=
  (List.range (s.strands.length + 1)).foldl (fun x _ => s.closeOnce x.1 x.2) (ab, dis)

/-- The initial image: registers zero but s1, s2, s3, s28, every state FULL, RM (R302): its first 768 bytes. -/
def initialImage (s1 s2 s3 s28 rm : Word) : List Byte :=
  leBytes 8 (3 + 6144 * 2 ^ 32) ++ List.replicate 24 0 ++ leBytes 8 rm.toNat ++ List.replicate 216 0
    ++ leBytes 8 0 ++ leBytes 8 s1.toNat ++ leBytes 8 s2.toNat ++ leBytes 8 s3.toNat ++ List.replicate 192 0
    ++ leBytes 8 s28.toNat ++ List.replicate 24 0
    ++ List.replicate 32 255 ++ List.replicate 224 0

/-- Versions and tracked reads of a task are dropped. -/
def State.dropVersions (s : State) (id : BitVec 40) : State :=
  { s with pkg := { s.pkg with
      versions := s.pkg.versions.filter (fun v => v.tid != id)
      treads := s.pkg.treads.filter (fun r => r.tid != id) } }

/-- A context whose task ends its run is left empty: registers and deliveries are dropped, no image is saved (R309, R315). -/
def State.leave (s : State) (id : BitVec 40) : State :=
  match s.strandOf id with
  | none => s
  | some x =>
    let s1 := s.dropStrand id
    { s1 with
      core := { s1.core with calls := s1.core.calls.filter (fun m => m.sid != id) }
      pkg := { s1.pkg with strands := s1.pkg.strands ++ [x] } }

/-- The same for a task aborted or discarded, whose pending reads go too (R309). -/
def State.evict (s : State) (id : BitVec 40) : State :=
  let s1 := s.leave id
  { s1 with pkg := { s1.pkg with reqs := s1.pkg.reqs.filter (fun q => q.sid != id || (match q.op with
      | .load _ _ => false
      | .ldrd _ _ _ _ _ => false
      | _ => true)) } }

/-- What a task's next run is filled from: its initial image, or a root's template (R21, R302). -/
def TaskInfo.fill (t : TaskInfo) : Fill :=
  match t.root with
  | some (a, param) => .template a param
  | none => .initial

/-- A task is queued again from its spawn state (R302, R309). -/
def State.requeueTask (s : State) (id : BitVec 40) : State :=
  match s.strandOf id with
  | none => s
  | some x =>
    match x.task with
    | none => s
    | some t =>
      let sp := t.spawn
      let x1 : Strand := { x with
        state := if s.waitMet x then .ready else .new
        why := 0
        dfp := false
        dcause := 0
        wait := none
        level := x.prio
        since := s.core.cyc
        arr := s.pkg.arrNo
        fill := t.fill
        pc := sp.pc
        npc := fromOff sp.pc sp.npcOff
        nnpc := fromOff sp.pc sp.nnpcOff
        cross := []
        place := match x.place with
          | .cluQ c => .cluQ c
          | _ => .cluQ s.cluster
        task := some { t with
          spawned := 0
          slot := none
          irrev := false
          drop := false
          aborts := min 255 (t.aborts + 1)
          rset := []
          wset := [] } }
      let s1 := (s.evict id).dropVersions id
      let s2 := s1.modStrand id (fun _ => x1)
      let s3 := s2.writeRecord x1 x1.pc x1.npc x1.nnpc 0
      let s4 := if t.root.isSome then s3 else s3.vwrite (s.partSatp x.part) x.img (initialImage sp.s1 sp.s2 sp.s3 sp.s28 sp.rm)
      { s4 with pkg := { s4.pkg with arrNo := s4.pkg.arrNo + 1 } }

/-- A task is discarded: its record reads EXITED with why 0, and it is gone (R308). -/
def State.discard (s : State) (id : BitVec 40) : State :=
  match s.strandOf id with
  | none => s
  | some x =>
    let x1 : Strand := { x with state := .exited, why := 0 }
    let s1 := s.writeRecord x1 x.pc x.npc x.nnpc 0
    ((s1.evict id).dropVersions id).dropStrand id

/-- The tasks of an abort's closure are aborted and discarded (R308). -/
def State.abort (s : State) (seed : List (BitVec 40)) : State :=
  let (ab, dis) := s.closure seed []
  let s1 := dis.foldl State.discard s
  ab.foldl State.requeueTask s1

/-- A task writes a stitch: every later task that read a value this write changes is aborted (R307). -/
def State.conflicts (s : State) (w : Strand) (stitch : Nat) : List (BitVec 40) :=
  (s.pkg.treads.filter (fun r => r.stitch == stitch && r.tid != w.id &&
    (s.strandOf r.tid).any (fun x => x.dom == w.dom && Strand.keyLess w x) &&
    (match r.src with
      | none => true
      | some v => v == w.id || (s.strandOf v).any (fun y => Strand.keyLess y w)))).map TRead.tid

/-- A candidate of R420: a task of another domain, neither the oldest of its own nor irrevocable. The one that took its
slot last comes first. -/
def State.foreignCandidate (s : State) (x : Strand) : Option Strand :=
  let l := s.strands.filter (fun y => y.ord && y.dom != x.dom && y.state != .exited &&
    !s.isOldest y && y.task.any (fun t => t.slot.isSome && !t.irrev))
  minBy (fun a b => match a.task, b.task with
    | some p, some q => decide ((q.slot.getD 0) < (p.slot.getD 0))
    | _, _ => false) l

/-- The highest-keyed speculative task of a domain above a task, among those `ok` admits. -/
def State.highestAbove (s : State) (x : Strand) (ok : Strand → Bool) : Option Strand :=
  minBy (fun a b => Strand.keyLess b a)
    ((s.domain x.dom).filter (fun y => Strand.keyLess x y && s.speculative y && ok y))

/-- Versions are freed until `need` are free beyond those in use, or no task may be unpicked (R318, R420). -/
def State.freeVersions (s : State) (x : Strand) (need : Nat) : Nat → State
  | 0 => s
  | fuel + 1 =>
    if s.pkg.versions.length + need ≤ 4096 then s
    else
      match s.highestAbove x (fun y => y.task.any (fun t => t.slot.isSome)) with
      | some y => (s.abort [y.id]).freeVersions x need fuel
      | none =>
        if s.isOldest x then
          match s.foreignCandidate x with
          | some y => (s.abort [y.id]).freeVersions x need fuel
          | none => s
        else s

/-- Write bytes of one stitch into a task's version of it, whose lines keep the poison of what they were copied from but for those that
the bytes are all of (R306, R410); an injection in the version buffer may meet it (R415). -/
def State.putVersion (s : State) (x : Strand) (loc : Phys) (bs : List Byte) : State :=
  let old := rowBytes (s.stitchFor x loc).1
  let new := rowOf (spliceBytes old (loc.pa.toNat % 256) bs)
  let o := loc.pa.toNat % 256
  let bad := (List.range 4).filter (fun i => s.stitchBad x (loc.stitchLoc.plus (64 * i)) 64
    && !(decide (o ≤ 64 * i) && decide (64 * i + 64 ≤ o + bs.length)))
  let v : Version := { tid := x.id, stitch := loc.stitch, loc := loc.stitchLoc, data := new, bad := bad }
  ({ s with pkg := { s.pkg with
      versions := v :: s.pkg.versions.filter (fun y => !(y.tid == x.id && y.stitch == loc.stitch)) } } : State).injectIn (· == 8) loc bs.length

/-- A tracked write within one stitch (R306, R307, R318). -/
def State.trackedWrite (s : State) (x : Strand) (loc : Phys) (ea : Word) (bs : List Byte) : Res :=
  let own := s.pkg.versions.any (fun v => v.tid == x.id && v.stitch == loc.stitch)
  let go := fun (s : State) =>
    let s1 := if !own && bs.length < 256 then s.noteRead x loc else s
    let cs := s1.conflicts x loc.stitch
    let s2 := s1.putVersion x loc bs
    .ok (if cs.isEmpty then s2 else s2.abort cs)
  if own then go s
  else if s.isOldest x then
    let s1 := s.freeVersions x 1 (s.strands.length + 1)
    if s1.pkg.versions.length + 1 ≤ 4096 then go s1
    else .trap ⟨cUndeclared, (ea &&& 0x00FFFFFFFFFFFFFF) ||| (1 <<< 63)⟩
  else
    let s1 := s.freeVersions x 257 (s.strands.length + 1)
    if s1.pkg.versions.length + 257 ≤ 4096 then go s1 else .wait s1 .version

/-! ## Set ranges (R300, R304) -/

/-- Whether a tile address lies in a range. -/
def SetRange.has (r : SetRange) (tile : Nat) : Bool :=
  let b := r.base.toNat / 16384
  let st := if r.stride = 0 then 1 else r.stride
  decide (b ≤ tile) && (tile - b) % st == 0 && decide ((tile - b) / st < r.count)

/-- Whether a virtual address lies in a set. -/
def inSet (l : List SetRange) (va : Word) : Bool := l.any (fun r => r.has (va.toNat / 16384))

/-- The ranges of a set descriptor's 128 bytes, bases rounded down (R300). -/
def rangesOf (b : List Byte) : List SetRange :=
  ((List.range 8).map (fun i =>
    { base := alignDown (wordAt b (16 * i)) 14
      count := (half32At b (16 * i + 8)).toNat
      stride := (half32At b (16 * i + 12)).toNat : SetRange })).filter (fun r => r.count != 0)

/-! ## Save (R14, R394) -/

/-- A context after its strand has left it. -/
def Ctx.vacated (c : Ctx) : Ctx :=
  { c with strand := none, pend := [], snap := [], held := [], level := .u, annul := 0, stuck := 0, why := .none,
           hostOp := none, bmHold := false, lone := none, tlbHold := false, saved := false, loaded := false, saving := none, fpHold := none, repN := none, repEnd := none,
           stepDue := false, start := false, line := false, noBreak := false,
           sc := { c.sc with srec := 0, simg := 0 } }

/-- Whether a strand's save may complete: every store of it is performed at package scope, its out-bound streams drained; writes
to homes on other devices go on, and with them their acknowledgements (R14, R111, R394). -/
def State.savable (s : State) (sid : BitVec 40) : Bool :=
  !s.pkg.reqs.any (fun q => q.sid == sid && q.op.isWrite && q.op != .ack && (s.withinPackage q.loc || q.push.isSome))

/-- The offset in a saved image of the slot of tile `n`; of number 16, the end of the tile slots (R54, R56). -/
def State.imgSlot (s : State) (satp img : Word) (n : Nat) : Nat :=
  let live := ofBytes ((s.vread satp (img + 8) 2).getD [])
  let sizeAt := fun (i : Nat) =>
    if (half32At ((s.vread satp (img + w64 (1344 + 8 * i)) 4).getD []) 0).getLsbD 9 then 20736 else 16640
  6144 + ((List.range n).filter (fun j => live.testBit j)).foldl (fun a j => a + sizeAt j) 0

/-- The out-bound stream of a tile in a saved image: its number, the address of its slot, its state. -/
def State.slotStream (s : State) (satp img : Word) (t : BitVec 4) : Option (Fin 4 × Word × Stream) :=
  let bound := ofBytes ((s.vread satp (img + 10) 1).getD []) % 16
  let at_ := fun (k : Nat) => img + w64 (s.imgSlot satp img 16 + 2304 * ((List.range k).filter (fun j => bound.testBit j)).length)
  ((List.finRange 4).filter (fun k => bound.testBit k.val)).findSome? (fun k =>
    let x := streamOfSlot s.core.cyc s.pkg.tag ((s.vread satp (at_ k.val) 2304).getD [])
    if x.bound && x.out && x.tile == t then some (k, at_ k.val, x) else none)

/-- A row delivered into a saved image is pushed as one delivered into a register is, from the stream's slot (R110, R111, R395). -/
def State.slotPush (s : State) (satp img : Word) (d : Dlv) : State :=
  match d.dest with
  | .row t r =>
    match (if d.pushes then s.slotStream satp img t else none) with
    | none => s
    | some (k, a, x) =>
      if x.exhausted then s.vwrite satp a { x with ovr := true }.slotBytes
      else
        let v := (s.vread satp (img + w64 (s.imgSlot satp img t.toNat + 256 * r.toNat)) 256).getD []
        let s1 := match s.checkAddr .u satp .rowStore 256 256 x.addr with
          | .ok p =>
            let (tag, s1) := s.newTag
            s1.send { sid := d.sid, tag := tag, op := .store v, loc := p, va := x.addr, due := 0, push := some k, old := true }
          | .error _ => s
        s1.vwrite satp a { x.next with done := x.done + 1 }.slotBytes
  | _ => s

/-- Deliveries held for a context that is being saved go to the image slots (R15, R395): the value and the full bit. -/
def State.slotDeliver (s : State) (satp img : Word) (x : Dlv) : State :=
  let st := if x.poison then 3 else 0
  let codeAt := fun (s : State) (a : Word) (i : Nat) =>
    match s.vread satp a 1 with
    | some [b] =>
      let sh := 2 * (i % 4)
      s.vwrite satp a [BitVec.ofNat 8 ((b.toNat &&& (255 - 3 * 2 ^ sh)) + st * 2 ^ sh)]
    | _ => s
  match x.dest with
  | .s r => codeAt (s.vwrite satp (img + w64 (256 + 8 * r.toNat)) (leBytes 8 x.v.toNat)) (img + w64 (16 + r.toNat / 4)) r.toNat
  | .p r => codeAt (s.vwrite satp (img + w64 (768 + 64 * r.toNat)) (leBytes 44 x.v.toNat)) (img + w64 (24 + r.toNat / 4)) r.toNat
  | .row t r =>
    let off := s.imgSlot satp img t.toNat
    let old := rowOf ((s.vread satp (img + w64 (off + 256 * r.toNat)) 256).getD [])
    codeAt (s.vwrite satp (img + w64 (off + 256 * r.toNat)) (rowBytes (blend old x.v x.sel)))
      (img + w64 (off + 16384 + r.toNat / 4)) r.toNat
  | _ => s

/-- A mark is taken off by its delivery, and with it those of earlier producers of the register, whose values would come too
late (R42). -/
def State.takeMark (s : State) (d : Dlv) : State :=
  { s with pkg := { s.pkg with
      marks := s.pkg.marks.filter (fun m => !(m.sid == d.sid && decide (m.tag ≤ d.tag) && m.dest == d.dest)) } }

/-- Flags that come with a delivery are ORed into the FFL of a saved image (R260). -/
def State.slotFlags (s : State) (satp img : Word) (f : BitVec 6) : State :=
  if f = 0 then s else match s.vread satp (img + 40) 1 with
    | some [b] => s.vwrite satp (img + 40) [b ||| f.setWidth 8]
    | _ => s

/-- A delivery for a saved image: its flags, and its value into its slot with the push of an out-bound row, if the register still waits
for it (R15, R110, R390, R395). -/
def State.toSlot (s0 : State) (satp img : Word) (d : Dlv) : State :=
  let s := s0.slotFlags satp img d.flags
  if s.marked d.sid d.tag d.dest then ((s.slotDeliver satp img d).slotPush satp img d).takeMark d else s

/-- What a row of an out-bound tile leaves in its resident stream when it is pushed from a saved image (R110, R349). -/
def Ctx.pushedBy (c : Ctx) (d : Dlv) : Ctx :=
  match d.dest with
  | .row t _ => match (if d.pushes then c.streamOf true t else none) with
    | some k => c.modStream k (fun x => if x.exhausted then { x with ovr := true }
        else { x.next with done := x.done + 1, locs := x.locs.filter (fun l => l.1 != x.addr) })
    | none => c
  | _ => c

/-- A delivery for the strand under an S context that has saved it: into the image slot, if the register waited for it when it was saved;
after a CTXLOAD, which has brought the register back EMPTY, it is held for SRET too (R349, R390). The second result is the context. -/
def State.toSaved (s0 : State) (c0 : Ctx) (d : Dlv) : State × Ctx :=
  let s := s0.slotFlags c0.sc.satp c0.sc.simg d.flags
  let c := if c0.loaded then { c0 with u := { c0.u with ffl := c0.u.ffl ||| d.flags.setWidth 64 } } else c0
  if c.sMarks.any (fun m => m.sid == d.sid && m.tag == d.tag && m.dest == d.dest) then
    let s1 := (s.slotDeliver c.sc.satp c.sc.simg d).slotPush c.sc.satp c.sc.simg d
    let c1 := { c with sMarks := c.sMarks.filter (fun m => !(m.sid == d.sid && decide (m.tag ≤ d.tag) && m.dest == d.dest)) }.pushedBy d
    if c.loaded && s.marked d.sid d.tag d.dest then (s1, { c1 with held := c1.held ++ [{ d with pushes := false }] })
    else (s1.takeMark d, c1)
  else (s, c)

/-- The image and the record of the strand of a context are written, with a state and why; the strand is then not resident (R394).
A call of the matrix unit goes with it (R250). -/
def State.saveNow (s : State) (other : Bool) (st : StState) (why : BitVec 8) (place : Place) : State :=
  let c := (if other then s.oth else s.cur).endDropped
  match c.strand with
  | none => s
  | some x =>
    let s2 := s.writeImage c x.img c.pend
    let s3 := c.held.foldl (fun s d => s.toSlot c.sc.satp x.img d) s2
    let x1 : Strand := { x with
      state := st, why := why, place := place, fill := .image, pc := c.pc, npc := c.npc, nnpc := c.nnpc,
      level := x.prio, since := s.core.cyc, arr := s.pkg.arrNo }
    let s4 := s3.writeRecord x1 c.pc c.npc c.nnpc c.liveMask
    let s5 := if other then { s4 with oth := c.vacated } else { s4 with cur := c.vacated }
    let s6 := s5.stopCalls x.id
    { s6 with
      pkg := { s6.pkg with
        strands := s6.pkg.strands ++ [x1]
        arrNo := s6.pkg.arrNo + 1
        reqs := s6.pkg.reqs.map (fun q => if q.sid == x.id then { q with old := true } else q) } }

/-- The stores that a save waits for come to their homes soon enough for the strand that waits for the context to keep to the bound of
R27 (notes/assumptions 9, 96: DEDUCED). -/
def State.hurry (s : State) (sid : BitVec 40) : State :=
  { s with pkg := { s.pkg with reqs := s.pkg.reqs.map (fun q =>
      if q.sid == sid && q.op.isWrite && q.op != .ack then { q with due := min q.due (s.core.cyc + 8192) } else q) } }

/-- The context engine saves the strand of a context with a state and why: at once, or when its stores permit (R14, R394). What is
in flight stays as the snapshot, and deliveries are held until then (R395). -/
def State.saveCtx (s : State) (other : Bool) (st : StState) (why : BitVec 8) (place : Place) : State :=
  let c := if other then s.oth else s.cur
  match c.strand with
  | none => s
  | some x =>
    if s.savable x.id then s.saveNow other st why place
    else
      let c1 : Ctx := { c.modStrand (fun x => { x with state := st, why := why }) with saving := some (st, why, place) }
      (if other then { s with oth := c1 } else { s with cur := c1 } : State).hurry x.id

/-- A save that waited completes; a strand that has been woken, or whose result has come, meanwhile is READY (R15, R28). -/
def State.finishSave (s : State) (other : Bool) : State :=
  let c := if other then s.oth else s.cur
  match c.saving, c.strand with
  | some (st, why, place), some x =>
    let waits := st == .parked || st == .reply
    let back := (waits && x.state == .ready) || (st == .reply && c.held.any (fun d => s.marked d.sid d.tag d.dest))
    let s1 := s.saveNow other st why place
    if back then s1.makeReady x.id else s1
  | _, _ => s

/-- Whether a save that waited may complete. -/
def State.saveDue (s : State) (c : Ctx) : Bool := c.saving.isSome && s.savable c.sid

/-! ## Suspension of the running strand (R12, R13) -/

/-- The running strand stops being able to issue: it stays in its context with a state and why. -/
def State.suspend (s : State) (st : StState) (why : BitVec 8) : State :=
  s.modCur (fun c => { c.endDropped.modStrand (fun x =>
    { x with state := st, why := why, since := s.core.cyc }) with stuck := 0, why := .none, fpHold := none, repN := none })

/-- The core switches to its other resident context: 4 issue cycles in which no bundle issues (R13). -/
def State.switch (s : State) : State :=
  { s with
    cur := { s.oth.modStrand (fun x => { x with state := .running }) with resumed := true }
    oth := s.cur
    core := { s.core with switching := 4, curNo := !s.core.curNo } }

/-! ## Dispatch (R13, R317, R354) -/

/-- The cores of a partition within the core's cluster, as bits. -/
def State.clusterCores (s : State) (n : BitVec 4) : BitVec 8 :=
  match s.part n with
  | some p => (p.cores >>> (8 * s.cluster.toNat)).setWidth 8
  | none => 0

/-- Whether an entry goes to another core of the cluster: its last run met an uncorrectable error on this one, and the partition
has another (R319). -/
def State.shuns (s : State) (x : Strand) : Bool :=
  x.task.any (fun t => t.failed == some s.core.core) && s.clusterCores x.part &&& ~~~((1 : BitVec 8) <<< (seg s.core.core 0 3).toNat) != 0

/-- Whether the core may take an entry at all: in its cluster's queues, of its partition, READY, its launch not torn
down. -/
def State.queued (s : State) (x : Strand) : Bool :=
  x.state == .ready && x.place == .cluQ s.cluster && s.core.inPart == some x.part
    && !(s.part x.part).any (fun p => p.preempted) && !s.pkg.launches.any (fun l => l.lnch == x.lnch && l.part == x.part && l.phase == .torn)
    && !(s.shuns x)

/-- The level at which an entry stands: arrival handlers at 3 (R353). -/
def Strand.qLevel (x : Strand) : Nat := if x.handler then 3 else x.level.toNat

/-- The order in which entries are taken (R353, R316): level, handlers first, ordered tasks by key, arrival. -/
def takenBefore (a b : Strand) : Bool :=
  if a.qLevel ≠ b.qLevel then decide (b.qLevel < a.qLevel)
  else if a.handler ≠ b.handler then a.handler
  else if a.ord ≠ b.ord then a.ord
  else if a.ord then Strand.keyLess a b || (!Strand.keyLess b a && decide (a.arr < b.arr))
  else decide (a.arr < b.arr)

/-- The number of task slots in use in the cluster (R317). -/
def State.slotsUsed (s : State) : Nat := (s.strands.filter (fun x => x.task.any (fun t => t.slot.isSome))).length

/-- Whether a READY ordered task can have a slot, by itself or by unpicking (R317, R420). -/
def State.slotFor (s : State) (x : Strand) : Bool :=
  !x.ord || x.task.any (fun t => t.slot.isSome) || decide (s.slotsUsed < 256)
    || (s.highestAbove x (fun y => y.task.any (fun t => t.slot.isSome))).isSome
    || (s.isOldest x && (s.foreignCandidate x).isSome)

/-- The entry the core takes next for a context with this PMASK, if any (R13, R353). -/
def State.nextEntry (s : State) (pmask : Word) : Option Strand :=
  minBy takenBefore (s.pkg.strands.filter (fun x => s.queued x && s.slotFor x &&
    (x.handler || pmask.getLsbD x.qLevel)
    && (x.hasId || (s.findSeq 8192 s.core.seq).isSome)
    && (!(x.task.any (fun t => t.onlyOldest)) || s.isOldest x)))

/-- The context that will hold an incoming strand: the empty one, or that of the resident that has been resident longer
(R13). True: the other context. -/
def State.incomingOther (s : State) : Bool :=
  match s.cur.strand, s.oth.strand with
  | none, _ => false
  | some _, none => true
  | some _, some _ => decide (s.oth.since < s.cur.since)

/-- A task takes a slot, unpicking if none is free (R317, R420). -/
def State.takeSlot (s : State) (x : Strand) : State :=
  if !x.ord || x.task.any (fun t => t.slot.isSome) then s
  else
    let s1 :=
      if s.slotsUsed < 256 then s
      else match s.highestAbove x (fun y => y.task.any (fun t => t.slot.isSome)) with
        | some y => s.abort [y.id]
        | none => match s.foreignCandidate x with
          | some y => s.abort [y.id]
          | none => s
    let s2 := s1.modStrand x.id (fun y => { y with task := y.task.map (fun t => { t with slot := some s1.pkg.slotNo }) })
    { s2 with pkg := { s2.pkg with slotNo := s2.pkg.slotNo + 1 } }

/-- The sets in force for a run, read at its dispatch (R300). -/
def State.readSets (s : State) (x : Strand) : State :=
  if x.ord then
    let rd := fun (a : Word) => if a = 0 then [] else rangesOf ((s.vread (s.partSatp x.part) a 128).getD [])
    s.modStrand x.id (fun y => { y with task := y.task.map (fun t => { t with rset := rd x.rset, wset := rd x.wset }) })
  else s

/-- The registers of an empty template or of an initial image beyond its first part: FULL and zero (R57, R302). -/
def Ctx.cleared (c : Ctx) : Ctx :=
  { c with
    s := Vector.replicate 32 {}
    t := Vector.replicate 16 {}
    k := Vector.replicate 8 0
    p := Vector.replicate 8 {}
    ma := Vector.replicate 8 0
    u := {}
    streams := Vector.replicate 4 {}
    pend := []
    snap := [] }

/-- The registers a strand is dispatched with. -/
def State.filled (s : State) (c : Ctx) (x : Strand) : Ctx :=
  match x.fill with
  | .image => s.ctxOfImage c x.img false
  | .initial =>
    let f := (s.vread c.sc.satp x.img 768).getD (List.replicate 768 0)
    let sst := ofBytes ((f.drop 16).take 8)
    { c.cleared with
      s := Vector.ofFn (fun i =>
        if i.val = 0 then {} else { v := wordAt f (256 + 8 * i.val), st := RegState.ofCode (sst / 4 ^ i.val % 4) })
      k := Vector.ofFn (fun i => BitVec.ofNat 256 (ofBytes ((f.drop (512 + 32 * i.val)).take 32)))
      u := { rm := ucsrMask 6 (wordAt f 32) } }
  | .template a param =>
    let c1 := if a = 0 then c.cleared else s.ctxOfImage c a true
    { c1 with s := c1.s.set 28 { v := param, st := .full } }

/-- A strand as its record gives it at a dispatch, where the device can read and write the record (R299, R394). -/
def State.reread (s : State) (x : Strand) : Strand :=
  match s.checkRange .s (s.partSatp x.part) .store x.recAddr 64, s.vread (s.partSatp x.part) x.recAddr 64 with
  | .ok _, some b =>
    let v := recView b
    { x with pc := v.pc, npc := v.npc, nnpc := v.nnpc, img := v.img, stepping := v.w5.getLsbD 18, ver := seg v.w5 6 2, rset := v.rset, wset := v.wset }
  | _, _ => x

/-- Whether the image or template a strand is to be filled from carries poison (R57, R319, R396). -/
def State.imageBad (s : State) (x : Strand) : Bool :=
  let satp := s.partSatp x.part
  let (a, n) : Word × Nat := match x.fill with
    | .image => (x.img, ofBytes ((s.vread satp (x.img + 4) 4).getD []))
    | .initial => (x.img, 768)
    | .template a _ => (a, if a = 0 then 0 else ((s.vread satp a 6144).map templateSize).getD 0)
  match s.checkRange .s satp .load a n with
  | .ok l => l.any (fun y => s.badAt y.1 y.2)
  | .error _ => false

/-- The core takes a strand into one of its contexts (R13, R317, R354), spilling the resident there, whose save may complete; a
launch root gets its id now (R11). A strand that goes to the other context is switched to. -/
def State.dispatchStrand (s : State) (x00 : Strand) : State :=
  let x0 := s.reread x00
  let other := s.incomingOther
  let s0 := (s.modStrand x0.id (fun _ => x0)).takeSlot x0
  let c0 := if other then s0.oth else s0.cur
  let s1 := match c0.strand with
    | none => s0
    | some r =>
      s0.saveNow other (if r.state == StState.running then StState.ready else r.state) r.why
        (if r.state == StState.ready || r.state == StState.running then .cluQ s.cluster else .off)
  let (x1, s2) :=
    if x0.hasId then (x0, s1)
    else match s1.newId with
      | some (id, s') => ({ x0 with id := id, hasId := true }, s')
      | none => (x0, s1)
  let s3 := (s2.modStrand x0.id (fun y => { y with id := x1.id, hasId := x1.hasId })).readSets x1
  let x := ((s3.strandOf x1.id).getD x1)
  let c := if other then s3.oth else s3.cur
  let c1 := s3.filled c x
  let run : Strand := { x with state := .running, fill := .image, place := .off, frame := x.frame }
  let keep := c1.snap
  let c2 : Ctx := { c1 with
    strand := some run
    pc := x.pc
    npc := x.npc
    nnpc := x.nnpc
    annul := 0
    level := .u
    pend := keep
    snap := []
    held := []
    saved := false
    stuck := 0
    why := .none
    fpHold := none
    hostOp := none
    bmHold := false
    tlbHold := false
    noBreak := x.why == 9
    start := true
    resumed := true
    line := false
    since := s.core.cyc
    sc := { c.sc with srec := x.recAddr, simg := x.img, qcnt := 0 } }
  let call := match x.fill with
    | .image => (s3.matrixArea c.sc.satp x.img).map (s3.callOfArea c2)
    | _ => none
  let s3m := match call with
    | some m => s3.callMarks c2 m
    | none => s3
  let s4 : State := { s3m with
    pkg := { s3m.pkg with strands := s3m.pkg.strands.filter (fun y => y.id != x.id) }
    core := { s3m.core with calls := s3m.core.calls ++ call.toList } }
  let s5 := if other then { s4 with oth := c2 } else { s4 with cur := c2 }
  let s6 := s5.writeRecord run x.pc x.npc x.nnpc c2.liveMask
  if other then s6.switch else s6

/-! ## Ends of strands (R183, R315) -/

/-- A strand or an unordered task ends: the record reads EXITED; its frame, results and deliveries go (R183, R421). -/
def State.exitStrand (s : State) (x : Strand) (c : Ctx) (why : BitVec 8) : State :=
  let x1 : Strand := { x with state := .exited, why := why }
  let s1 := s.writeRecord x1 c.pc c.npc c.nnpc c.liveMask
  let s2 := s1.dropStrand x.id
  match x.frame with
  | none => s2
  | some f => { s2 with core := { s2.core with frames := s2.core.frames.filter (fun g => g != f) } }

/-- The seam of a domain as of the last pulse (R314). -/
def State.cfr (s : State) (d : BitVec 36) : Word :=
  match s.pkg.seam.find? (fun x => x.1 == d) with
  | some x => x.2
  | none => BitVec.allOnes 64

/-- The seam of a domain is taken anew from its oldest task. -/
def State.moveSeam (s : State) (d : BitVec 36) : State :=
  let v := match s.oldest d with
    | some x => (x.task.map TaskInfo.ts).getD (BitVec.allOnes 64)
    | none => BitVec.allOnes 64
  { s with pkg := { s.pkg with seam := (d, v) :: s.pkg.seam.filter (fun x => x.1 != d) } }

/-- A version goes to its home (R313), with the poison its lines carry (R319, R410); the write is one of the task for releases (R106). -/
def State.publish (s : State) (v : Version) : State :=
  let s1 := (((s.recallCopy v.loc true).homeTouch v.loc true).dropCopies [v.loc]).notePodWrite v.tid s.pkg.tag v.loc
  (List.range 4).foldl (fun s i =>
    let bs := ((rowBytes v.data).drop (64 * i)).take 64
    if v.bad.elem i then s.writePoisonAt (v.loc.plus (64 * i)) bs else s.writeAt (v.loc.plus (64 * i)) bs) s1

/-- The tasks a committed one has spawned no longer hang on it: its id may come again (R11, R308). -/
def State.forgetParent (s : State) (id : BitVec 40) : State :=
  let f := fun (x : Strand) => { x with task := x.task.map (fun t => { t with parent := t.parent.filter (fun p => p != id) }) }
  { s with
    cur := { s.cur with strand := s.cur.strand.map f }
    oth := { s.oth with strand := s.oth.strand.map f }
    pkg := { s.pkg with strands := s.pkg.strands.map f } }

/-- A DONE task commits (R313), or is dropped with its descendants as TABORT marked it, and what read their versions is aborted
(R308, R320). What read a version of a task that commits has read committed memory from now on (R307). -/
def State.commit (s : State) (x : Strand) : State :=
  if x.task.any (fun t => t.drop) then
    let (ab, dis) := s.closure [] [x.id]
    ab.foldl State.requeueTask (dis.foldl State.discard s)
  else
    let mine := s.pkg.versions.filter (fun v => v.tid == x.id)
    let s1 := mine.foldl State.publish s
    let s2 := s1.dropVersions x.id
    let x1 : Strand := { x with state := .exited, why := 8 }
    let s3 := (s2.writeRecord x1 x.pc x.npc x.nnpc 0).orEvents x.setMask
    let s4 := ((s3.modStrand x.id (fun y => { y with state := .exited })).dropStrand x.id).forgetParent x.id
    { s4 with pkg := { s4.pkg with treads := s4.pkg.treads.map (fun r => if r.src == some x.id then { r with src := none } else r) } }

/-- A domain commits its DONE tasks in key order (R313): at most as many as it holds. A commit is a release at package scope: it
waits for the accesses of the task that are still on their way (R120, R136). -/
def State.commitDomain (s : State) (d : BitVec 36) : Nat → State
  | 0 => s
  | n + 1 =>
    match s.oldest d with
    | none => s
    | some x => if x.state == .done && !s.releaseWaits x.id s.pkg.tag 2 then (s.commit x).commitDomain d n else s

/-! ## Deliveries reach their strand (R15, R42, R390, R395) -/

/-- A delivery into a context: the register FULL or POISONED, with the flags that come with it (R260). -/
def Ctx.receive (c : Ctx) (now : Nat) (d : Dlv) : Ctx :=
  let c1 := c.put now d.dest d.v d.sel d.poison
  { c1 with u := { c1.u with ffl := c1.u.ffl ||| d.flags.setWidth 64 } }

/-- The two contexts change places. -/
def State.swapped (s : State) : State := { s with cur := s.oth, oth := s.cur }

/-- A delivered row of an out-bound tile is pushed (R110). -/
def State.pushDelivered (s : State) (other : Bool) (d : Dest) : State :=
  match d with
  | .row t r => if other then (s.swapped.pushStream t r).swapped else s.pushStream t r
  | _ => s

/-- A delivery arrives. -/
def State.arrive (s : State) (d : Dlv) : State :=
  let toCtx := fun (s : State) (other : Bool) =>
    let c := if other then s.oth else s.cur
    let set := fun (s : State) (c : Ctx) => if other then { s with oth := c } else { s with cur := c }
    if c.level == .s && d.tag < c.sTag then
      if c.saved then
        let (s1, c1) := s.toSaved c d
        set s1 c1
      else if s.marked d.sid d.tag d.dest then set s { c with held := c.held ++ [d] }
      else set s { c with u := { c.u with ffl := c.u.ffl ||| d.flags.setWidth 64 } }
    else if c.saving.isSome then
      let c1 : Ctx := { c with u := { c.u with ffl := c.u.ffl ||| d.flags.setWidth 64 } }
      set s { c1 with held := if s.marked d.sid d.tag d.dest then c.held ++ [d] else c.held }
    else if s.marked d.sid d.tag d.dest then
      let s1 := (set s (c.receive s.core.cyc d)).takeMark d
      let s2 := if d.pushes then s1.pushDelivered other d.dest else s1
      if c.strand.any (fun x => x.state == .reply) && d.dest.real then s2.makeReady d.sid else s2
    else set s { c with u := { c.u with ffl := c.u.ffl ||| d.flags.setWidth 64 } }
  if s.cur.sid == d.sid then toCtx s false
  else if s.oth.sid == d.sid then toCtx s true
  else match s.strandOf d.sid with
    | none => s
    | some x =>
      if x.fill != .image then s
      else
        let s1 := s.toSlot (s.partSatp x.part) x.img d
        if x.state == .reply && s.marked d.sid d.tag d.dest then s1.makeReady d.sid else s1

end Sys2Proof.Machine
end

