-- ==== Sys2Proof/Machine/Ops.lean ====
section
/-! DEFINITION. The shared operations of every meaning: fetching packets and the fetch state, encoding versions, the error
log, TAKING A TRAP (to S, delegated to U, deferred) and the return from one, context save and load by the supervisor, and
how a word's outcome becomes a step of the machine (06 R139-R144, R158; 07 R160; 13 R312, R319; 19 R347-R351; 21 R387-R396;
23 R413, R414). -/

namespace Sys2Proof.Machine

/-- The outcome of an operation of this machine. -/
abbrev Out1 := Host.Outcome State Fault Refusal

/-! ## Packets and bundle starts (R134, R139, R140, R160) -/

/-- The address of the packet that holds a word (R139). -/
def packetOf (x : Word) : Word := w64 (x.toNat / 12 * 12)

/-- The word position of an address in its packet. -/
def posIn (x : Word) : Nat := x.toNat % 12 / 4

/-- Three words from twelve bytes. -/
def packetWords (b : List Byte) : Vector (BitVec 32) 3 := #v[half32At b 0, half32At b 4, half32At b 8]

/-- The address space under which the current context fetches. -/
def State.fetchSatp (s : State) : Word := s.cur.sc.satp

/-- A packet fetched from memory now: both pages must translate with X; a machine check where a line carries an
uncorrectable error (R139, R396). The trap value is the lowest address of the packet in the page at fault (R254; notes/assumptions
59: DEDUCED). -/
def State.fetchPacket (s : State) (base : Word) : Except TrapInfo (Vector (BitVec 32) 3) :=
  match s.checkRange s.cur.level s.fetchSatp .fetch base 12 with
  | .error t => .error t
  | .ok l =>
    if l.any (fun (p, m) => s.badAt p m) then .error ⟨cMachineCheck, base⟩
    else .ok (packetWords (s.readRange l))

/-- The packet the core holds for an address, if it may still use it: one that memory has overtaken may be used until
an IFENCE discards it (R134; which is a free choice). -/
def State.heldPacket (s : State) (base : Word) : Option (Vector (BitVec 32) 3) :=
  match s.core.packets.find? (fun p => p.va == base && p.satp == s.fetchSatp) with
  | none => none
  | some p =>
    match s.fetchPacket base with
    | .ok w => if w = p.w then some p.w else if Config.usePacket s.choice base then some p.w else none
    | .error _ => if Config.usePacket s.choice base then some p.w else none

/-- The words of a packet as the decoder finds bundle starts in it: held, or as a fetch would bring them now, if it can be fetched
(R139, R144). One that carries an uncorrectable error still has its words here (notes/assumptions 86: DESIGN CHOICE). -/
def State.packetView (s : State) (base : Word) : Option (Vector (BitVec 32) 3) :=
  match s.heldPacket base with
  | some w => some w
  | none => (s.fetchPacket base).toOption

/-- The bundle that starts at an address, in the words of its packet. -/
def bundleIn (w : Vector (BitVec 32) 3) (x : Word) : Option Bundle :=
  if x.toNat % 4 = 0 then bundleAt w (posIn x) else none

/-- Words a bundle takes up in its packet (a bad one runs to the end). -/
def bundleSize (b : Bundle) : Nat :=
  if b.bad.isSome then 3 - b.start
  else b.words.foldl (fun n (_, w, _) => n + (if isMovl w then 2 else 1)) 0

/-- The bundle start that follows the bundle at `x` in memory (R160). Where the packet cannot be fetched the spec
leaves it open: a free value (notes/assumptions 12: DEDUCED). -/
def State.seq (s : State) (x : Word) : Word :=
  let base := packetOf x
  match s.packetView base with
  | none => Config.seqOpen s.choice x
  | some w =>
    match bundleIn w x with
    | some b => if b.start + bundleSize b < 3 then base + w64 (4 * (b.start + bundleSize b)) else base + 12
    | none => base + 12

/-- Whether an address is a bundle start, in a packet that can be read (R144). -/
def State.startOk (s : State) (x : Word) : Bool :=
  match s.packetView (packetOf x) with
  | none => true
  | some w => (bundleIn w x).isSome

/-! ## Encoding versions (R155, R158) -/

/-- The code section that holds an address, in the launch of the current strand (R157). -/
def State.sectionOf (s : State) (x : Word) : Option Section :=
  match s.cur.strand with
  | none => none
  | some st =>
    match s.pkg.launches.find? (fun l => l.lnch == st.lnch && l.part == st.part) with
    | none => none
    | some l => l.sections.find? (fun q => decide (q.base.toNat ≤ x.toNat) && decide (x.toNat < q.base.toNat + q.len))

/-- Whether an address is on the launch's foreign-entry list. -/
def State.foreign (s : State) (x : Word) : Bool :=
  match s.cur.strand with
  | none => false
  | some st => s.pkg.launches.any (fun l => l.lnch == st.lnch && l.part == st.part && l.foreign.elem x)

/-- The version under which the current context decodes: the partition's in S (R362), else the strand's. -/
def State.curVer (s : State) : BitVec 2 :=
  match s.cur.level with
  | .s => match s.core.inPart with
    | some n => match s.part n with
      | some p => p.ver
      | none => 3
    | none => 3
  | .u => match s.cur.strand with
    | some st => st.ver
    | none => 3

/-- The version under which the current strand reaches the target of a control word that issues now: after the crossings of the two
bundles before it (R158, R160). -/
def State.verAhead (s : State) : BitVec 2 :=
  match s.cur.strand with
  | none => s.curVer
  | some x => (x.cross.filter (fun y => y.left != 0)).foldl (fun _ y => y.ver) s.curVer

/-- The version a jump to `target` crosses into, if it does (R158, R159): the target on the foreign list, or the mark bit
of a JALR's register, in a section of a version other than the one it is reached under. -/
def State.crossing (s : State) (target : Word) (mark : Bool) : Option (BitVec 2) :=
  if s.cur.level == .s then none
  else match s.sectionOf target with
    | none => none
    | some q => if q.ver ≠ s.verAhead && (mark || s.foreign target) then some q.ver else none

/-! ## The fetch state (R160) -/

/-- The crossings of a strand when a bundle has issued: the one at PC is over, the others come nearer (R158, R160). -/
def Strand.nearer (x : Strand) : Strand :=
  { x with cross := (x.cross.filter (fun y => y.left != 0)).map (fun y => { y with left := y.left - 1 }) }

/-- The update of the fetch state when a bundle has issued. -/
def State.afterBundle (s : State) (target : Option Word) : State :=
  let old := s.cur.nnpc
  let nn := match target with
    | some t => t
    | none => s.seq old
  let line := s.seq s.cur.pc == s.cur.npc && s.core.packets.any (fun p => p.va == packetOf s.cur.pc && p.satp == s.fetchSatp)
  s.modCur (fun c => { (if c.level == .u then c.modStrand Strand.nearer else c) with
    pc := c.npc, npc := old, nnpc := nn, annul := c.annul - 1, line := line })

/-- Issue goes on at an address and the two bundles after it. -/
def State.jumpTo (s : State) (pc : Word) : State :=
  let n := s.seq pc
  let nn := s.seq n
  s.modCur (fun c => { c with pc := pc, npc := n, nnpc := nn, annul := 0, line := false })

/-! ## Save and load by the supervisor (R349, R350, R351) -/

/-- CTXSAVE: the context's U registers and the snapshot captured at entry go into the image, with the state of a matrix call, which
stops here as the context engine would stop it (R250); deliveries held since entry go into its slots, and so do those to come of the
registers that S code has left alone (R349, R390). -/
def State.ctxSave (s : State) : State :=
  let c0 := { s.cur with sMarks := s.cur.sMarks.filter (fun m => s.marked m.sid m.tag m.dest) }
  let s1 := s.writeImage s.cur s.cur.sc.simg s.cur.snap
  let (s2, c1) := s.cur.held.foldl (fun (x : State × Ctx) d => x.1.toSaved x.2 d) (s1, c0)
  (s2.modCur (fun _ => { c1 with saved := true, held := [] })).stopCalls s.cur.sid

/-- CTXLOAD: the same parts come back from the image at SIMG; its snapshot is held until SRET; a register loaded EMPTY
waits again for its delivery, whichever operation brings it, and one loaded otherwise for none (R42, R349, R390). -/
def State.ctxLoad (s : State) : State :=
  let c := s.ctxOfImage s.cur s.cur.sc.simg false
  let c1 : Ctx := { c with
    pend := s.cur.pend, streams := s.cur.streams, u := c.u
    snap := c.snap
    loaded := true }
  let kept := s.pkg.marks.filter (fun m => m.sid != s.cur.sid || (decide (m.tag < s.cur.sTag) && c1.isEmpty m.dest))
  let again := s.cur.sMarks.filter (fun m => c1.isEmpty m.dest && !s.marked m.sid m.tag m.dest)
  { s with cur := c1, pkg := { s.pkg with marks := again ++ kept } }

/-- STRSTOP: the trapped strand leaves the context, READY or PARKED (R350). -/
def State.strStop (s : State) (ready : Bool) : State :=
  let s1 := if s.cur.saved then s else s.ctxSave
  match s1.cur.strand with
  | none => s1.modCur (fun c => { c.vacated with pc := 0, npc := 0, nnpc := 0 })
  | some x =>
    let x1 : Strand := { x with
      state := if ready then .ready else .parked, why := 9, fill := .image
      pc := s1.cur.sc.sepc, npc := s1.cur.sc.snpc, nnpc := s1.cur.sc.snnpc }
    let s2 := s1.writeRecord x1 x1.pc x1.npc x1.nnpc s1.cur.liveMask
    let s2m := s2.stopCalls x.id
    let s3 : State := { s2m with
      cur := s2m.cur.vacated
      pkg := { s2m.pkg with
        strands := s2m.pkg.strands ++ [x1]
        reqs := s2m.pkg.reqs.map (fun q => if q.sid == x.id then { q with old := true } else q) } }
    if ready then s3.makeReady x.id else s3

/-- HALTC: STRSTOP with READY if a strand is in the context, the other resident saved and queued READY, an ordered task in its cluster's
queues (R352), the core out of its partition (R351). -/
def State.haltCore (s : State) : State :=
  let s1 := if s.cur.strand.isSome then s.strStop true else s
  let s2 := match s1.oth.strand with
    | some x => (s1.saveCtx true .ready x.why (if x.ord then .cluQ s.cluster else .dieQ s.die))
    | none => s1
  { s2 with core := { s2.core with halted := true, inPart := none } }

/-! ## Taking a trap (R387-R392, R312, R319) -/

/-- Entry to S (R389). In U the results in flight are captured and held, and so are the deliveries to come; in S
everything in flight lands first. -/
def State.enterS (s : State) (t : TrapInfo) (pc npc nnpc : Word) : State :=
  let s1 := match s.cur.level with
    | .u =>
      let tag := s.pkg.tag
      let marks := s.pkg.marks.filter (fun (m : Mark) => m.sid == s.cur.sid)
      s.modCur (fun c => { c with snap := c.pend, pend := [], held := [], sTag := tag, sMarks := marks, saved := false, loaded := false })
    | .s => s.drain
  let s2 := s1.modCur (fun c =>
    let st := c.sc.sstatus
    let st1 := setSeg (setSeg (setSeg st 0 (BitVec.ofBool (c.level == Level.s))) 2 (seg st 1 1)) 1 0#1
    { c.endDropped with
      sc := { c.sc with sepc := pc, snpc := npc, snnpc := nnpc, scause := t.cause.setWidth 64, stval := t.value, sstatus := st1 }
      level := .s
      stuck := 0
      why := .none
      fpHold := none
      repN := none
      hostOp := none
      bmHold := false
      lone := none
      start := false
      resumed := false
      noBreak := false })
  s2.jumpTo s2.cur.sc.stvec

/-- A delegated trap (R392): every result in flight lands, the user trap CSRs take the fetch state, cause and value, and
issue goes on at UTVEC in U. The handler's JALRs are what reaches the saved bundles, so that crossings to come are theirs (R158,
R393). -/
def State.enterU (s : State) (t : TrapInfo) (pc npc nnpc : Word) : State :=
  let s1 := s.drain
  let s2 := s1.modCur (fun c =>
    { (c.endDropped.modStrand (fun x => { x with cross := [] })) with
      u := { c.u with uepc := pc, unpc := npc, unnpc := nnpc, ucause := t.cause.setWidth 64 ||| 0x100, utval := t.value }
      stuck := 0
      why := .none
      fpHold := none
      repN := none
      hostOp := none
      bmHold := false
      start := false
      noBreak := false })
  s2.jumpTo (sext64 56 s2.cur.u.utvec)

/-- The causes SSTATUS.udel delegates (R341). -/
def delegable (c : Cause) : Bool :=
  c == cEmptyRead || c == cRepCount || c == cHostAtomic || c == cPermInvalid || c == cFpTrap || c == cTrap || c == cBreak

/-- Whether a cause raised now is delegated (R392). -/
def State.delegates (s : State) (c : Cause) : Bool :=
  s.cur.sc.sstatus.getLsbD 3 && delegable c && s.cur.level == .u && seg s.cur.u.utvec 2 54 != 0
    && !s.cur.u.ucause.getLsbD 8

/-- A deferred trap of a speculative task (R312): the record with dfp, the cause, FAULTED and why 9; the image with PC at
the bundle; the slot and the versions stay. -/
def State.deferTrap (s : State) (t : TrapInfo) (pc npc nnpc : Word) : State :=
  let s1 := s.modCur (fun c => { c.modStrand (fun x => { x with dfp := true, dcause := t.cause }) with pc := pc, npc := npc, nnpc := nnpc })
  s1.saveCtx false .faulted 9 .off

/-- The retry of a speculative task hit by an uncorrectable error (R319): aborted with one more retry, or FAULTED and
reported when that exceeds RETRYMAX. -/
def State.retryTask (s : State) (x : Strand) : State :=
  let lim := (seg s.cur.sc.retrymax 0 4).toNat
  if x.retry.toNat + 1 ≤ lim then
    let s1 := s.abort [x.id]
    match s1.strandOf x.id with
    | some y =>
      let y1 : Strand := { y with retry := y.retry + 1, task := y.task.map (fun t => { t with failed := some s.core.core }) }
      (s1.modStrand x.id (fun _ => y1)).touchRecord y1
    | none => s1
  else
    let s1 := (s.evict x.id).modStrand x.id (fun y => { y with state := .faulted, why := 9, fill := .initial, place := .off, dfp := false })
    let s2 := match s1.strandOf x.id with
      | some y => s1.touchRecord y
      | none => s1
    { s2 with core := { s2.core with retriesDue := s2.core.retriesDue ++ [x.recAddr] } }

/-- The bundle at STVEC itself faults in S while spp = 1 (R389). -/
def State.faultsAtStvec (s : State) : Bool :=
  s.cur.level == .s && s.cur.sc.sstatus.getLsbD 0 && s.cur.pc == s.cur.sc.stvec

/-- A machine check that is no bundle's (R388, R396): a task that is not irrevocable is retried (R319), anything else enters S. -/
def State.takeCheck (s : State) (v : Word) : State :=
  let r := match s.cur.strand.filter (fun x => s.cur.level == .u && x.ord && !x.task.any (fun k => k.irrev)) with
    | some x => s.retryTask x
    | none => s.enterS ⟨cMachineCheck, v⟩ s.cur.pc s.cur.npc s.cur.nnpc
  { r with iss := { r.iss with verdict := .trapped cMachineCheck v } }

/-- TAKING A TRAP, whatever its cause (R387): a machine check in a task that is not irrevocable becomes a retry (R319,
R396); any other synchronous trap of a speculative task is deferred (R312); a bundle at STVEC that itself faults in S stops
the core (R389); a delegated cause enters the handler at UTVEC (R392); everything else enters S (R389). The verdict says
that a trap was taken. -/
def State.takeTrap (s : State) (t : TrapInfo) (pc npc nnpc : Word) : State :=
  let r :=
    if t.cause == cMachineCheck && s.cur.level == .u && s.cur.strand.any (fun x => x.ord && !x.task.any (fun k => k.irrev)) then
      match s.cur.strand with
      | some x => s.retryTask x
      | none => s
    else if s.cur.level == .u && s.curSpec then s.deferTrap t pc npc nnpc
    else if s.faultsAtStvec then (s.logError 3 3 0 pc 0).1.haltCore
    else if s.delegates t.cause then s.enterU t pc npc nnpc
    else s.enterS t pc npc nnpc
  { r with iss := { r.iss with verdict := .trapped t.cause t.value } }

/-- A machine check of state that a bundle reads: the error is logged, the value is the address of its entry in the ring (R396, R413,
R414), and the verdict names where it was met. Array 4 for a table entry; for a packet, 10 (CXL) from the pool, else 6
(notes/assumptions 62: DEDUCED). -/
def State.checkHere (s : State) (va : Word) : State :=
  let arr : BitVec 8 := match s.xlate s.fetchSatp va with
    | .error _ => 4
    | .ok (e, _) => if seg e 52 3 == 0 then 10 else 6
  let (s1, ring) := s.logError arr 3 0 va 0
  let r := s1.takeTrap ⟨cMachineCheck, ring &&& 0xFFFFFFFFFFFFFFC0⟩ s.cur.pc s.cur.npc s.cur.nnpc
  { r with iss := { r.iss with verdict := .trapped cMachineCheck va } }

/-- A trap before issue: the saved fetch state is the bundle's (R387). -/
def State.trapHere (s : State) (t : TrapInfo) : State :=
  if t.cause == cMachineCheck then s.checkHere t.value else s.takeTrap t s.cur.pc s.cur.npc s.cur.nnpc

/-- An asynchronous event taken to S at the boundary: never deferred, never delegated (R312, R387). -/
def State.asyncTrap (s : State) (t : TrapInfo) : State :=
  let r := s.enterS t s.cur.pc s.cur.npc s.cur.nnpc
  { r with iss := { r.iss with verdict := .trapped t.cause t.value } }

/-- THE RETURN FROM A TRAP (R347, R390, R399): the saved fetch state, the saved level, sie back; into U, the held snapshot
replays before what S code left in flight, held deliveries reach their registers, and the record's step bit is read
again. A context without a strand returns to U empty. -/
def State.returnS (s : State) : State :=
  let c := s.cur
  let st := c.sc.sstatus
  let st1 := setSeg (setSeg st 1 (seg st 2 1)) 2 0#1
  let toU := !st.getLsbD 0
  match c.strand with
  | none =>
    s.modCur (fun c => { c.vacated with sc := { c.sc with sstatus := st1, srec := 0, simg := 0 }, pc := 0, npc := 0, nnpc := 0 })
  | some x =>
    let s1 := s.modCur (fun c =>
      { c with
        pc := c.sc.sepc, npc := c.sc.snpc, nnpc := c.sc.snnpc
        sc := { c.sc with sstatus := st1 }
        level := if toU then .u else .s
        annul := 0
        start := true
        resumed := true
        line := false
        noBreak := true })
    if toU then
      let s2 := (s1.modCur (fun c => { c with pend := c.snap ++ c.pend, snap := [], held := [], sMarks := [] })).resumeCalls x.id
      let s3 := c.held.foldl State.arrive s2
      match s3.vread c.sc.satp (x.recAddr + 40) 8 with
      | some b => s3.modCur (fun c => c.modStrand (fun y => { y with stepping := (wordAt b 0).getLsbD 18 }))
      | none => s3
    else s1

/-! ## The end of an issue cycle and of a bundle (R43, R44, R90, R160, R162, R355, R399) -/

/-- A bundle, or a repetition of one, has issued: what its context notes. -/
def State.noteIssued (s : State) : State :=
  let s1 := s.modCur (fun c =>
    { c with
      stuck := 0
      why := .none
      fpHold := none
      lone := none
      start := false
      resumed := false
      noBreak := false
      strand := if c.level == .u then c.strand.map (fun x => { x with steps := x.steps + 1 }) else c.strand
      stepDue := c.stepDue || (c.level == .u && c.strand.any (fun x => x.stepping)) })
  if s.cur.level == .u then { s1 with core := { s1.core with reported := false, stuckSince := none } } else s1

/-- A bundle has issued with all its words: the fetch state moves on, to the target of a taken control word in the third
place; delay bundles are annulled; a crossing of versions is noted; the issue cycle ends. -/
def State.bundleDone (s : State) : State :=
  let target := s.iss.target
  let s1 := s.afterBundle target
  let s2 := if s.iss.annul then s1.modCur (fun c => { c with annul := 2 }) else s1
  let s3 := match target, s.iss.ver with
    | some t, some v => s2.modCur (fun c => c.modStrand (fun x => { x with cross := x.cross ++ [(⟨t, v, 2⟩ : Crossing)] }))
    | _, _ => s2
  let s4 := s3.modCur (fun c => { c with repN := none, repEnd := none })
  s4.noteIssued.cycleEnd

/-! ## Outcome of a word -/

/-- Whether an effect would change a tile or a permutation register that a call of the strand has bound (R246). -/
def Eff.bound (e : Eff) (m : MCall) : Bool :=
  match e with
  | .write (.row t _) _ _ _ | .mark (.row t _) | .zeroTile t _ | .attr t _ _ | .moved t _ _ | .tsw t _ _ => m.named.elem t
  | .write (.p p) _ _ _ | .mark (.p p) => m.permsNamed.elem p
  | _ => false

/-- Whether a word has queued such an effect: it blocks until the call completes (R246). -/
def State.bindsBroken (s s1 : State) : Bool :=
  s.core.calls.any (fun m => m.sid == s.cur.sid &&
    (s1.cur.pend.any (fun p => p.eff.bound m && !s.cur.pend.elem p)
      || decide ((s.cur.pend.filter (fun p => p.eff.bound m)).length < (s1.cur.pend.filter (fun p => p.eff.bound m)).length)))

/-- How the outcome of a word becomes a step: it issued; it takes its trap; it is held with the state unchanged
(notes/assumptions 4: DESIGN CHOICE). -/
def finish (s : State) (r : Res) : Out1 :=
  match r with
  | .ok s1 =>
    if s.bindsBroken s1 then .next { s with iss := { s.iss with verdict := .held .blocked } }
    else .next { s1 with iss := { s1.iss with verdict := .issued } }
  | .trap t => .next (s.trapHere t)
  | .hold w => .next { s with iss := { s.iss with verdict := .held w } }
  | .wait s1 w => .next { s1 with iss := { s1.iss with verdict := .held w } }

/-- The same for an event, which no call of the strand blocks. -/
def happen (s : State) (r : Res) : Out1 :=
  match r with
  | .ok s1 => .next { s1 with iss := { s1.iss with verdict := .issued } }
  | .trap t => .next (s.trapHere t)
  | .hold w => .next { s with iss := { s.iss with verdict := .held w } }
  | .wait s1 w => .next { s1 with iss := { s1.iss with verdict := .held w } }

/-- The same for a word that ends its bundle itself. In a bundle whose REP has a further repetition to come it waits for
the last one, with the source it has read (R192). -/
def finishEnd (i : Instr) (a : Word) (s : State) (r : Res) : Out1 :=
  match r with
  | .ok s1 =>
    if s.iss.repMore then
      .next { s.modCur (fun c => { c with repEnd := some (i, a, none) }) with iss := { s.iss with verdict := .issued } }
    else .next { s1 with iss := { s1.iss with verdict := .ended } }
  | .trap t => .next (s.trapHere t)
  | .hold w => .next { s with iss := { s.iss with verdict := .held w } }
  | .wait s1 w => .next { s1 with iss := { s1.iss with verdict := .held w } }

/-! ## Source registers (R40) -/

/-- A source: a scalar with its wa or wb bit, a tile row, a permutation register. -/
inductive Src where
  | s (r : BitVec 5) (traps : Bool)
  | row (t : BitVec 4) (r : BitVec 6)
  | p (r : BitVec 3)
  deriving DecidableEq, Repr

/-- The state of a source and what its read does: a cause, a block, or nothing. -/
def Ctx.srcCause (c : Ctx) (x : Src) : Option Cause :=
  match x with
  | .s r traps => match c.sst r with
    | .full => none
    | .empty => if traps then some cEmptyRead else none
    | .expired => some cExpired
    | .poisoned => some cPoison
  | .row t r => match (c.rowReg t r).st with
    | .expired => some cExpired
    | .poisoned => some cPoison
    | _ => none
  | .p _ => none

/-- Whether reading the source blocks. -/
def Ctx.srcBlocks (c : Ctx) (x : Src) : Bool :=
  match x with
  | .s r traps => c.sst r == .empty && !traps
  | .row t r => (c.rowReg t r).st == .empty
  | .p r => !(c.pv r).full

/-- The trap value that names a source (R40). -/
def Src.value (x : Src) : Word :=
  match x with
  | .s r _ => r.setWidth 64
  | .row t r => w64 (t.toNat + 2 * 32 + r.toNat * 256)
  | .p r => w64 (r.toNat + 4 * 32)

/-- The lowest cause code among the sources (R40), with its register: of two sources with one cause the first (notes/assumptions 81:
DESIGN CHOICE). -/
def Ctx.srcTrap (c : Ctx) : List Src → Option TrapInfo
  | [] => none
  | x :: t =>
    match c.srcCause x, c.srcTrap t with
    | none, r => r
    | some k, none => some ⟨k, x.value⟩
    | some k, some r => if r.cause.toNat < k.toNat then some r else some ⟨k, x.value⟩

/-- The causes that the state of a source register raises (R40), which R143 checks before the other faults of every word. -/
def ofRegister (c : Cause) : Bool := c == cEmptyRead || c == cExpired || c == cPoison

/-- Read the sources of a word: a trap, a block, or the rest of the word. -/
def State.withSrcs (s : State) (l : List Src) (k : Unit → Res) : Res :=
  match s.cur.srcTrap l with
  | some t => .trap t
  | none => if l.any s.cur.srcBlocks then .hold .blocked else k ()

/-- The source of a word that ends its bundle: as it was read at repetition 0, if it waited for the last one. -/
def State.endSrc (s : State) (r : BitVec 5) : Word :=
  match s.iss.endVal with
  | some v => v
  | none => s.cur.sv r

/-- Read the source of a word that ends its bundle. -/
def State.withEndSrc (s : State) (r : BitVec 5) (wa : Bool) (k : Word → Res) : Res :=
  match s.iss.endVal with
  | some v => k v
  | none => s.withSrcs [.s r wa] fun _ => k (s.cur.sv r)

/-- The current strand, if it is an ordered task, is irrevocable from now on (R311). -/
def State.irrev (s : State) : State :=
  s.modCur (fun c => c.modStrand (fun x => { x with task := x.task.map (fun t => { t with irrev := true }) }))

/-- A word that is irrevocable in a speculative task waits until the task is the oldest (R310); an ordered task that
performs one is marked irrevocable (R311) (notes/assumptions 60: DEDUCED). -/
def State.irrevocable (s : State) (k : State → Res) : Res := if s.curSpec then .hold .irrevocable else k s.irrev

/-- The rest of a word, or the trap its check raises. -/
def orTrap {α : Type} (r : Except TrapInfo α) (k : α → Res) : Res :=
  match r with
  | .error t => .trap t
  | .ok x => k x

end Sys2Proof.Machine
end

