-- ==== Sys2Proof/Machine/Operands.lean ====
section
/-! DEFINITION. Operand forms: scalar sources, masks of a REP prefix, row sources with stream pops, row destinations with
stream pushes, lanes, flags and the evaluation for enabled traps (02 R40, R44, R47; 03 R83, R84; 04 R109-R111; 08 R194-R196). -/

namespace Sys2Proof.Machine

/-! ## Scalars -/

/-- The value a scalar source reads as. -/
def State.rs (s : State) (r : BitVec 5) : Word := s.cur.sv r

/-- A word of one scalar source and a scalar result of latency `l`. -/
def State.scalar1 (s : State) (l : Nat) (d a : BitVec 5) (wa : BitVec 1) (f : Word → Word) : Res :=
  s.withSrcs [.s a (wa == 1)] fun _ => .ok (s.pushS l d (f (s.rs a)))

/-- A word of two scalar sources and a scalar result of latency `l`. -/
def State.scalar2 (s : State) (l : Nat) (d a b : BitVec 5) (wa wb : BitVec 1) (f : Word → Word → Word) : Res :=
  s.withSrcs [.s a (wa == 1), .s b (wb == 1)] fun _ => .ok (s.pushS l d (f (s.rs a) (s.rs b)))

/-- A long-latency producer of a scalar: the destination marked, its tag handed on. -/
def State.producer (s : State) (d : BitVec 5) (k : Nat → State → State) : State :=
  let (tag, s1) := s.newTag
  k tag (s1.mark tag (.s d))

/-! ## Masks (R190, R196) -/

/-- The mask of the REP prefix in force; all ones without one. -/
def State.laneMask (s : State) : Mask := if s.iss.ke then s.iss.mask else BitVec.allOnes 256

/-! ## The V pipe (R44, R195) -/

/-- A V-pipe word needs the pipe free, and occupies it for `occ` issue cycles from its issue. While the pipe is occupied its
sources are checked all the same (R40, R143). -/
def State.vpipe (s : State) (occ : Nat) (k : State → Res) : Res :=
  if s.core.vbusy = 0 then match k { s with core := { s.core with vbusy := occ } } with
    | .wait s1 w => .wait { s1 with core := { s1.core with vbusy := 0 } } w
    | r => r
  else match k { s with core := { s.core with vbusy := occ } } with
    | .trap t => if ofRegister t.cause then .trap t else .hold .other
    | .hold .blocked => .hold .blocked
    | .wait s1 .blocked => .wait { s1 with core := { s1.core with vbusy := s.core.vbusy } } .blocked
    | _ => .hold .other

/-! ## Accesses of ordered tasks (R304) -/

/-- How an access of an ordered task is treated (R304). -/
inductive Tracking where
  | plain | tracked | undeclared
  deriving DecidableEq, Repr

/-- Whether the page of an address may be written. -/
def State.pageWritable (s : State) (ea : Word) : Bool :=
  match s.xlate s.cur.sc.satp ea with
  | .ok (e, _) => e.getLsbD 4
  | .error _ => false

/-- The treatment of an access by the current strand (R304). -/
def State.tracking (s : State) (writes : Bool) (ea : Word) : Tracking :=
  match s.cur.level, s.cur.strand with
  | .u, some x =>
    if x.ord then
      let rset := (x.task.map TaskInfo.rset).getD []
      let wset := (x.task.map TaskInfo.wset).getD []
      if inSet wset ea || (!writes && inSet rset ea) then .tracked
      else if !writes && !s.pageWritable ea then .plain
      else .undeclared
    else .plain
  | _, _ => .plain

/-- The trap of an access outside both sets: the address with bit 63 clear (R304). -/
def undeclaredTrap (ea : Word) : TrapInfo := ⟨cUndeclared, ea &&& 0x7FFFFFFFFFFFFFFF⟩

/-- Any access of an ordered task outside both sets raises UNDECLARED (R304). -/
def State.declared (s : State) (writes : Bool) (ea : Word) (k : Unit → Res) : Res :=
  if s.tracking writes ea = .undeclared then .trap (undeclaredTrap ea) else k ()

/-! ## Row sources (R40, R109, R111) -/

/-- A row as a V-pipe or X-pipe word reads it. -/
inductive RowRead where
  | val (v : Row) (s : State)
  | fail (r : Res)

/-- Whether rows of a tile are popped from an in-bound stream. -/
def State.popsFrom (s : State) (t : BitVec 4) : Bool := (s.cur.streamOf false t).isSome

/-- Read a row: of an in-bound tile the next buffered row is popped (R109); past the end of the pattern, zeros and ovr
(R111), which done does not count (notes/assumptions 83: DESIGN CHOICE); otherwise the tile's own row, whose state has been checked. A
row whose fetch met a fault raises it as a load of that row would now; one outside the sets of an ordered task is UNDECLARED (R304). -/
def State.readRow (s : State) (t : BitVec 4) (r : BitVec 6) : RowRead :=
  match s.cur.streamOf false t with
  | none => .val (s.cur.rowReg t r).v s
  | some k =>
    let x := s.cur.streams.get k
    match x.buf with
    | .data v poison va lvl :: rest =>
      let ok := if s.tracking false va = .undeclared then .error (undeclaredTrap va)
        else if lvl == s.cur.level then Except.ok () else (s.check .row 256 256 va).map (fun _ => ())
      match ok with
      | .error t => .fail (.trap t)
      | .ok _ =>
        if poison then .fail (.trap ⟨cPoison, (Src.row t r).value⟩)
        else .val v (s.modCur (fun c => c.modStream k (fun x => { x with buf := rest, done := x.done + 1, want := 0 })))
    | .fault _ _ :: _ => match s.check .row 256 256 x.addr with
      | .error t => .fail (.trap t)
      | .ok _ => .fail (.hold .blocked)
    | [] =>
      if x.exhausted then .val 0 (s.modCur (fun c => c.modStream k (fun x => { x with ovr := true })))
      else .fail (.hold .blocked)

/-- Read rows in their order, handing on their values. -/
def State.readRows (s : State) : List (BitVec 4 × BitVec 6) → (List Row → State → Res) → Res
  | [], k => k [] s
  | (t, r) :: rest, k =>
    match s.readRow t r with
    | .fail x => x
    | .val v s1 => s1.readRows rest (fun vs s2 => k (v :: vs) s2)

/-- A stream whose buffer lacks rows that a word needs at once, more than it reads ahead by itself (R208, R224): the stream and
the number of rows. Its pattern and its fetches permit them. -/
def State.wanting (s : State) (rows : List (BitVec 4 × BitVec 6)) : Option (Fin 4 × Nat) :=
  ((List.finRange 4).map (fun k =>
    let x := s.cur.streams.get k
    (k, if x.bound && !x.out then (rows.filter (fun y => y.1 == x.tile)).length else 0))).find? (fun (k, n) =>
      let x := s.cur.streams.get k
      decide (8 < n) && decide (x.buf.length < n) && !x.exhausted && x.buf.all (fun b => match b with
        | .data _ _ _ _ => true
        | .fault _ _ => false))

/-- The register-state check of rows (R40); rows popped from a stream are not read from the tile. A word that pops more rows
than the buffer holds waits, blocked, while they are read ahead (notes/assumptions 65: DEDUCED). -/
def State.withRows (s : State) (more : List Src) (rows : List (BitVec 4 × BitVec 6)) (k : List Row → State → Res) : Res :=
  s.withSrcs (more ++ (rows.filter (fun x => !s.popsFrom x.1)).map (fun x => .row x.1 x.2)) fun _ =>
    match s.wanting rows with
    | some (i, n) => .wait (s.modCur (fun c => c.modStream i (fun x => { x with want := n }))) .blocked
    | none => s.readRows rows k

/-- The locations of coming pushes, each checked. -/
def State.checkPushes (s : State) : List Word → Except TrapInfo (List (Word × Phys))
  | [] => .ok []
  | a :: t =>
    match s.check .rowStore 256 256 a with
    | .error e => .error e
    | .ok p => if s.tracking true a = .undeclared then .error (undeclaredTrap a) else match s.checkPushes t with
      | .error e => .error e
      | .ok l => .ok ((a, p) :: l)

/-- A word about to write `n` rows of a tile: where it is bound out, the addresses of its pushes must translate and permit them,
the buffer of eight rows must have room, and no ordering of the strand may hold them (R110, R112, R119). -/
def State.pushCheck (s : State) (t : BitVec 4) (n : Nat) (k : State → Res) : Res :=
  match s.cur.streamOf true t with
  | none => k s
  | some i =>
    let x := s.cur.streams.get i
    let ahead := s.rowsComing t
    orTrap (s.checkPushes ((x.coming (ahead + n)).drop ahead)) fun l =>
      let before := ahead + s.rowsPushed i
      if (before ≠ 0 ∧ 8 < before + n) ∨ l.any (fun a => s.accessHeld true a.1) then .hold .other
      else k ((l.foldl (fun (s : State) a => s.noteTlb s.cur.sc.satp a.1) s).modCur (fun c => c.modStream i (fun x => { x with locs := x.locs ++ l })))

/-! ## Lanes -/

/-- A row computed lane by lane for the lanes the mask allows, with the flags of those lanes (R197). -/
def laneRow (w : Nat) (m : Mask) (f : Nat → Nat × Flags) : Row × Flags :=
  let rs := (List.range (2048 / w)).map (fun n => if m.getLsbD n then f n else (0, 0))
  (BitVec.ofNat 2048 (packLanes w (rs.map (fun x => BitVec.ofNat w x.1))), rs.foldl (fun a x => a ||| x.2) 0)

/-- The bit pattern of a lane. -/
def laneN (w : Nat) (r : Row) (n : Nat) : Nat := (lane w r n).toNat

/-- Flags of a word that issues: ORed into FFL (R83). Where RM enables one of the flags the word may raise, the bundle is
evaluated first for `l - 1` issue cycles, and an enabled flag raised is FP_TRAP (R84). -/
def State.withFlags (s : State) (l : Nat) (fl : Flags) (k : State → Res) : Res :=
  let go := fun (_ : Unit) => k (if fl = 0 then s else s.push 1 (.flags fl))
  if enables s.cur.u.rm = 0 then go ()
  else match s.cur.fpHold with
    | some 0 =>
      if fl &&& enables s.cur.u.rm = 0 then go ()
      else .trap ⟨cFpTrap, w64 (fl.toNat + s.iss.pos.toNat * 256)⟩
    | _ => if l ≤ 1 then go () else .hold (.fp l)

/-- A row word of the V pipe: pipe, sources (with the destination where it is read, R47), the push check, the computed
row with its flags (`able` says the word can raise one), landing after `l` cycles under the lane mask. -/
def State.rowWord (s : State) (l occ : Nat) (w : Nat) (td : BitVec 4) (row : BitVec 6)
    (srcs : List (BitVec 4 × BitVec 6)) (readsDst masked able : Bool) (f : List Row → Mask → Row × Flags) : Res :=
  s.vpipe occ fun s1 =>
    let m := if masked then s.laneMask else BitVec.allOnes 256
    let rd := readsDst || (masked && s.iss.ke)
    s1.withRows [] (if rd then srcs ++ [(td, row)] else srcs) fun vs s2 =>
      s2.pushCheck td 1 fun s2 =>
        let (v, fl) := f vs m
        let done := fun (s3 : State) => Res.ok (s3.pushRow l td row v (laneSel (w / 8) m))
        if able then s2.withFlags l fl done else done s2

end Sys2Proof.Machine
end

