-- ==== Sys2Proof/Machine/LoadStore.lean ====
section
/-! DEFINITION. LOAD, STORE and ROWMEM: LD, ST, LDR, STR, LDRD, STRD, LDRB, PFT, with the tracked accesses of ordered tasks
(11 R254-R262, 04 R90, 13 R304-R307). -/

namespace Sys2Proof.Machine

/-! ## Reaching memory -/

/-- Host memory, peers and device registers: irrevocable in a speculative task (R310). -/
def Phys.far (p : Phys) : Bool := decide (3 ≤ p.tt.toNat)

/-- An access of a load or store word: checks (R254), sets (R304), irrevocable targets (R310), orderings (R119, R272); then
the rest, with the location and whether the access is tracked. -/
def State.reach (s : State) (k : Acc) (align n : Nat) (ea : Word) (rest : Phys → Bool → State → Res) : Res :=
  orTrap (s.check k align n ea) fun p =>
    let t := s.tracking k.writes ea
    if t = .undeclared then .trap (undeclaredTrap ea)
    else
      let go := fun (s : State) =>
        if s.accessHeld k.writes ea then Res.hold .other else rest p (t == .tracked) (s.noteTlb s.cur.sc.satp ea)
      if p.far then s.irrevocable go else go s

/-- An access to the own scratchpad needs its bank free, and occupies it (R90); an earlier one that still waits to be performed
holds it (R117). -/
def State.bank (s : State) (p : Phys) (cycles : Nat) (rest : State → Res) : Res :=
  match (if s.pkg.reqs.any (fun q => decide (q.due < s.core.cyc) && s.ownServed q) then none else s.takeBank p cycles) with
  | none => .hold .other
  | some s1 => rest s1

/-- Atomics on the own scratchpad need the banks of their places, each taken once (R90). -/
def State.ownBank (s : State) (l : List Phys) (rest : State → Res) : Res :=
  let own := l.filter s.exposed
  let banks := (own.map (fun p => seg p.pa 8 5)).eraseDups
  if own.isEmpty then rest s
  else if banks.any (fun b => s.core.banks.any (fun x => x.1 == b)) || s.pkg.reqs.any (fun q => decide (q.due < s.core.cyc) && s.ownServed q) then .hold .other
  else rest { s with core := { s.core with banks := banks.map (fun b => (b, 2)) ++ s.core.banks } }

/-- Whether the strand has an access on its way to bytes that are about to be read (R117, R127). -/
def State.accessPending (s : State) (p : Phys) (n : Nat) : Bool :=
  s.pkg.reqs.any (fun q => q.sid == s.cur.sid && (s.touches q).any (fun t => meets t.1 t.2 (s.homeLoc p).key0 n))

/-- The strand of the context, for tracked accesses. -/
def State.tracked (s : State) (k : Strand → Res) : Res :=
  match s.cur.strand with
  | some x => k x
  | none => .hold .other

/-- Where the value of a load goes. -/
def LoadTo.dest : LoadTo → Option Dest
  | .scalar r _ => if r = 0 then Option.none else some (.s r)
  | .row t r => some (.row t r)
  | .bcast t r => some (.row t r)
  | .none => Option.none

/-- A load of `n` bytes (R256, R258): from the own scratchpad outside windows with latency `lat`, at issue; else a
long-latency producer; a tracked one from the versions (R304, R305). -/
def State.load (s : State) (k : Acc) (align n : Nat) (ea : Word) (dst : LoadTo) (lat cycles : Nat) (acq : Option (BitVec 2)) :
    Res :=
  s.reach k align n ea fun p tracked s1 =>
    if tracked then
      s1.tracked fun x => if s1.ownBad x p n then .trap ⟨cMachineCheck, ea⟩ else if s1.accessPending p n then .hold .other else
        let bs := s1.trackedBytes x p n
        let (tag, s2) := ((s1.homeTouch p false).noteRead x p).newTag
        match loadValue dst bs, dst.dest with
        | some (d, v), some _ =>
          let (due, s3) := (s2.mark tag d).dueSoon
          .ok (s3.deliver
            { sid := s.cur.sid, tag := tag, dest := d, v := v, sel := BitVec.allOnes 256, poison := s1.stitchBad x p n, due := .wall due })
        | _, _ => .ok s2
    else if s1.exposed p then
      s1.bank p cycles fun s2 =>
        match loadValue dst (s2.readAt p n) with
        | some (d, v) => .ok ((s2.acquired (acq.getD 0)).push lat (.write d v (BitVec.allOnes 256) (s2.badAt p n)))
        | none => .ok s2
    else
      let (tag, s2) := s1.newTag
      let s3 := match dst.dest with
        | some d => s2.mark tag d
        | none => s2
      .ok (s3.send
        { sid := s.cur.sid, tag := tag, op := .load n (if dst.dest.isSome then dst else .none), loc := p, va := ea, due := 0, acq := acq })

/-- A store of bytes (R256, R258, R306): performed at issue in the own scratchpad outside windows, posted elsewhere; a
tracked one into the task's version. -/
def State.putBytes (s : State) (k : Acc) (align : Nat) (ea : Word) (bs : List Byte) (cycles : Nat) (rel : Option (BitVec 2)) :
    Res :=
  s.reach k align bs.length ea fun p tracked s1 =>
    if tracked then s1.tracked fun x => s1.trackedWrite x p ea bs
    else if s1.exposed p then
      if rel.any (fun sc => s1.releaseWaits s.cur.sid s1.pkg.tag sc) then .hold .other
      else s1.bank p cycles fun s2 => .ok (s2.store s.cur.sid p ea bs rel)
    else .ok (s1.store s.cur.sid p ea bs rel)

/-! ## LD and ST (R255-R257) -/

/-- The address of an M-format word. -/
def State.eaM (s : State) (base : BitVec 5) (sz : BitVec 2) (off : BitVec 9) : Word :=
  s.rs base + (off.signExtend 64 <<< sz.toNat)

/-- The load of an M-format word. -/
def State.ldWord (s : State) (d base : BitVec 5) (sz : BitVec 2) (zx : BitVec 1) (off : BitVec 9) (acq : Option (BitVec 2)) :
    Res :=
  s.withSrcs [.s base false] fun _ =>
    let n := 2 ^ sz.toNat
    s.load .load n n (s.eaM base sz off) (.scalar d (zx == 1)) 4 2 acq

/-- LD (R255). -/
def execLd (d base : BitVec 5) (sz : BitVec 2) (zx : BitVec 1) (off : BitVec 9) (s : State) : Out1 :=
  finish s (s.ldWord d base sz zx off none)

/-- LD.acq (R255, R256): an acquire at its scope, irrevocable in a speculative task (R310). -/
def execLdAcq (d base : BitVec 5) (sz : BitVec 2) (zx : BitVec 1) (sc : BitVec 2) (off : BitVec 9) (s : State) : Out1 :=
  finish s (s.withSrcs [.s base false] fun _ => s.irrevocable fun s1 => s1.ldWord d base sz zx off (some sc))

/-- The store of an M-format word. -/
def State.stWord (s : State) (d base : BitVec 5) (sz : BitVec 2) (off : BitVec 9) (rel : Option (BitVec 2)) : Res :=
  s.withSrcs [.s base false, .s d false] fun _ =>
    let n := 2 ^ sz.toNat
    s.putBytes .store n (s.eaM base sz off) (leBytes n (s.rs d).toNat) 2 rel

/-- ST (R255). -/
def execSt (d base : BitVec 5) (sz : BitVec 2) (off : BitVec 9) (s : State) : Out1 := finish s (s.stWord d base sz off none)

/-- ST.rel (R255, R256): the releasing write at its scope, irrevocable in a speculative task (R310). -/
def execStRel (d base : BitVec 5) (sz sc : BitVec 2) (off : BitVec 9) (s : State) : Out1 :=
  finish s (s.withSrcs [.s base false, .s d false] fun _ => s.irrevocable fun s1 => s1.stWord d base sz off (some sc))

/-! ## Rows (R258, R259, R262) -/

/-- The address of LDR, STR, LDRB and PFT. -/
def State.eaW (s : State) (base : BitVec 5) (off : BitVec 8) : Word := s.rs base + (off.signExtend 64 <<< 8)

/-- LDR (R258). -/
def execLdr (t : BitVec 4) (row : BitVec 6) (base : BitVec 5) (off : BitVec 8) (s : State) : Out1 :=
  finish s (s.withSrcs [.s base false] fun _ => s.pushCheck t 1 fun s =>
    s.load .row 256 256 (s.eaW base off) (.row t row) 6 16 none)

/-- STR (R258): the stored row, of a stream-bound tile too. -/
def execStr (t : BitVec 4) (row : BitVec 6) (base : BitVec 5) (off : BitVec 8) (s : State) : Out1 :=
  finish s (s.withSrcs [.s base false, .row t row] fun _ =>
    s.putBytes .rowStore 256 (s.eaW base off) (rowBytes (s.cur.rowReg t row).v) 16 none)

/-- The format code of a tile's elements. -/
def State.efmt (s : State) (t : BitVec 4) : BitVec 4 := seg (s.cur.tile t).attr 0 4

/-- LDRB (R259): one element copied bitwise into every position; FORMAT for a 4-bit or reserved format. -/
def execLdrb (t : BitVec 4) (row : BitVec 6) (base : BitVec 5) (off : BitVec 8) (s : State) : Out1 :=
  finish s (s.withSrcs [.s base false] fun _ =>
    let bits := (fmtOf (s.efmt t)).bits
    if bits < 8 then .trap ⟨cFormat, 0⟩
    else s.pushCheck t 1 fun s =>
      s.load .row (bits / 8) (bits / 8) (s.eaW base off) (.bcast t row) 6 16 none)

/-- What a prefetch of a tile brings of one of its pages: lines into the line caches, or panels asked for in the replica area; any
other target, and a page that does not permit a load, is left alone (R262). -/
def State.prefetchPage (s : State) (va : Word) : State :=
  match s.check .load 1 1 va with
  | .error _ => s
  | .ok p => if p.tt = 2 then s.askPanels p 4096 else s.fillLines p 4096

/-- PFT (R262): the tile that holds the address comes nearer; no access, no order, no block, no trap. Its base is not read under
R40: one that is not FULL makes it a no-operation, and so does an address that fails its check (R254). -/
def execPft (base : BitVec 5) (off : BitVec 8) (s : State) : Out1 :=
  finish s (.ok (if s.cur.sst base == .full && (s.check .load 1 1 (s.eaW base off)).isOk then
      (List.range 4).foldl (fun s i => s.prefetchPage (alignDown (s.eaW base off) 14 + w64 (4096 * i))) s
    else s))

/-! ## Described rows (R260, R261) -/

/-- The blocks of a described row with their locations, each page checked, the lowest first (R254, R260). -/
def State.descBlocks (s : State) (k : Acc) (base : Word) : List Nat → Except TrapInfo (List (Nat × Phys))
  | [] => .ok []
  | b :: t =>
    let va := base + w64 (64 * b)
    match s.check k 64 64 va with
    | .error e => .error e
    | .ok p => match s.descBlocks k base t with
      | .error e => .error e
      | .ok l => .ok ((b, p) :: l)

/-- The block numbers of elements `first` to `first + n - 1`. -/
def blocksOf (f : Fmt) (first n : Nat) : List Nat :=
  (List.range ((first + n - 1) / f.epb - first / f.epb + 1)).map (fun i => first / f.epb + i)

/-- The checks shared by LDRD and STRD: the format, the alignment, every page, the sets of an ordered task, orderings; a load waits
for the strand's own writes to its blocks, whose headers it reads before issue (R117, R260). -/
def State.reachDesc (s : State) (k : Acc) (t : BitVec 4) (base : BitVec 5) (n : BitVec 8)
    (rest : Nat → List (Nat × Phys) → Bool → State → Res) : Res :=
  let f := fmtOf (s.efmt t)
  let ea := s.rs base
  if f.bits = 0 then .trap ⟨cFormat, 0⟩
  else if ea.toNat % 64 ≠ 0 then .trap ⟨cMisaligned, ea⟩
  else
    let first := n.toNat * f.rowLanes
    orTrap (s.descBlocks k ea (blocksOf f first f.rowLanes)) fun bl =>
      let ts := bl.map (fun b => (ea + w64 (64 * b.1), s.tracking k.writes (ea + w64 (64 * b.1))))
      match ts.find? (fun x => x.2 == Tracking.undeclared) with
      | some x => .trap (undeclaredTrap x.1)
      | none =>
        if bl.any (fun b => s.accessHeld k.writes (ea + w64 (64 * b.1))) || (!k.writes && bl.any (fun b => s.accessPending b.2 64)) then .hold .other
        else rest first bl (ts.any (fun x => x.2 == Tracking.tracked)) (ts.foldl (fun (s : State) x => s.noteTlb s.cur.sc.satp x.1) s)

/-- The bytes of a block as a tracked read gives them. -/
def State.trackedBlock (s : State) (x : Strand) (p : Phys) : List Byte := s.trackedBytes x p 64

/-- The header of a block before issue (R260.2): from the shadow, or from the task's versions. -/
def State.blockHeader (s : State) (tracked : Bool) (p : Phys) : BitVec 16 :=
  match tracked, s.cur.strand with
  | true, some x => if (s.versionFor x p.stitch).isSome then hdrOf (s.trackedBlock x p) else hdrOf (s.headerOf p)
  | _, _ => hdrOf (s.headerOf p)

/-- LDRD (R260). -/
def execLdrd (t : BitVec 4) (row : BitVec 6) (base : BitVec 5) (n : BitVec 8) (s : State) : Out1 :=
  finish s (s.withSrcs [.s base false] fun _ => s.pushCheck t 1 fun s =>
    s.reachDesc .described t base n fun first bl tracked s1 =>
      let code := s.efmt t
      let f := fmtOf code
      let hs := bl.map (fun b => (b.1, b.2, s1.blockHeader tracked b.2))
      match hs.find? (fun b => hdrFault code true b.2.2) with
      | some b => .trap ⟨cFormat, s.rs base + w64 (64 * b.1)⟩
      | none =>
        let x : DescRow := { fmt := code, first := first, lanes := f.rowLanes, blocks := hs }
        let rm := s.cur.u.rm
        let draw := f.draws && modeOf rm == RMode.sr
        let (ds, g) := if draw then srDraws s.cur.genNow f.rowLanes else ([], s.cur.genNow)
        let s2 := if draw then s1.push 1 (.gen g) else s1
        let (tag, s3) := s2.newTag
        let s4 := s3.mark tag (.row t row)
        if tracked then
          s4.tracked fun y => if bl.any (fun b => s4.ownBad y b.2 64) then .trap ⟨cMachineCheck, s.rs base⟩ else
            let s5 := bl.foldl (fun s b => s.noteRead y b.2) (s4.useShadow ((bl.map Prod.snd).filter (fun p => (s4.versionFor y p.stitch).isNone)))
            let (v, fl) := x.assemble rm ds (fun b => s4.trackedBlock y b.2.1)
            let (due, s6) := s5.dueSoon
            .ok (s6.deliver
              { sid := s.cur.sid, tag := tag, dest := .row t row, v := v, sel := BitVec.allOnes 256
                poison := hs.any (fun b => !hdrZero b.2.2 && s4.stitchBad y b.2.1 64), due := .wall due, flags := fl })
        else
          let loc := (bl.map Prod.snd).headD { tt := 0, pa := 0 }
          .ok ((s4.useShadow (bl.map Prod.snd)).send
            { sid := s.cur.sid, tag := tag, op := .ldrd x t row rm ds, loc := loc, va := s.rs base, due := 0 }))

/-- The blocks of a tracked STRD rewritten one after another, with their flags (R261, R306). -/
def State.strdTracked (s : State) (code : BitVec 4) (rm : Word) (first : Nat) (vals : List FVal) (ea : Word) (f : Fmt) :
    List (Nat × Phys) → Word → Flags → (State → Flags → Res) → Res
  | [], _, fl, k => k s fl
  | b :: t, g, fl, k =>
    s.tracked fun x =>
      let s1 := s.noteRead x b.2
      let (ds, g1) := if f.draws && modeOf rm == RMode.sr then srDraws g f.epb else ([], g)
      let (bs, fl1) := rewriteBlock code rm false b.1 first vals ds (s1.trackedBlock x b.2)
      match s1.trackedWrite x b.2 (ea + w64 (64 * b.1)) bs with
      | .ok s2 => State.strdTracked s2 code rm first vals ea f t g1 (fl ||| fl1) k
      | r => r

/-- The stitches of a list of blocks of which the task has no version yet. -/
def State.newStitches (s : State) (x : Strand) (bl : List (Nat × Phys)) : List Nat :=
  ((bl.map (fun b => b.2.stitch)).filter (fun n => !s.pkg.versions.any (fun v => v.tid == x.id && v.stitch == n))).eraseDups

/-- The versions that a tracked STRD needs are there before it writes any block: a task that is not the oldest waits for all of them
(R318). -/
def State.versionsFor (s : State) (bl : List (Nat × Phys)) (k : State → Res) : Res :=
  s.tracked fun x =>
    let need := (s.newStitches x bl).length + (if s.isOldest x then 0 else 256)
    if (s.newStitches x bl).isEmpty then k s
    else
      let s1 := s.freeVersions x need (s.strands.length + 1)
      if s.isOldest x || decide (s1.pkg.versions.length + need ≤ 4096) then k s1 else .wait s1 .version

/-- STRD (R261). -/
def execStrd (t : BitVec 4) (row : BitVec 6) (base : BitVec 5) (n : BitVec 8) (s : State) : Out1 :=
  finish s (s.withSrcs [.s base false, .row t row] fun _ =>
    s.reachDesc .describedStore t base n fun first bl tracked s1 =>
      let code := s.efmt t
      let f := fmtOf code
      let rm := s.cur.u.rm
      let v := (s.cur.rowReg t row).v
      let g := s.cur.genNow
      let drawn := fun (s : State) =>
        if f.draws && modeOf rm == RMode.sr then s.push 1 (.gen (srDraws g (f.epb * bl.length)).2) else s
      if tracked then
        s1.versionsFor bl fun s2 =>
          State.strdTracked s2 code rm first (rowValues code (ftzOf rm) v) (s.rs base) f bl g 0 fun s3 fl =>
            .ok (if fl = 0 then drawn s3 else (drawn s3).push 1 (.flags fl))
      else
        let (tag, s3) := (drawn s1).newTag
        let x : DescRow := { fmt := code, first := first, lanes := f.rowLanes, blocks := bl.map (fun b => (b.1, b.2, 0)) }
        let loc := (bl.map Prod.snd).headD { tt := 0, pa := 0 }
        .ok (s3.send { sid := s.cur.sid, tag := tag, op := .strd x v rm g, loc := loc, va := s.rs base, due := 0 }))

end Sys2Proof.Machine
end

