-- ==== Sys2Proof/Machine/Atomic.lean ====
section
/-! DEFINITION. ATOM: atomics and vector atomics, with the AtomicOps of host memory (11 R263-R270, 20 R386). -/

namespace Sys2Proof.Machine

/-! ## AtomicOps on host memory (R270, R386) -/

/-- Whether an atomic goes to the host as an AtomicOp: a HOST page with C = 0. -/
def Phys.hostOp (p : Phys) : Bool := decide (p.tt = 3) && !p.c

/-- Whether the host port supports the AtomicOp of an ATOM function: FetchAdd, Swap, CAS, at the operand's size (R381, R386). -/
def hostCan (fn : BitVec 5) (wide : Bool) : Bool :=
  match fn.toNat with
  | 0 | 8 | 9 => Config.hostAtomicSupport (if wide then 1 else 0)
  | _ => false

/-- The bundle waits for the host's answer to its AtomicOp: sent once, then the answer decides (R270). -/
def State.askHost (s : State) (p : Phys) (ea : Word) (fn : BitVec 5) (wide : Bool) (b c : Word)
    (rest : Option Word → State → Res) : Res :=
  match s.cur.hostOp with
  | some (_, .pending) => .hold .other
  | some (_, .value v) => rest (some v) (s.modCur (fun c => { c with hostOp := none }))
  | some (_, .aborted) => rest none (s.modCur (fun c => { c with hostOp := none }))
  | some (_, .unsupported) => .trap ⟨cHostAtomic, ea⟩
  | none =>
    let (tag, s1) := s.newTag
    .wait ((s1.modCur (fun c => { c with hostOp := some (ea, .pending) })).send
      { sid := s.cur.sid, tag := tag, op := .atomic fn wide b c 0, loc := p, va := ea, due := 0, host := true }) .other

/-! ## Scalar atomics (R263-R265) -/

/-- An atomic of function `fn`: the location at s[a], `align` its alignment; the old value goes to d, long (R45). -/
def State.atom (s : State) (fn : BitVec 5) (wide : Bool) (align : Nat) (d a : BitVec 5) (srcs : List Src) (b c : Word) : Res :=
  s.withSrcs (.s a false :: srcs) fun _ => s.irrevocable fun s0 =>
    let ea := s0.rs a
    orTrap (s0.check .atomic align align ea) fun p =>
      if s0.tracking true ea = .undeclared then .trap (undeclaredTrap ea)
      else if p.hostOp && !hostCan fn wide then .trap ⟨cHostAtomic, ea⟩
      else if s0.accessHeld true ea then .hold .other
      else
        let s1 := s0.noteTlb s0.cur.sc.satp ea
        if p.hostOp then
          s1.askHost p ea fn wide b c fun r s2 =>
            let (tag, s3) := s2.newTag
            let s4 := s3.mark tag (.s d)
            let v := r.getD (Config.freeWord s.choice)
            .ok (s4.deliver
              { sid := s.cur.sid, tag := tag, dest := .s d, v := v.setWidth 2048, sel := BitVec.allOnes 256, poison := r.isNone,
                due := .wall s.core.cyc })
        else
          s1.ownBank [p] fun s1 =>
          let (tag, s2) := s1.newTag
          .ok ((s2.mark tag (.s d)).send
            { sid := s.cur.sid, tag := tag, op := .atomic fn wide b c d, loc := p, va := ea, due := 0 })

/-- The alignment of an operand size. -/
def atomAlign (sz : BitVec 1) : Nat := if sz = 1 then 8 else 4

/-- An atomic with one operand. -/
def State.atom1 (s : State) (fn : BitVec 5) (d a b : BitVec 5) (sz : BitVec 1) : Res :=
  s.atom fn (sz == 1) (atomAlign sz) d a [.s b false] (s.rs b) 0

/-- AADD (R263): m + b. -/
def execAadd (d a b : BitVec 5) (sz : BitVec 1) (s : State) : Out1 := finish s (s.atom1 0 d a b sz)

/-- AAND (R263): m and b. -/
def execAand (d a b : BitVec 5) (sz : BitVec 1) (s : State) : Out1 := finish s (s.atom1 1 d a b sz)

/-- AOR (R263): m or b. -/
def execAor (d a b : BitVec 5) (sz : BitVec 1) (s : State) : Out1 := finish s (s.atom1 2 d a b sz)

/-- AXOR (R263): m xor b. -/
def execAxor (d a b : BitVec 5) (sz : BitVec 1) (s : State) : Out1 := finish s (s.atom1 3 d a b sz)

/-- AMIN (R263): signed minimum. -/
def execAmin (d a b : BitVec 5) (sz : BitVec 1) (s : State) : Out1 := finish s (s.atom1 4 d a b sz)

/-- AMAX (R263): signed maximum. -/
def execAmax (d a b : BitVec 5) (sz : BitVec 1) (s : State) : Out1 := finish s (s.atom1 5 d a b sz)

/-- AMINU (R263): unsigned minimum. -/
def execAminu (d a b : BitVec 5) (sz : BitVec 1) (s : State) : Out1 := finish s (s.atom1 6 d a b sz)

/-- AMAXU (R263): unsigned maximum. -/
def execAmaxu (d a b : BitVec 5) (sz : BitVec 1) (s : State) : Out1 := finish s (s.atom1 7 d a b sz)

/-- ASWAP (R263): b. -/
def execAswap (d a b : BitVec 5) (sz : BitVec 1) (s : State) : Out1 := finish s (s.atom1 8 d a b sz)

/-- AQINC (R263): m + 1 if m < b. -/
def execAqinc (d a b : BitVec 5) (sz : BitVec 1) (s : State) : Out1 := finish s (s.atom1 10 d a b sz)

/-- AQWRAP (R263): (m + 1) mod b. -/
def execAqwrap (d a b : BitVec 5) (sz : BitVec 1) (s : State) : Out1 := finish s (s.atom1 11 d a b sz)

/-- AFADD (R263): the rounded sum. -/
def execAfadd (d a b : BitVec 5) (sz : BitVec 1) (s : State) : Out1 := finish s (s.atom1 15 d a b sz)

/-- ACAS (R263): c if m = b. -/
def execAcas (d a b c : BitVec 5) (sz : BitVec 1) (s : State) : Out1 :=
  finish s (s.atom 9 (sz == 1) (atomAlign sz) d a [.s b false, .s c false] (s.rs b) (s.rs c))

/-- AQDEC (R263): m - 1 if m is not 0. -/
def execAqdec (d a : BitVec 5) (sz : BitVec 1) (s : State) : Out1 := finish s (s.atom 12 (sz == 1) (atomAlign sz) d a [] 0 0)

/-- AQADDL (R263): m + b if it does not pass the limit at s[a] + 8. -/
def execAqaddl (d a b : BitVec 5) (s : State) : Out1 := finish s (s.atom 13 true 16 d a [.s b false] (s.rs b) 0)

/-- AQCHUNK (R264): a chunk of a shared range. -/
def execAqchunk (d a b : BitVec 5) (s : State) : Out1 := finish s (s.atom 14 true 16 d a [.s b false] (s.rs b) 0)

/-! ## VAMO (R267, R268) -/

/-- Whether the bundle at PC resumes the VAMO that VAP records (R268). -/
def State.vapResumes (s : State) : Bool :=
  s.cur.u.vap.getLsbD 6 && (seg s.cur.u.vap 10 54 ++ (0 : BitVec 2)).signExtend 64 == s.cur.pc

/-- The check of a lane (R268): its location, or its trap. -/
def State.vamoCheck (s : State) (op : BitVec 3) (ea : Word) : Except TrapInfo Phys :=
  match s.check .atomic 8 8 ea with
  | .error t => .error t
  | .ok p =>
    if s.tracking true ea = .undeclared then .error (undeclaredTrap ea)
    else if p.hostOp && !hostCan (vamoFn op) true then .error ⟨cHostAtomic, ea⟩ else .ok p

/-- The lanes from a list that pass their checks, up to the first that does not or that goes to the host; and why it
stops there. -/
def State.vamoBatch (s : State) (op : BitVec 3) (a b : Row) : List Nat → List VamoLane × Option (Except TrapInfo (Nat × Phys))
  | [] => ([], none)
  | k :: t =>
    match s.vamoCheck op (lane 64 a k) with
    | .error e => ([], some (.error e))
    | .ok p =>
      if p.hostOp then ([], some (.ok (k, p)))
      else
        let (l, why) := s.vamoBatch op a b t
        ({ lane := k, loc := p, b := lane 64 b k, va := lane 64 a k } :: l, why)

/-- The lanes below `next` have been sent: VAP records it; when lanes are left, the bundle stays (R268). -/
def State.vapAfter (s : State) (next : Nat) : State :=
  let pc := s.cur.pc
  if next < 32 then
    let v : Word := (seg pc 2 54 ++ (0 : BitVec 1) ++ (0 : BitVec 1) ++ (1 : BitVec 1) ++ (1 : BitVec 1) ++ BitVec.ofNat 6 next : BitVec 64)
    { s.modCur (fun c => { c with u := { c.u with vap := v } }) with
      iss := { s.iss with stays := true, repMore := true } }
  else s.modCur (fun c => { c with u := { c.u with vap := c.u.vap &&& ~~~0x40 } })

/-- VAMO (R267, R268): lanes in ascending order from the one VAP names; a fault at a later lane is taken when the lanes
below it have been performed. A row that an earlier part left POISONED stays so (R265). -/
def execVamo (op : BitVec 3) (td ta tb : BitVec 4) (row : BitVec 6) (s : State) : Out1 :=
  finish s (s.withSrcs [.row ta row, .row tb row] fun _ => s.pushCheck td 1 fun s => s.irrevocable fun s1 =>
    let bad := s.vapResumes && (s.cur.rowReg td row).st == .poisoned
    let start := if s.vapResumes then (seg s.cur.u.vap 0 6).toNat else 0
    let a := (s.cur.rowReg ta row).v
    let b := (s.cur.rowReg tb row).v
    if s.vapResumes && s.cur.isEmpty (.row td row) then .hold .other
    else if 32 ≤ start then .trap ⟨cRepCount, 32⟩
    else
      match s1.vamoBatch op a b ((List.range (32 - start)).map (start + ·)) with
      | ([], some (.error t)) => .trap t
      | ([], some (.ok (k, p))) =>
        if s1.accessHeld true (lane 64 a k) then .hold .other
        else s1.askHost p (lane 64 a k) (vamoFn op) true (lane 64 b k) 0 fun r s2 =>
          let (tag, s3) := s2.newTag
          let v := r.getD (Config.freeWord s.choice)
          .ok (((s3.mark tag (.row td row)).deliver
            { sid := s.cur.sid, tag := tag, dest := .row td row, v := v.setWidth 2048 <<< (64 * k),
              sel := vamoSel [{ lane := k, loc := p, b := 0 }], poison := r.isNone || bad, due := .wall s.core.cyc }).vapAfter (k + 1))
      | (lanes, _) =>
        if lanes.any (fun l => s1.accessHeld true (lane 64 a l.lane)) then .hold .other
        else s1.ownBank (lanes.map VamoLane.loc) fun s1 =>
          let (tag, s2) := s1.newTag
          let loc := (lanes.map VamoLane.loc).headD { tt := 0, pa := 0 }
          let s3 := lanes.foldl (fun s l => s.noteTlb s.cur.sc.satp (lane 64 a l.lane)) (s2.mark tag (.row td row))
          .ok ((s3.send
            { sid := s.cur.sid, tag := tag, op := .vamo op lanes td row bad, loc := loc, va := lane 64 a start, due := 0 }).vapAfter
              (start + lanes.length)))

end Sys2Proof.Machine
end

