-- ==== Sys2Proof/Machine/Control.lean ====
section
/-! DEFINITION. Control: branches, jumps, NOP, TRAP, BRK, YIELD, QUANT, user CSRs and the REP prefix (06 R144, R155-R159;
07 R160-R181, R185-R193; 01 R20; 13 R314). -/

namespace Sys2Proof.Machine

/-! ## Branches and jumps (R174-R177) -/

/-- The address of the word being issued. -/
def State.wordAddr (s : State) : Word := s.cur.pc + (s.iss.pos.setWidth 64 <<< 2)

/-- A control word is taken: the target must be a bundle start (R144); a crossing of versions is noted (R158). -/
def State.take (s : State) (target : Word) (mark : Bool) (k : State → Res) : Res :=
  if s.startOk target then
    k { s with iss := { s.iss with target := some target, ver := s.crossing target mark } }
  else .trap ⟨cTargetAlign, target⟩

/-- Displacement of a branch and its annulment field: under version 1 the field is part of the displacement (R156). -/
def State.branchDisp (s : State) (an : BitVec 2) (disp : BitVec 16) : Word × BitVec 2 :=
  if s.curVer = 1 then ((an ++ disp).signExtend 64, 0) else (disp.signExtend 64, an)

/-- A branch (R162, R174). -/
def State.branch (s : State) (an : BitVec 2) (a : BitVec 5) (disp : BitVec 16) (test : Word → Bool) : Res :=
  s.withSrcs [.s a false] fun _ =>
    let (d, an) := s.branchDisp an disp
    let taken := test (s.rs a)
    let s1 : State := { s with iss := { s.iss with annul := (an == 1 && !taken) || (an == 2 && taken) } }
    if taken then s1.take (s.wordAddr + (d <<< 2)) false .ok else .ok s1

/-- BEQZ (R174). -/
def execBeqz (an : BitVec 2) (a : BitVec 5) (disp : BitVec 16) (s : State) : Out1 :=
  finish s (s.branch an a disp (fun v => v == 0))

/-- BNEZ (R174). -/
def execBnez (an : BitVec 2) (a : BitVec 5) (disp : BitVec 16) (s : State) : Out1 :=
  finish s (s.branch an a disp (fun v => v != 0))

/-- BLTZ (R174). -/
def execBltz (an : BitVec 2) (a : BitVec 5) (disp : BitVec 16) (s : State) : Out1 :=
  finish s (s.branch an a disp (fun v => v.slt 0))

/-- BGEZ (R174). -/
def execBgez (an : BitVec 2) (a : BitVec 5) (disp : BitVec 16) (s : State) : Out1 :=
  finish s (s.branch an a disp (fun v => !v.slt 0))

/-- BGTZ (R174). -/
def execBgtz (an : BitVec 2) (a : BitVec 5) (disp : BitVec 16) (s : State) : Out1 :=
  finish s (s.branch an a disp (fun v => BitVec.slt 0 v))

/-- BLEZ (R174). -/
def execBlez (an : BitVec 2) (a : BitVec 5) (disp : BitVec 16) (s : State) : Out1 :=
  finish s (s.branch an a disp (fun v => !BitVec.slt 0 v))

/-- BBS (R174). -/
def execBbs (an : BitVec 2) (a : BitVec 5) (disp : BitVec 16) (s : State) : Out1 :=
  finish s (s.branch an a disp (fun v => v.getLsbD 0))

/-- BBC (R174). -/
def execBbc (an : BitVec 2) (a : BitVec 5) (disp : BitVec 16) (s : State) : Out1 :=
  finish s (s.branch an a disp (fun v => !v.getLsbD 0))

/-- The link value: the bundle after the second delay bundle, bit 0 set by a crossing, be it by the foreign list or by the mark bit
(R158, R177) (notes/assumptions 71: DEDUCED). -/
def State.link (s : State) : Word := s.seq s.cur.nnpc ||| (if s.iss.ver.isSome then 1 else 0)

/-- JMP (R175). -/
def execJmp (disp : BitVec 25) (s : State) : Out1 :=
  finish s (s.take (s.wordAddr + (disp.signExtend 64 <<< 2)) false .ok)

/-- JAL (R175, R177): the link goes to s31. -/
def execJal (disp : BitVec 25) (s : State) : Out1 :=
  finish s (s.take (s.wordAddr + (disp.signExtend 64 <<< 2)) false fun s1 => .ok (s1.pushS 1 31 s1.link))

/-- JALR (R144, R158, R159, R176, R177): bit 1 of the register traps, bit 0 is the mark of a crossing. -/
def execJalr (d a : BitVec 5) (wa : BitVec 1) (s : State) : Out1 :=
  finish s (s.withSrcs [.s a (wa == 1)] fun _ =>
    let v := s.rs a
    if v.getLsbD 1 then .trap ⟨cTargetAlign, v⟩
    else s.take (v &&& ~~~3) (v.getLsbD 0) fun s1 => .ok (s1.pushS 1 d s1.link))

/-! ## NOP, TRAP, BRK, YIELD, QUANT (R178-R181) -/

/-- NOP (R178). -/
def execNop (s : State) : Out1 := finish s (.ok s)

/-- TRAP (R179): the bundle issues, then the trap is taken with the fetch state after it; in a speculative task it is
deferred before the bundle issues (R312). -/
def execTrap (b : BitVec 5) (sb : BitVec 3) (s : State) : Out1 :=
  let t : TrapInfo := ⟨cTrap, w64 (b.toNat * 8 + sb.toNat)⟩
  if s.cur.level == .u && s.curSpec then finish s (.trap t)
  else finishEnd (.trap b sb) 0 s (.ok (s.bundleDone.trapHere t))

/-- BRK (R180): taken before its bundle issues. -/
def execBrk (s : State) : Out1 := finish s (.trap ⟨cBreak, 0⟩)

/-- The strand goes READY at the tail of its level with why = 5 (R181). -/
def State.yield (s : State) : State :=
  let s1 := s.suspend .ready 5
  let s2 := s1.modCur (fun c => c.modStrand (fun x => { x with level := x.prio, arr := s1.pkg.arrNo }))
  { s2 with pkg := { s2.pkg with arrNo := s2.pkg.arrNo + 1 } }

/-- YIELD (R181). -/
def execYield (s : State) : Out1 := finishEnd .yield 0 s (.ok s.bundleDone.yield)

/-- The quantum of the context is spent (R181, R355). -/
def Ctx.quantumSpent (c : Ctx) : Bool := c.sc.quantum != 0 && decide (c.sc.quantum.toNat ≤ c.sc.qcnt.toNat)

/-- QUANT (R181): YIELD when the quantum is spent, else NOP. -/
def execQuant (s : State) : Out1 :=
  if s.cur.quantumSpent then finishEnd .yield 0 s (.ok s.bundleDone.yield) else finish s (.ok s)

/-! ## User CSRs (R185, R186) -/

/-- Whether a group's terms name a core of a device (R17). -/
def inGroup (terms : List Word) (dev : BitVec 17) (core : BitVec 10) : Bool :=
  terms.any (fun t => t.getLsbD 63
    && decide ((seg t 0 17).toNat ≤ dev.toNat) && decide (dev.toNat ≤ (seg t 17 17).toNat)
    && decide ((seg t 34 10).toNat ≤ core.toNat) && decide (core.toNat ≤ (seg t 44 10).toNat))

/-- The group table of the launch of the current strand. -/
def State.curGroups (s : State) : List (List Word) :=
  match s.cur.strand with
  | none => []
  | some x => match s.pkg.launches.find? (fun l => l.lnch == x.lnch && l.part == x.part) with
    | none => []
    | some l => l.groups

/-- GRPS (R20): up to four groups of the core, lowest first. -/
def State.grps (s : State) : Word :=
  let gs := ((List.range 256).filter (fun g => inGroup (s.curGroups.getD g []) s.core.device s.core.core)).take 4
  w64 (gs.reverse.foldl (fun acc g => acc * 2 ^ 16 + (g + 2 ^ 15)) 0)

/-- The value a user CSR reads as (R186). -/
def State.csr (s : State) (n : BitVec 10) : Word :=
  let u := s.cur.u
  match n with
  | 0x000 => w64 s.core.cyc
  | 0x001 => w64 s.core.isc
  | 0x002 => match s.cur.strand with
    | some x => x.id.setWidth 64
    | none => 0
  | 0x003 => (s.core.device ++ s.core.core).setWidth 64
  | 0x004 => match s.cur.strand with
    | some x => if x.ord then x.ts else 0
    | none => 0
  | 0x005 => match s.cur.strand with
    | some x => s.cfr x.dom
    | none => BitVec.allOnes 64
  | 0x006 => u.rm
  | 0x007 => u.ffl
  | 0x008 => u.repc
  | 0x009 => u.vap
  | 0x00A => u.wto
  | 0x00B => u.utvec
  | 0x00C => u.ucause
  | 0x00D => u.uepc
  | 0x00E => u.unpc
  | 0x00F => u.unnpc
  | 0x010 => u.utval
  | 0x011 => s.ptime
  | 0x012 => match s.cur.strand with
    | some x => x.lnch.setWidth 64
    | none => 0
  | 0x013 => s.grps
  | 0x014 => u.srs
  | _ => 0

/-- A read of FFL after a full fence waits for the STRDs before the fence (R261). -/
def State.fflHeld (s : State) (n : BitVec 10) : Bool :=
  n == 0x007 && s.pkg.fences.any (fun f => f.sid == s.cur.sid && f.ord == 3 && s.pkg.reqs.any (fun q =>
    q.sid == f.sid && decide (q.tag < f.tag) && (match q.op with
      | .strd _ _ _ _ => true
      | _ => false)))

/-- The value a read of a CSR gives: of CYC, ISC and PTIME in a replayed launch, what its log feeds (R417). -/
def State.csrSeen (s : State) (n : BitVec 10) : Word :=
  if n == 0x000 || n == 0x001 || n == 0x011 then
    match (s.cur.strand.bind (fun x => s.pkg.launches.find? x.launched)).bind (fun l => l.fed 3 (leBytes 2 n.toNat)) with
    | some b => wordAt b 0
    | none => s.csr n
  else s.csr n

/-- Recordings keep the reads of CYC, ISC and PTIME (R416). -/
def State.csrTraced (s : State) (n : BitVec 10) : State :=
  match s.cur.strand with
  | some x =>
    if n == 0x000 || n == 0x001 || n == 0x011 then
      s.traced x.launched 3 (leBytes 2 n.toNat) (leBytes 8 (s.csrSeen n).toNat)
    else s
  | none => s

/-- A CSR is read into a register. -/
def State.readCsr (s : State) (d : BitVec 5) (n : BitVec 10) : State := (s.csrTraced n).pushS 2 d (s.csrSeen n)

/-- CSRR (R185). -/
def execCsrr (d : BitVec 5) (n : BitVec 10) (s : State) : Out1 :=
  finish s (if s.fflHeld n then .hold .other else .ok (s.readCsr d n))

/-- CSRW (R185): lands at the end of its issue cycle; a read-only CSR ignores it. -/
def execCsrw (d : BitVec 5) (n : BitVec 10) (s : State) : Out1 :=
  finish s (s.withSrcs [.s d false] fun _ => .ok (s.push 1 (.csr n (s.rs d))))

/-- CSRX (R185): the old value to d, the old s[d] to the CSR. -/
def execCsrx (d : BitVec 5) (n : BitVec 10) (s : State) : Out1 :=
  finish s (s.withSrcs [.s d false] fun _ =>
    if s.fflHeld n then .hold .other else .ok ((s.readCsr d n).push 1 (.csr n (s.rs d))))

/-! ## REP (R187-R193) -/

/-- Whether the bundle at PC resumes the REP that REPC records (R193). -/
def State.repResumes (s : State) : Bool :=
  s.cur.u.repc.getLsbD 6 && (seg s.cur.u.repc 10 54 ++ (0 : BitVec 2)).signExtend 64 == s.cur.pc

/-- Repetition `i` of `n` comes up: the mask is read now (R190). -/
def State.repSet (s : State) (i n : Nat) (ke : BitVec 1) (k : BitVec 3) : State :=
  { s.modCur (fun c => { c with repN := some n }) with
    iss := { s.iss with
      ke := ke == 1
      mask := s.cur.kv k
      inRep := true
      repI := i
      repN := n
      repMore := decide (i + 1 < n) } }

/-- REP (R188, R193): the count is read, and the first repetition, or the one REPC names, comes up. -/
def execRep (cnt : BitVec 6) (creg : BitVec 1) (_stp : BitVec 4) (_stride : BitVec 2) (ke : BitVec 1) (k : BitVec 3)
    (s : State) : Out1 :=
  let r := cnt.setWidth 5
  finish s (s.withSrcs (if creg = 1 then [.s r false] else []) fun _ =>
    let v : Word := if creg = 1 then s.rs r else cnt.setWidth 64 + 1
    let limit := if s.curVer = 1 then 16 else 64
    let i := if s.repResumes then (seg s.cur.u.repc 0 6).toNat else 0
    if v.toNat = 0 ∨ limit < v.toNat then .trap ⟨cRepCount, v⟩
    else if v.toNat ≤ i then .trap ⟨cRepCount, v⟩
    else .ok (s.repSet i v.toNat ke k))

/-- REP_REPETITION (R191): a further repetition comes up without a new read of the count; the environment's word is the
REP. -/
def execRepRepetition (s : State) : Out1 :=
  match decode s.ev.word 0, s.cur.repN with
  | some (.rep _ _ _ _ ke k), some n => happen s (.ok (s.repSet (seg s.cur.u.repc 0 6).toNat n ke k))
  | _, _ => happen s (.ok s)

/-- What REPC records after repetition `i` of the bundle at PC (R193). -/
def repProgress (pc : Word) (i : Nat) (taken : Bool) : Word :=
  (seg pc 2 54 ++ (0 : BitVec 1) ++ BitVec.ofBool taken ++ (1 : BitVec 1) ++ (1 : BitVec 1) ++ BitVec.ofNat 6 (i + 1) : BitVec 64)

/-- At the end of a REP's bundle, the branch or jump among its other words acts as it decided at repetition 0, with the
target from its own displacement (R193). -/
def State.heldControl (s : State) (w : BitVec 32) (taken : Bool) : State :=
  let go := fun (s : State) (d : Word) =>
    if taken then
      let t := s.wordAddr + (d <<< 2)
      { s with iss := { s.iss with target := some t, ver := s.crossing t false } }
    else s
  match (w.extractLsb' 26 5).toNat with
  | 5 =>
    let (d, an) := s.branchDisp (w.extractLsb' 21 2) (w.extractLsb' 0 16)
    go { s with iss := { s.iss with annul := (an == 1 && !taken) || (an == 2 && taken) } } d
  | 6 => go s ((w.extractLsb' 0 25).signExtend 64)
  | _ => s

/-- A repetition that is not the last has issued: REPC records the progress, the fetch state stays. -/
def State.repDone (s : State) (taken : Bool) : State :=
  let pc := s.cur.pc
  let i := s.iss.repI
  let s1 := s.noteIssued.cycleEnd
  s1.modCur (fun c => { c with u := { c.u with repc := repProgress pc i taken } })

/-- The last repetition has issued, or a REP starts anew: REPC.v := 0. -/
def State.repOver (s : State) : State := s.modCur (fun c => { c with u := { c.u with repc := c.u.repc &&& ~~~0x40 } })

end Sys2Proof.Machine
end

