-- ==== Sys2Proof/Machine/RowA.lean ====
section
/-! DEFINITION. ROW3A: arithmetic on two and three rows (08 R197-R200; 02 R44, R47) -/

namespace Sys2Proof.Machine

/-- Latency and V occupancy of the kinds of row words (R44). -/
inductive RowTime where
  | arith | cmp | div | special | scan | cvt
  deriving DecidableEq, Repr

/-- The latency (R44). -/
def RowTime.lat (k : RowTime) (typ : BitVec 3) : Nat :=
  match k with
  | .arith => if typW typ = 64 then 8 else 4
  | .cmp => 2
  | .div => 16
  | .special => 12
  | .scan => 8
  | .cvt => 4

/-- The V occupancy (R44). -/
def RowTime.occ (k : RowTime) (typ : BitVec 3) : Nat :=
  match k with
  | .arith => if typW typ = 64 then 2 else 1
  | .div => 4
  | .special => 4
  | _ => 1

/-- A bitwise operation on the encodings of floating lanes, without flags. -/
def bitsOp (g : {w : Nat} → BitVec w → BitVec w → BitVec w) (e : FEnv) (a b : Nat) : Nat × Flags :=
  ((g (BitVec.ofNat e.f.w a) (BitVec.ofNat e.f.w b)).toNat, 0)

/-- a with b's sign bit (R197). -/
def copySign (e : FEnv) (a b : Nat) : Nat × Flags :=
  (e.f.signed (b.testBit (e.f.w - 1)) (a % 2 ^ (e.f.w - 1)), 0)

/-- Signed division per lane (R75). -/
def laneDiv {w : Nat} (a b : BitVec w) : BitVec w := if b = 0 then BitVec.allOnes w else a.sdiv b

/-- The exact magnitude of the difference of two signed lanes, read as unsigned (R197). -/
def laneAbsd {w : Nat} (a b : BitVec w) : BitVec w := BitVec.ofInt w (a.toInt - b.toInt).natAbs

/-- Lane `n` of two rows combined as the type says: floating by `ff`, integer by `fi`. -/
def lane2 (typ : BitVec 3) (rm : Word) (ff : FEnv → Nat → Nat → Nat × Flags)
    (fi : (w : Nat) → BitVec w → BitVec w → BitVec w) (ra rb : Row) (n : Nat) : Nat × Flags :=
  let w := typW typ
  if typFloat typ then ff (fenv typ rm) (laneN w ra n) (laneN w rb n)
  else ((fi w (lane w ra n) (lane w rb n)).toNat, 0)

/-- A word td.row := op(ta.row, tb.row) (R197). -/
def State.row2 (s : State) (k : RowTime) (able : Bool) (typ : BitVec 3) (td ta tb : BitVec 4) (row : BitVec 6)
    (ff : FEnv → Nat → Nat → Nat × Flags) (fi : (w : Nat) → BitVec w → BitVec w → BitVec w) : Res :=
  let rm := s.cur.u.rm
  s.rowWord (k.lat typ) (k.occ typ) (typW typ) td row [(ta, row), (tb, row)] false true able fun vs m =>
    laneRow (typW typ) m (lane2 typ rm ff fi (vs.getD 0 0) (vs.getD 1 0))

/-- An accumulating word: td.row is read as the third operand (R47, R197). -/
def State.row3 (s : State) (typ : BitVec 3) (td ta tb : BitVec 4) (row : BitVec 6)
    (ff : FEnv → Nat → Nat → Nat → Nat × Flags) (fi : (w : Nat) → BitVec w → BitVec w → BitVec w → BitVec w) : Res :=
  let rm := s.cur.u.rm
  let w := typW typ
  s.rowWord (RowTime.arith.lat typ) (RowTime.arith.occ typ) w td row [(ta, row), (tb, row)] true true (typFloat typ) fun vs m =>
    let ra := vs.getD 0 0
    let rb := vs.getD 1 0
    let rd := vs.getD 2 0
    laneRow w m fun n =>
      if typFloat typ then ff (fenv typ rm) (laneN w ra n) (laneN w rb n) (laneN w rd n)
      else ((fi w (lane w ra n) (lane w rb n) (lane w rd n)).toNat, 0)

/-- A compare: all ones where it holds (R198). -/
def State.rowCmp (s : State) (typ : BitVec 3) (td ta tb : BitVec 4) (row : BitVec 6)
    (quiet onNan : Bool) (p : Ordering → Bool) : Res :=
  let w := typW typ
  let rm := s.cur.u.rm
  s.rowWord 2 1 w td row [(ta, row), (tb, row)] false true (typFloat typ) fun vs m =>
    let ra := vs.getD 0 0
    let rb := vs.getD 1 0
    laneRow w m fun n =>
      let (b, fl) :=
        if typFloat typ then (fenv typ rm).cmp quiet p onNan (laneN w ra n) (laneN w rb n)
        else (p (compare (lane w ra n).toInt (lane w rb n).toInt), 0)
      (if b then 2 ^ w - 1 else 0, fl)

/-- A saturating word: the exact result clamped, SAT where it was (R63, R197). -/
def State.rowSat (s : State) (typ : BitVec 3) (td ta tb : BitVec 4) (row : BitVec 6) (g : Int → Int → Int) : Res :=
  let w := typW typ
  let i : IFm := { w := w, signed := true }
  s.rowWord (RowTime.arith.lat typ) (RowTime.arith.occ typ) w td row [(ta, row), (tb, row)] false true true fun vs m =>
    laneRow w m fun n => i.narrow true (g (lane w (vs.getD 0 0) n).toInt (lane w (vs.getD 1 0) n).toInt)

/-- VADD (R197): a + b, rounded once; integers wrap. -/
def execVadd (typ : BitVec 3) (td ta tb : BitVec 4) (row : BitVec 6) (s : State) : Out1 :=
  finish s (s.row2 .arith (typFloat typ) typ td ta tb row (FEnv.add) (fun _ a b => a + b))

/-- VSUB (R197): a - b, rounded once; integers wrap. -/
def execVsub (typ : BitVec 3) (td ta tb : BitVec 4) (row : BitVec 6) (s : State) : Out1 :=
  finish s (s.row2 .arith (typFloat typ) typ td ta tb row (FEnv.sub) (fun _ a b => a - b))

/-- VMUL (R197): a × b, rounded once; integers wrap. -/
def execVmul (typ : BitVec 3) (td ta tb : BitVec 4) (row : BitVec 6) (s : State) : Out1 :=
  finish s (s.row2 .arith (typFloat typ) typ td ta tb row (FEnv.mul) (fun _ a b => a * b))

/-- VMIN (R197): the minimum (R198). -/
def execVmin (typ : BitVec 3) (td ta tb : BitVec 4) (row : BitVec 6) (s : State) : Out1 :=
  finish s (s.row2 .arith (typFloat typ) typ td ta tb row ((fun e => e.pick false)) (fun _ a b => if a.slt b then a else b))

/-- VMAX (R197): the maximum (R198). -/
def execVmax (typ : BitVec 3) (td ta tb : BitVec 4) (row : BitVec 6) (s : State) : Out1 :=
  finish s (s.row2 .arith (typFloat typ) typ td ta tb row ((fun e => e.pick true)) (fun _ a b => if a.slt b then b else a))

/-- VDIV (R197): a / b (R74); integers as DIV in R75. -/
def execVdiv (typ : BitVec 3) (td ta tb : BitVec 4) (row : BitVec 6) (s : State) : Out1 :=
  finish s (s.row2 .div (typFloat typ) typ td ta tb row (FEnv.div) (fun _ a b => laneDiv a b))

/-- VAND (R197): bitwise and. -/
def execVand (typ : BitVec 3) (td ta tb : BitVec 4) (row : BitVec 6) (s : State) : Out1 :=
  finish s (s.row2 .arith (false) typ td ta tb row (bitsOp (· &&& ·)) (fun _ a b => a &&& b))

/-- VOR (R197): bitwise or. -/
def execVor (typ : BitVec 3) (td ta tb : BitVec 4) (row : BitVec 6) (s : State) : Out1 :=
  finish s (s.row2 .arith (false) typ td ta tb row (bitsOp (· ||| ·)) (fun _ a b => a ||| b))

/-- VXOR (R197): bitwise exclusive or. -/
def execVxor (typ : BitVec 3) (td ta tb : BitVec 4) (row : BitVec 6) (s : State) : Out1 :=
  finish s (s.row2 .arith (false) typ td ta tb row (bitsOp (· ^^^ ·)) (fun _ a b => a ^^^ b))

/-- VANDN (R197): a and not b. -/
def execVandn (typ : BitVec 3) (td ta tb : BitVec 4) (row : BitVec 6) (s : State) : Out1 :=
  finish s (s.row2 .arith (false) typ td ta tb row (bitsOp (fun a b => a &&& ~~~b)) (fun _ a b => a &&& ~~~b))

/-- VSHL (R197): a << c, 0 for c ≥ w (R199). -/
def execVshl (typ : BitVec 3) (td ta tb : BitVec 4) (row : BitVec 6) (s : State) : Out1 :=
  finish s (s.row2 .arith (false) typ td ta tb row (bitsOp (fun a _ => a)) (fun w a b => if b.toNat < w then a <<< b.toNat else 0))

/-- VSHR (R197): a >> c with zeros, 0 for c ≥ w (R199). -/
def execVshr (typ : BitVec 3) (td ta tb : BitVec 4) (row : BitVec 6) (s : State) : Out1 :=
  finish s (s.row2 .arith (false) typ td ta tb row (bitsOp (fun a _ => a)) (fun w a b => if b.toNat < w then a >>> b.toNat else 0))

/-- VSRA (R197): a >> c with copies of the sign (R199). -/
def execVsra (typ : BitVec 3) (td ta tb : BitVec 4) (row : BitVec 6) (s : State) : Out1 :=
  finish s (s.row2 .arith (false) typ td ta tb row (bitsOp (fun a _ => a)) (fun w a b => a.sshiftRight (min b.toNat w)))

/-- VABSD (R197): |a - b|, the exact difference rounded once; integers modulo 2^w. -/
def execVabsd (typ : BitVec 3) (td ta tb : BitVec 4) (row : BitVec 6) (s : State) : Out1 :=
  finish s (s.row2 .arith (typFloat typ) typ td ta tb row (FEnv.absd) (fun _ a b => laneAbsd a b))

/-- VCOPYSIGN (R197): a with the sign bit of b. -/
def execVcopysign (typ : BitVec 3) (td ta tb : BitVec 4) (row : BitVec 6) (s : State) : Out1 :=
  finish s (s.row2 .arith (false) typ td ta tb row (copySign) (fun _ a _ => a))

/-- VFMA (R197): d + a × b with one rounding; integers wrap. -/
def execVfma (typ : BitVec 3) (td ta tb : BitVec 4) (row : BitVec 6) (s : State) : Out1 :=
  finish s (s.row3 typ td ta tb row FEnv.fma (fun _ a b d => d + a * b))

/-- VFMS (R197): d - a × b with one rounding; integers wrap. -/
def execVfms (typ : BitVec 3) (td ta tb : BitVec 4) (row : BitVec 6) (s : State) : Out1 :=
  finish s (s.row3 typ td ta tb row FEnv.fms (fun _ a b d => d - a * b))

/-- VFNMA (R197): -d - a × b with one rounding; integers wrap. -/
def execVfnma (typ : BitVec 3) (td ta tb : BitVec 4) (row : BitVec 6) (s : State) : Out1 :=
  finish s (s.row3 typ td ta tb row FEnv.fnma (fun _ a b d => -d - a * b))

/-- VCEQ (R197): a compare (R198). -/
def execVceq (typ : BitVec 3) (td ta tb : BitVec 4) (row : BitVec 6) (s : State) : Out1 :=
  finish s (s.rowCmp typ td ta tb row true false (fun o => o == .eq))

/-- VCLT (R197): a compare (R198). -/
def execVclt (typ : BitVec 3) (td ta tb : BitVec 4) (row : BitVec 6) (s : State) : Out1 :=
  finish s (s.rowCmp typ td ta tb row false false (fun o => o == .lt))

/-- VCLE (R197): a compare (R198). -/
def execVcle (typ : BitVec 3) (td ta tb : BitVec 4) (row : BitVec 6) (s : State) : Out1 :=
  finish s (s.rowCmp typ td ta tb row false false (fun o => o != .gt))

/-- VCNE (R197): a compare (R198). -/
def execVcne (typ : BitVec 3) (td ta tb : BitVec 4) (row : BitVec 6) (s : State) : Out1 :=
  finish s (s.rowCmp typ td ta tb row true true (fun o => o != .eq))

/-- VADDS (R197): a + b clamped, SAT if clamped. -/
def execVadds (typ : BitVec 3) (td ta tb : BitVec 4) (row : BitVec 6) (s : State) : Out1 :=
  finish s (s.rowSat typ td ta tb row (fun a b => a + b))

/-- VSUBS (R197): a - b clamped, SAT if clamped. -/
def execVsubs (typ : BitVec 3) (td ta tb : BitVec 4) (row : BitVec 6) (s : State) : Out1 :=
  finish s (s.rowSat typ td ta tb row (fun a b => a - b))

/-- VMULH (R197): the upper half of the signed product. -/
def execVmulh (typ : BitVec 3) (td ta tb : BitVec 4) (row : BitVec 6) (s : State) : Out1 :=
  finish s (s.row2 .arith false typ td ta tb row (bitsOp (fun a _ => a)) (fun w a b => BitVec.ofInt w (a.toInt * b.toInt / 2 ^ w)))

/-- VSEL (R197): lane n of a where the prefix mask has bit n, else of b; every lane is written (R200). -/
def execVsel (typ : BitVec 3) (td ta tb : BitVec 4) (row : BitVec 6) (s : State) : Out1 :=
  finish s (let m := s.laneMask
    let w := typW typ
    s.rowWord (RowTime.arith.lat typ) (RowTime.arith.occ typ) w td row [(ta, row), (tb, row)] false false false fun vs _ =>
      (ofLanes w (fun n => if m.getLsbD n then lane w (vs.getD 0 0) n else lane w (vs.getD 1 0) n), 0))

end Sys2Proof.Machine
end

