-- ==== Sys2Proof/Machine/RowB.lean ====
section
/-! DEFINITION. ROW3B: unary forms, special functions, conversions and scans (08 R201-R205; 03 R71, R74, R76, R79) -/

namespace Sys2Proof.Machine

/-- A word of one source row, lane by lane (R201). -/
def State.row1 (s : State) (k : RowTime) (able : Bool) (typ : BitVec 3) (td ta : BitVec 4) (row : BitVec 6)
    (ff : FEnv → Nat → Nat × Flags) (fi : (w : Nat) → BitVec w → BitVec w) : Res :=
  let rm := s.cur.u.rm
  let w := typW typ
  s.rowWord (k.lat typ) (k.occ typ) w td row [(ta, row)] false true able fun vs m =>
    laneRow w m fun n =>
      if typFloat typ then ff (fenv typ rm) (laneN w (vs.getD 0 0) n) else ((fi w (lane w (vs.getD 0 0) n)).toNat, 0)

/-- |a| modulo 2^w. -/
def laneAbs {w : Nat} (a : BitVec w) : BitVec w := if a.msb then -a else a

/-- The count of leading zero bits. -/
def laneClz {w : Nat} (a : BitVec w) : BitVec w := BitVec.ofNat w (w - bitLen a.toNat)

/-- The count of 1 bits. -/
def popCount {w : Nat} (a : BitVec w) : Nat := countTrue ((List.range w).map a.getLsbD)

/-- One step of a scan (R79): the running value, the result lanes so far (newest first) and the flags. -/
structure ScanSt where
  acc : Nat
  outs : List Nat
  fl : Flags

/-- A scan from lane 0 over `lanes` lanes: `x n` is lane n or the identity, `head n` restarts, `copy` takes a lane as an
operand, `comb` combines (R79, R203). -/
def scanLanes (lanes : Nat) (x : Nat → Nat) (head : Nat → Bool) (copy : Nat → Nat × Flags)
    (comb : Nat → Nat → Nat × Flags) : List Nat × Flags :=
  let r := (List.range lanes).foldl (fun (st : ScanSt) n =>
    let (v, fl) := if n = 0 || head n then copy (x n) else comb st.acc (x n)
    { acc := v, outs := v :: st.outs, fl := st.fl ||| fl }) { acc := 0, outs := [], fl := 0 }
  (r.outs.reverse, r.fl)

/-- The row of the lanes a scan gives. -/
def rowOfNats (w : Nat) (l : List Nat) : Row := BitVec.ofNat 2048 (packLanes w (l.map (BitVec.ofNat w)))

/-- How lanes of a type are copied and combined in sums and maxima. -/
def scanCopy (typ : BitVec 3) (rm : Word) (a : Nat) : Nat × Flags := if typFloat typ then (fenv typ rm).copy a else (a, 0)

def sumComb (typ : BitVec 3) (rm : Word) (a b : Nat) : Nat × Flags :=
  if typFloat typ then (fenv typ rm).add a b else ((a + b) % 2 ^ typW typ, 0)

def pickComb (typ : BitVec 3) (rm : Word) (mx : Bool) (a b : Nat) : Nat × Flags :=
  if typFloat typ then (fenv typ rm).pick mx a b
  else
    let i : IFm := { w := typW typ, signed := true }
    let less := decide (i.decode a < i.decode b)
    (if less == mx then b else a, 0)

/-- The identities of R203 and R210. -/
def sumIdent (typ : BitVec 3) : Nat := if typFloat typ then 2 ^ (typW typ - 1) else 0

def pickIdent (typ : BitVec 3) (mx : Bool) : Nat :=
  let w := typW typ
  if typFloat typ then (((typFF typ).inf.getD 0) + (if mx then 2 ^ (w - 1) else 0))
  else if mx then 2 ^ (w - 1) else 2 ^ (w - 1) - 1

/-- A scan whose masked-off lanes contribute the identity and are not written (R203). -/
def State.rowScan (s : State) (typ : BitVec 3) (td ta : BitVec 4) (row : BitVec 6) (ident : Nat)
    (comb : Nat → Nat → Nat × Flags) : Res :=
  let rm := s.cur.u.rm
  let w := typW typ
  s.rowWord 8 1 w td row [(ta, row)] false true (typFloat typ) fun vs m =>
    let (l, fl) := scanLanes (typLanes typ) (fun n => if m.getLsbD n then laneN w (vs.getD 0 0) n else ident)
      (fun _ => false) (scanCopy typ rm) comb
    (rowOfNats w l, fl)

/-! ## Conversions (R204, R205, R148) -/

/-- The destination format of a conversion: the tile's efmt where it holds a narrow code from 8 to 13, else typ (R148). -/
def cvtDst (typ : BitVec 3) (efmt : BitVec 4) : BitVec 4 :=
  if 8 ≤ efmt.toNat && efmt.toNat ≤ 13 then efmt else typ.setWidth 4

/-- The FORMAT cases of R205. -/
def cvtBad (typ : BitVec 3) (efmt : BitVec 4) : Bool :=
  efmt == 12 || (decide (8 ≤ efmt.toNat) && decide (efmt.toNat ≤ 13) && typ != 6) || (decide (14 ≤ efmt.toNat) && typ == 6)

/-- Elements of a row in a format: 1,024 weights for cb2. -/
def rowElems (f : Fmt) : Nat :=
  match f with
  | .cb2 => 1024
  | _ => if f.bits = 0 then 0 else 2048 / f.bits

/-- What element `n` of a row in a format stands for: an integer apart from floating values. -/
def srcElem (f : Fmt) (ftz : Bool) (r : Row) (n : Nat) : FVal ⊕ Int :=
  match f with
  | .flt x => .inl (x.read ftz (laneN x.w r n))
  | .int i => .inr (i.decode (laneN i.w r n))
  | .cb2 => .inl (cb2Val (laneN 16 r (n / 8)) (n % 8))
  | .bad => .inr 0

/-- One element converted (R76). -/
def cvtElem (dst : Fmt) (mode : RMode) (ftz sat : Bool) (x : FVal ⊕ Int) (draw : Nat) : Nat × Flags :=
  match dst, x with
  | .flt f, .inl v => f.convert (f.modeFor mode) ftz sat v draw
  | .flt f, .inr i => f.convert (f.modeFor mode) ftz sat (.ofInt i) draw
  | .int i, .inl v => i.convert mode v
  | .int i, .inr v => i.narrow sat v
  | _, _ => (0, 0)

/-- A conversion of a row (R204): the row, the mask's bytes and the flags; `draws` are the numbers of SR in element order. -/
def cvtRow (src dst : Fmt) (rm : Word) (sat : Bool) (m : Mask) (r : Row) (draws : List Nat) : Row × Flags :=
  let ld := rowElems dst
  let e := min (rowElems src) ld
  let w := dst.bits
  let on := fun (n : Nat) => m.getLsbD (if w = 4 then n / 2 else n)
  let rs := (List.range ld).map (fun n =>
    if on n && decide (n < e) then
      cvtElem dst (modeOf rm) (ftzOf rm) sat (srcElem src (ftzOf rm) r n) (draws.getD n 0)
    else (0, 0))
  (rowOfNats w (rs.map (fun x => x.1)), rs.foldl (fun a x => a ||| x.2) 0)

/-- VCVT and VCVTS (R204, R205): drawing under SR once for each element converted, masked ones included (R71). -/
def State.rowCvt (s : State) (sat : Bool) (typ : BitVec 3) (td ta tb : BitVec 4) (row : BitVec 6) : Res :=
  let efmt := seg (s.cur.tile td).attr 0 4
  let rm := s.cur.u.rm
  let src := fmtOf tb
  let dst := fmtOf (cvtDst typ efmt)
  s.vpipe 1 fun s1 =>
    let m := s.laneMask
    s1.withRows [] (if s.iss.ke then [(ta, row), (td, row)] else [(ta, row)]) fun vs s2 =>
      if cvtBad typ efmt then .trap ⟨cFormat, 0⟩
      else
        s2.pushCheck td 1 fun s2 =>
          let n := min (rowElems src) (rowElems dst)
          let sr := modeOf rm == .sr && dst.draws
          let (draws, gen) := if sr then srDraws s.cur.genNow n else ([], s.cur.genNow)
          let (v, fl) := cvtRow src dst rm sat m (vs.getD 0 0) draws
          s2.withFlags 4 fl fun s3 =>
            let s4 := if sr then s3.push 1 (.gen gen) else s3
            .ok (s4.pushRow 4 td row v (laneSel (max 1 (dst.bits / 8)) m))

/-- VABS (R201): floating: the sign bit cleared, no flag; integers |a| modulo 2^w. -/
def execVabs (typ : BitVec 3) (td ta : BitVec 4) (row : BitVec 6) (s : State) : Out1 :=
  finish s (s.row1 .arith false typ td ta row (fun e a => (a % 2 ^ (e.f.w - 1), 0)) (fun _ a => laneAbs a))

/-- VNEG (R201): floating: the sign bit flipped, no flag; integers -a modulo 2^w. -/
def execVneg (typ : BitVec 3) (td ta : BitVec 4) (row : BitVec 6) (s : State) : Out1 :=
  finish s (s.row1 .arith false typ td ta row (fun e a => (a ^^^ 2 ^ (e.f.w - 1), 0)) (fun _ a => -a))

/-- VSQRT (R201): the square root (R74). -/
def execVsqrt (typ : BitVec 3) (td ta : BitVec 4) (row : BitVec 6) (s : State) : Out1 :=
  finish s (s.row1 .special true typ td ta row FEnv.sqrt (fun _ a => a))

/-- VRCP (R201): the reciprocal (R74). -/
def execVrcp (typ : BitVec 3) (td ta : BitVec 4) (row : BitVec 6) (s : State) : Out1 :=
  finish s (s.row1 .special true typ td ta row FEnv.rcp (fun _ a => a))

/-- VRSQ (R201): the reciprocal square root (R74). -/
def execVrsq (typ : BitVec 3) (td ta : BitVec 4) (row : BitVec 6) (s : State) : Out1 :=
  finish s (s.row1 .special true typ td ta row FEnv.rsq (fun _ a => a))

/-- VEXP2 (R201): 2 to the power a (R74). -/
def execVexp2 (typ : BitVec 3) (td ta : BitVec 4) (row : BitVec 6) (s : State) : Out1 :=
  finish s (s.row1 .special true typ td ta row FEnv.exp2 (fun _ a => a))

/-- VLOG2 (R201): the base-2 logarithm (R74). -/
def execVlog2 (typ : BitVec 3) (td ta : BitVec 4) (row : BitVec 6) (s : State) : Out1 :=
  finish s (s.row1 .special true typ td ta row FEnv.log2 (fun _ a => a))

/-- VTANH (R201): the hyperbolic tangent (R74). -/
def execVtanh (typ : BitVec 3) (td ta : BitVec 4) (row : BitVec 6) (s : State) : Out1 :=
  finish s (s.row1 .special true typ td ta row FEnv.tanh (fun _ a => a))

/-- VFLOOR (R201): rounded to an integral value toward minus infinity; NV for a signalling NaN. -/
def execVfloor (typ : BitVec 3) (td ta : BitVec 4) (row : BitVec 6) (s : State) : Out1 :=
  finish s (s.row1 .arith true typ td ta row (fun e => e.rint .rdn false) (fun _ a => a))

/-- VCEIL (R201): rounded to an integral value toward plus infinity; NV for a signalling NaN. -/
def execVceil (typ : BitVec 3) (td ta : BitVec 4) (row : BitVec 6) (s : State) : Out1 :=
  finish s (s.row1 .arith true typ td ta row (fun e => e.rint .rup false) (fun _ a => a))

/-- VRINT (R201): rounded to an integral value under RM; NX when it changes. -/
def execVrint (typ : BitVec 3) (td ta : BitVec 4) (row : BitVec 6) (s : State) : Out1 :=
  finish s (s.row1 .arith true typ td ta row (fun e => e.rint e.mode true) (fun _ a => a))

/-- VCLZ (R201): leading zero bits of the lane, w for 0. -/
def execVclz (typ : BitVec 3) (td ta : BitVec 4) (row : BitVec 6) (s : State) : Out1 :=
  finish s (s.row1 .arith false typ td ta row (fun _ a => (a, 0)) (fun _ a => laneClz a))

/-- VPOPC (R201): the count of 1 bits. -/
def execVpopc (typ : BitVec 3) (td ta : BitVec 4) (row : BitVec 6) (s : State) : Out1 :=
  finish s (s.row1 .arith false typ td ta row (fun _ a => (a, 0)) (fun w a => BitVec.ofNat w (popCount a)))

/-- VNOT (R201): bitwise not, no flag. -/
def execVnot (typ : BitVec 3) (td ta : BitVec 4) (row : BitVec 6) (s : State) : Out1 :=
  finish s (s.row1 .arith false typ td ta row (fun e a => (2 ^ e.f.w - 1 - a % 2 ^ e.f.w, 0)) (fun _ a => ~~~a))

/-- VCLASS (R201): the class bit of R202, no flag. -/
def execVclass (typ : BitVec 3) (td ta : BitVec 4) (row : BitVec 6) (s : State) : Out1 :=
  finish s (s.row1 .arith false typ td ta row (fun e a => (e.cls a, 0)) (fun _ a => a))

/-- VCVT (R204): conversion, the plain form. -/
def execVcvt (typ : BitVec 3) (td ta tb : BitVec 4) (row : BitVec 6) (s : State) : Out1 :=
  finish s (s.rowCvt false typ td ta tb row)

/-- VCVTS (R204): conversion, the saturating form. -/
def execVcvts (typ : BitVec 3) (td ta tb : BitVec 4) (row : BitVec 6) (s : State) : Out1 :=
  finish s (s.rowCvt true typ td ta tb row)

/-- VSCAN (R201): sums in sequence (R203). -/
def execVscan (typ : BitVec 3) (td ta : BitVec 4) (row : BitVec 6) (s : State) : Out1 :=
  finish s (s.rowScan typ td ta row (sumIdent typ) (sumComb typ s.cur.u.rm))

/-- VSCANMAX (R201): maxima in sequence (R203). -/
def execVscanmax (typ : BitVec 3) (td ta : BitVec 4) (row : BitVec 6) (s : State) : Out1 :=
  finish s (s.rowScan typ td ta row (pickIdent typ true) (pickComb typ s.cur.u.rm true))

/-- VSEGSCAN (R201): sums in sequence, restarting at every lane whose bit is set in the head mask; every lane is written (R203). -/
def execVsegscan (typ : BitVec 3) (td ta : BitVec 4) (row : BitVec 6) (s : State) : Out1 :=
  finish s (let heads := s.laneMask
    let rm := s.cur.u.rm
    let w := typW typ
    s.rowWord 8 1 w td row [(ta, row)] false false (typFloat typ) fun vs _ =>
      let (l, fl) := scanLanes (typLanes typ) (laneN w (vs.getD 0 0)) heads.getLsbD (scanCopy typ rm) (sumComb typ rm)
      (rowOfNats w l, fl))

end Sys2Proof.Machine
end

