-- ==== Sys2Proof/Machine/RowX.lean ====
section
/-! DEFINITION. ROWX: moves, transposes and whole tiles (08 R206-R208; 02 R34, R36, R37, R44, R47) -/

namespace Sys2Proof.Machine

/-- A row moved as 64 groups of 4 bytes under the mask of a prefix (R196, R206). -/
def State.rowMove (s : State) (l : Nat) (td : BitVec 4) (rd : BitVec 6) (srcs : List (BitVec 4 × BitVec 6)) (f : Row → Row) : Res :=
  s.vpipe 1 fun s1 =>
    s1.withRows [] (if s.iss.ke then srcs ++ [(td, rd)] else srcs) fun vs s2 =>
      s2.pushCheck td 1 fun s2 => .ok (s2.pushRow l td rd (f (vs.getD 0 0)) (laneSel 4 s.laneMask))

/-- VMOV (R206): td.rd := ta.ra. -/
def execVmov (td : BitVec 4) (rd : BitVec 6) (ta : BitVec 4) (ra : BitVec 6) (s : State) : Out1 :=
  finish s (s.rowMove 2 td rd [(ta, ra)] id)

/-- VSWAP (R206): the two rows exchanged, both read at issue, both landing together. -/
def execVswap (td : BitVec 4) (rd : BitVec 6) (ta : BitVec 4) (ra : BitVec 6) (s : State) : Out1 :=
  finish s (s.vpipe 1 fun s1 => s1.withRows [] [(ta, ra), (td, rd)] fun vs s2 =>
    s2.pushCheck td (if td = ta then 2 else 1) fun s2 => s2.pushCheck ta (if td = ta then 0 else 1) fun s2 =>
      let sel := laneSel 4 s.laneMask
      .ok ((s2.pushRow 2 td rd (vs.getD 0 0) sel).pushRow 2 ta ra (vs.getD 1 0) sel))

/-- Element `x` of row `i` of a transposed 8-row group (R207): block `x / 8`, place `x % 8`. -/
def trnElem (w : Nat) (rows : List Row) (i x : Nat) : BitVec w := lane w (rows.getD (x % 8) 0) (x / 8 * 8 + i)

/-- Row `i` of a transposed 8-row group of `w`-bit elements (R207). -/
def trnRow (w : Nat) (rows : List Row) (i : Nat) : Row := ofLanes w (trnElem w rows i)

/-- TRN8 (R207): rows ra to ra + 7 read at issue, rows rd to rd + 7 landing together 9 issue cycles later. -/
def State.transpose (s : State) (w : Nat) (td : BitVec 4) (rd : BitVec 6) (ta : BitVec 4) (ra : BitVec 6) : Res :=
  s.vpipe 1 fun s1 =>
    s1.withRows [] ((List.range 8).map (fun m => (ta, ra + BitVec.ofNat 6 m))) fun vs s2 =>
      s2.pushCheck td 8 fun s2 =>
        .ok ((List.range 8).foldl (fun s i => s.pushRow 9 td (rd + BitVec.ofNat 6 i) (trnRow w vs i) (BitVec.allOnes 256)) s2)

/-- TRN8.B (R207): blocks of eight bytes. -/
def execTrn8B (td : BitVec 4) (rd : BitVec 6) (ta : BitVec 4) (ra : BitVec 6) (s : State) : Out1 :=
  finish s (s.transpose 8 td rd ta ra)

/-- TRN8.H (R207): blocks of eight 2-byte elements. -/
def execTrn8H (td : BitVec 4) (rd : BitVec 6) (ta : BitVec 4) (ra : BitVec 6) (s : State) : Out1 :=
  finish s (s.transpose 16 td rd ta ra)

/-- TRN8.W (R207): blocks of eight 4-byte elements. -/
def execTrn8W (td : BitVec 4) (rd : BitVec 6) (ta : BitVec 4) (ra : BitVec 6) (s : State) : Out1 :=
  finish s (s.transpose 32 td rd ta ra)

/-- VREV (R206): group g of td.rd := group 63 - g of ta.ra. -/
def execVrev (td : BitVec 4) (rd : BitVec 6) (ta : BitVec 4) (ra : BitVec 6) (s : State) : Out1 :=
  finish s (s.rowMove 2 td rd [(ta, ra)] (fun v => ofLanes 32 (fun g => lane 32 v (63 - g))))

/-- VZERO (R206): td.rd := 0. -/
def execVzero (td : BitVec 4) (rd : BitVec 6) (s : State) : Out1 :=
  finish s (s.rowMove 1 td rd [] (fun _ => 0))

/-- TZERO (R206, R34): all rows 0 and FULL, the live bit cleared. -/
def execTzero (td : BitVec 4) (s : State) : Out1 :=
  finish s (s.vpipe 1 fun s1 => s1.pushCheck td 64 fun s1 => .ok (s1.push 1 (.zeroTile td 0)))

/-- The rows of a tile, 0 to 63. -/
def tileRows (t : BitVec 4) : List (BitVec 4 × BitVec 6) := (List.range 64).map (fun n => (t, BitVec.ofNat 6 n))

/-- A whole tile produced long-latency: every destination row marked EMPTY, row n delivered `lead + n` issue cycles after
issue (R208, R224). -/
def State.tileProducer (s : State) (td : BitVec 4) (lead : Nat) (vs : List Row) : State :=
  let (tag, s1) := s.newTag
  (List.range 64).foldl (fun s n =>
    let d : Dest := .row td (BitVec.ofNat 6 n)
    (s.mark tag d).deliver
      { sid := s.cur.sid
        tag := tag
        dest := d
        v := vs.getD n 0
        sel := BitVec.allOnes 256
        poison := false
        due := .issue (s.core.isc + lead + n) }) s1

/-- TMOV (R208): every row of ta read at issue and delivered into td; efmt, afmt, bm and the bitmap copied, ta's TSW ORed into td's, at
the end of the issue cycle (notes/assumptions 89: DESIGN CHOICE). With td = ta nothing changes. -/
def execTmov (td ta : BitVec 4) (s : State) : Out1 :=
  finish s (s.vpipe 1 fun s1 => s1.withRows [] (tileRows ta) fun vs s2 =>
    if td = ta then .ok s2
    else s2.pushCheck td 64 fun s2 =>
      let a := s.cur.tile ta
      .ok (((s2.tileProducer td 2 vs).push 1 (.moved td a.attr (some a.bm))).push 1
        (.tsw td false a.tsw)))

end Sys2Proof.Machine
end

