-- ==== Sys2Proof/Machine/Perm.lean ====
section
/-! DEFINITION. PERM: the switch network, its canonical routing, solves, queries and the application of permutations (09
R212-R225). -/

namespace Sys2Proof.Machine

/-! ## The network (R213, R214) -/

/-- The setting of a switch of a stage. -/
def swBit (v : Switches) (stage sw : Nat) : Nat := bit (v.getLsbD (32 * stage + sw))

/-- The input that reaches output `o` of the sub-network of `fuel` further levels at level `l` with base `base`. -/
def routeBack (v : Switches) : Nat → Nat → Nat → Nat → Nat
  | 0, l, base, o => (o + swBit v l base) % 2
  | fuel + 1, l, base, o =>
    let side := (o + swBit v (10 - l) (base + o / 2)) % 2
    let y := routeBack v fuel (l + 1) (base + side * 2 ^ (4 - l)) (o / 2)
    2 * y + (side + swBit v l (base + y)) % 2

/-- p(i): the input that output `i` receives (R212, R213). -/
def permAt (v : Switches) (i : Nat) : Nat := routeBack v 5 0 0 i

/-- The permutation as a list. -/
def permList (v : Switches) : List Nat := (List.range 64).map (permAt v)

/-! ## Canonical routing (R215) -/

/-- The position of a value in a list. -/
def invAt (q : List Nat) (x : Nat) : Nat := (q.findIdx? (· == x)).getD 0

/-- The loop from input `x`: sides are given until a routed input is met. -/
def routeLoop (q : List Nat) : Nat → Nat → List (Option Nat) → List (Option Nat)
  | 0, _, sides => sides
  | fuel + 1, x, sides =>
    if (sides.getD x none).isSome then sides
    else
      let o := invAt q x
      let o2 := if o % 2 = 0 then o + 1 else o - 1
      let x2 := q.getD o2 0
      routeLoop q fuel (if x2 % 2 = 0 then x2 + 1 else x2 - 1) (listSet (listSet sides x (some 0)) x2 (some 1))

/-- The sub-network of every input of a permutation. -/
def routeSides (q : List Nat) : List Nat :=
  ((List.range q.length).foldl (fun sides x => routeLoop q (q.length + 1) x sides) (List.replicate q.length none)).map
    (fun s => s.getD 0)

/-- The permutation of one sub-network. -/
def subPerm (q sides : List Nat) (side : Nat) : List Nat :=
  (List.range (q.length / 2)).map (fun j =>
    let o := if sides.getD (q.getD (2 * j) 0) 0 = side then 2 * j else 2 * j + 1
    q.getD o 0 / 2)

/-- The set bits of the canonical routing, `fuel` levels left at level `l`. -/
def canonBits : Nat → Nat → Nat → List Nat → List Nat
  | 0, l, base, q => if q.getD 0 0 = 1 then [32 * l + base] else []
  | fuel + 1, l, base, q =>
    let sides := routeSides q
    let h := q.length / 2
    let ins := (List.range h).filter (fun j => sides.getD (2 * j) 0 == 1)
    let outs := (List.range h).filter (fun j => sides.getD (q.getD (2 * j) 0) 0 == 1)
    ins.map (fun j => 32 * l + base + j) ++ outs.map (fun j => 32 * (10 - l) + base + j)
      ++ canonBits fuel (l + 1) base (subPerm q sides 0)
      ++ canonBits fuel (l + 1) (base + 2 ^ (4 - l)) (subPerm q sides 1)

/-- canon(64, p) (R215). -/
def canon (p : List Nat) : Switches := (canonBits 5 0 0 p).foldl (fun v b => v ||| (1 <<< b)) 0

/-! ## Index vectors and random permutations (R218, R221) -/

/-- The first lane of an index vector that is out of range or repeats an earlier one. -/
def firstBad (n : Nat) (v : List Nat) : Option Nat :=
  (List.range n).find? (fun k => decide (n ≤ v.getD k 0) || (v.take k).elem (v.getD k 0))

/-- The trap value of PERM_INVALID, or none for a valid vector (R218). -/
def permFault (n : Word) (v : List Nat) : Option Word :=
  if n.toNat = 0 ∨ 64 < n.toNat then some (0xFF00FF ||| (seg n 0 32).setWidth 64 <<< 32)
  else
    match firstBad n.toNat v with
    | none => none
    | some k =>
      let missing := ((List.range n.toNat).find? (fun i => !(v.take n.toNat).elem i)).getD 0
      some (w64 (k + v.getD k 0 * 2 ^ 8 + missing * 2 ^ 16 + n.toNat * 2 ^ 24))

/-- The exchanges of PRAND from position `i` down. -/
def shuffle : Nat → Word → List Nat → List Nat
  | 0, _, v => v
  | i + 1, g, v =>
    let g1 := srNext g
    let u := (srOut g1).toNat / 2 ^ 32
    let j := u * (i + 2) / 2 ^ 32
    shuffle i g1 (listSet (listSet v (i + 1) (v.getD j 0)) j (v.getD (i + 1) 0))

/-- The permutation of a seed (R221). -/
def prandList (seed : Word) : List Nat := shuffle 63 seed (List.range 64)

/-! ## Solves (R219) -/

/-- A solve into pd: held while four are started or waiting; it starts at most every 8 issue cycles, in issue order, and is
delivered 40 issue cycles after its start. -/
def State.solve (s : State) (pd : BitVec 3) (v : Switches) : Res :=
  if 4 ≤ s.core.solves.length then .hold .other
  else
    let (tag, s1) := s.newTag
    let start := max s.core.isc s.core.lastSolve
    let x : Solve := { sid := s.cur.sid, tag := tag, pd := pd, v := v, wait := start, left := start + 40 }
    .ok ({ s1 with core := { s1.core with solves := s1.core.solves ++ [x], lastSolve := start + 8 } }.mark tag (.p pd))

/-- PLOAD (R218). -/
def execPload (pd : BitVec 3) (t : BitVec 4) (row : BitVec 6) (r : BitVec 5) (s : State) : Out1 :=
  finish s (s.withRows [.s r false] [(t, row)] fun vs s1 =>
    let n := s.rs r
    let v := ((rowBytes (vs.getD 0 0)).take 64).map BitVec.toNat
    match permFault n v with
    | some x => .trap ⟨cPermInvalid, x⟩
    | none => s1.solve pd (canon ((List.range 64).map (fun i => if i < n.toNat then v.getD i 0 else i))))

/-- PCOMP (R217): i to pa(pb(i)). -/
def execPcomp (pd pa pb : BitVec 3) (s : State) : Out1 :=
  finish s (s.withSrcs [.p pa, .p pb] fun _ =>
    let a := s.cur.pv pa
    let b := s.cur.pv pb
    s.solve pd (canon ((List.range 64).map (fun i => permAt a.v (permAt b.v i)))))

/-- PINV (R217). -/
def execPinv (pd pa : BitVec 3) (s : State) : Out1 :=
  finish s (s.withSrcs [.p pa] fun _ =>
    let q := permList (s.cur.pv pa).v
    s.solve pd (canon ((List.range 64).map (invAt q))))

/-- PRAND (R221). -/
def execPrand (pd : BitVec 3) (r : BitVec 5) (s : State) : Out1 :=
  finish s (s.withSrcs [.s r false] fun _ => s.solve pd (canon (prandList (s.rs r))))

/-! ## Moves (R217) -/

/-- PSTORE (R217): byte i := pa(i) for i < 64, the rest 0. -/
def execPstore (pa : BitVec 3) (t : BitVec 4) (row : BitVec 6) (s : State) : Out1 :=
  finish s (s.withSrcs [.p pa] fun _ => s.pushCheck t 1 fun s1 =>
    .ok (s1.pushRow 4 t row (rowOf ((permList (s.cur.pv pa).v).map (BitVec.ofNat 8))) (BitVec.allOnes 256)))

/-- PGETR (R217): the settings as stored, the rest 0. -/
def execPgetr (pa : BitVec 3) (t : BitVec 4) (row : BitVec 6) (s : State) : Out1 :=
  finish s (s.withSrcs [.p pa] fun _ => s.pushCheck t 1 fun s1 =>
    .ok (s1.pushRow 4 t row ((s.cur.pv pa).v.setWidth 2048) (BitVec.allOnes 256)))

/-- PSETR (R217): bytes 0 to 43 as settings. -/
def execPsetr (pd : BitVec 3) (t : BitVec 4) (row : BitVec 6) (s : State) : Out1 :=
  finish s (s.withRows [] [(t, row)] fun vs s1 => .ok (s1.pushP 4 pd ((vs.getD 0 0).setWidth 352)))

/-- PID (R217): the identity, all zeros. -/
def execPid (pd : BitVec 3) (s : State) : Out1 := finish s (.ok (s.pushP 4 pd 0))

/-- PMOV (R217): the settings, bit for bit. -/
def execPmov (pd pa : BitVec 3) (s : State) : Out1 :=
  finish s (s.withSrcs [.p pa] fun _ => .ok (s.pushP 4 pd (s.cur.pv pa).v))

/-! ## Queries (R217, R222, R223) -/

/-- The cycle of a position: its members from `x` on until `stop` comes up again. -/
def cycleFrom (q : List Nat) (stop : Nat) : Nat → Nat → List Nat
  | 0, _ => []
  | fuel + 1, x => if q.getD x 0 = stop then [x] else x :: cycleFrom q stop fuel (q.getD x 0)

/-- The cycle of a position. -/
def cycleOf (q : List Nat) (x : Nat) : List Nat := cycleFrom q x 64 x

/-- The cycles, each named by its lowest member. -/
def cycles (q : List Nat) : List (List Nat) :=
  ((List.range 64).map (cycleOf q)).filter (fun c => c.all (fun y => decide (c.headD 0 ≤ y)))

/-- A query of one permutation with a scalar result. -/
def State.query1 (s : State) (pa : BitVec 3) (r : BitVec 5) (f : List Nat → Nat) : Res :=
  s.withSrcs [.p pa] fun _ => .ok (s.pushS 8 r (w64 (f (permList (s.cur.pv pa).v))))

/-- PCYC (R217): the number of cycles, fixed points included. -/
def execPcyc (pa : BitVec 3) (r : BitVec 5) (s : State) : Out1 := finish s (s.query1 pa r (fun q => (cycles q).length))

/-- PFIX (R217): the number of fixed points. -/
def execPfix (pa : BitVec 3) (r : BitVec 5) (s : State) : Out1 :=
  finish s (s.query1 pa r (fun q => ((List.range 64).filter (fun i => q.getD i 0 == i)).length))

/-- PORD (R217): the least common multiple of the cycle lengths. -/
def execPord (pa : BitVec 3) (r : BitVec 5) (s : State) : Out1 :=
  finish s (s.query1 pa r (fun q => (cycles q).foldl (fun m c => Nat.lcm m c.length) 1))

/-- PCLEN (R217): the length of the cycle of position s[s], 0 from 64 on. -/
def execPclen (pa : BitVec 3) (r : BitVec 5) (s : State) : Out1 :=
  finish s (s.withSrcs [.p pa, .s r false] fun _ =>
    let n := (s.rs r).toNat
    .ok (s.pushS 8 r (if 64 ≤ n then 0 else w64 (cycleOf (permList (s.cur.pv pa).v) n).length)))

/-- PEQ (R217, R223): whether two registers hold one permutation. -/
def execPeq (pa pb : BitVec 3) (r : BitVec 5) (s : State) : Out1 :=
  finish s (s.withSrcs [.p pa, .p pb] fun _ =>
    .ok (s.pushS 8 r (if permList (s.cur.pv pa).v = permList (s.cur.pv pb).v then 1 else 0)))

/-! ## Applying (R224, R225) -/

/-- PAPPLY.R (R224): td row i := ta row pa(i), delivered at issue cycle c + 4 + i; the row network carries one at a time, and while it
is busy the word's sources are read under R40 all the same (R143). -/
def execPapplyR (pa : BitVec 3) (td ta : BitVec 4) (s : State) : Out1 :=
  finish s (s.withRows [.p pa] (tileRows ta) fun vs s1 =>
    if s.core.isc < s.core.netBusy then .hold .other
    else
      let q := permList (s.cur.pv pa).v
      let a := s.cur.tile ta
      let bm : Option (Vector (BitVec 512) 64) :=
        if a.attr.getLsbD 9 then some (Vector.ofFn (fun i => a.bm.get (Fin.ofNat 64 (q.getD i.val 0)))) else none
      s1.pushCheck td 64 fun s1 =>
      let s2 : State := { s1 with core := { s1.core with netBusy := s.core.isc + 67 } }
      .ok (((s2.tileProducer td 4 (q.map (fun i => vs.getD i 0))).push 1 (.moved td a.attr bm)).push 1
        (.tsw td false a.tsw)))

/-- PAPPLY.L (R225): group g of four bytes := group pa(g). -/
def execPapplyL (pa : BitVec 3) (td ta : BitVec 4) (row : BitVec 6) (s : State) : Out1 :=
  finish s (s.withRows [.p pa] [(ta, row)] fun vs s1 => s1.pushCheck td 1 fun s1 =>
    let v := vs.getD 0 0
    let p := (s.cur.pv pa).v
    .ok (s1.pushRow 6 td row (ofLanes 32 (fun g => lane 32 v (permAt p g))) (BitVec.allOnes 256)))

end Sys2Proof.Machine
end

