-- ==== Sys2Proof/Machine/RowS.lean ====
section
/-! DEFINITION. ROWS: scalars, reductions and masks (08 R209-R211; 03 R79) -/

namespace Sys2Proof.Machine

/-- A lane written to a scalar: a floating one zero-extended, an integer one sign-extended (R209). -/
def laneToScalar (typ : BitVec 3) (x : Nat) : Word :=
  if typFloat typ then w64 (x % 2 ^ typW typ) else (BitVec.ofNat (typW typ) x).signExtend 64

/-- A row of one value in every lane. -/
def bcastRow (typ : BitVec 3) (v : Word) : Row := ofLanes (typW typ) (fun _ => v.setWidth (typW typ))

/-- A word that writes t.row from a scalar or a mask, with latency 2, under the lane mask. -/
def State.rowFrom (s : State) (able : Bool) (typ : BitVec 3) (t : BitVec 4) (row : BitVec 6) (srcs : List Src)
    (f : Mask → Row × Flags) : Res :=
  s.vpipe 1 fun s1 =>
    s1.withRows srcs (if s.iss.ke then [(t, row)] else []) fun _ s2 =>
      s2.pushCheck t 1 fun s2 =>
        let (v, fl) := f s.laneMask
        let done := fun (s3 : State) => Res.ok (s3.pushRow 2 t row v (laneSel (typW typ / 8) s.laneMask))
        if able then s2.withFlags 2 fl done else done s2

/-- VBCAST (R209): every lane of t.row := the low bits of s[s]. -/
def execVbcast (typ : BitVec 3) (t : BitVec 4) (row : BitVec 6) (r : BitVec 5) (s : State) : Out1 :=
  finish s (s.rowFrom false typ t row [.s r false] (fun _ => (bcastRow typ (s.rs r), 0)))

/-- VEXTR (R209): s[s] := lane s[s] of the row, extended; 0 beyond the lanes. -/
def execVextr (typ : BitVec 3) (t : BitVec 4) (row : BitVec 6) (r : BitVec 5) (s : State) : Out1 :=
  finish s (s.vpipe 1 fun s1 => s1.withRows [.s r false] [(t, row)] fun vs s2 =>
    let n := (s.rs r).toNat
    .ok (s2.pushS 3 r (if n < typLanes typ then laneToScalar typ (laneN (typW typ) (vs.getD 0 0) n) else 0)))

/-- One level of the pairwise tree (R79): neighbours combined, an unpaired last value passed on. -/
def treeLevel (comb : Nat → Nat → Nat × Flags) : List Nat → List Nat × Flags
  | a :: b :: t =>
    let (v, f1) := comb a b
    let (l, f2) := treeLevel comb t
    (v :: l, f1 ||| f2)
  | l => (l, 0)

/-- The pairwise tree over a list, `fuel` levels at most. -/
def tree (comb : Nat → Nat → Nat × Flags) : Nat → List Nat → Nat × Flags
  | 0, l => (l.getD 0 0, 0)
  | fuel + 1, l =>
    match l with
    | [] => (0, 0)
    | [x] => (x, 0)
    | l =>
      let (l1, f1) := treeLevel comb l
      let (v, f2) := tree comb fuel l1
      (v, f1 ||| f2)

/-- A reduction to a scalar (R210): masked-off lanes enter as the identity. -/
def State.reduce (s : State) (typ : BitVec 3) (t : BitVec 4) (row : BitVec 6) (r : BitVec 5) (ident : Nat)
    (comb : Nat → Nat → Nat × Flags) : Res :=
  s.vpipe 1 fun s1 => s1.withRows [] [(t, row)] fun vs s2 =>
    let m := s.laneMask
    let (v, fl) := tree comb 8 ((List.range (typLanes typ)).map (fun n => if m.getLsbD n then laneN (typW typ) (vs.getD 0 0) n else ident))
    let done := fun (s3 : State) => Res.ok (s3.pushS 10 r (laneToScalar typ v))
    if typFloat typ then s2.withFlags 10 fl done else done s2

/-- VREDADD (R210): the sum by the pairwise tree (notes/assumptions 55: DEDUCED). -/
def execVredadd (typ : BitVec 3) (t : BitVec 4) (row : BitVec 6) (r : BitVec 5) (s : State) : Out1 :=
  finish s (s.reduce typ t row r (sumIdent typ) (sumComb typ s.cur.u.rm))

/-- VREDMAX (R210): the maximum by the pairwise tree. -/
def execVredmax (typ : BitVec 3) (t : BitVec 4) (row : BitVec 6) (r : BitVec 5) (s : State) : Out1 :=
  finish s (s.reduce typ t row r (pickIdent typ true) (pickComb typ s.cur.u.rm true))

/-- VREDMIN (R210): the minimum by the pairwise tree. -/
def execVredmin (typ : BitVec 3) (t : BitVec 4) (row : BitVec 6) (r : BitVec 5) (s : State) : Out1 :=
  finish s (s.reduce typ t row r (pickIdent typ false) (pickComb typ s.cur.u.rm false))

/-- VIOTA (R209): lane n := n + s[s], modulo 2^w, or rounded once for floating lanes. -/
def execViota (typ : BitVec 3) (t : BitVec 4) (row : BitVec 6) (r : BitVec 5) (s : State) : Out1 :=
  finish s (s.rowFrom (typFloat typ) typ t row [.s r false] (fun m =>
    let w := typW typ
    let e := fenv typ s.cur.u.rm
    laneRow w m (fun n =>
      if typFloat typ then e.f.result e.mode e.ftz (FVal.ofInt ((s.rs r).toInt + n))
      else (((s.rs r).toNat + n) % 2 ^ w, 0))))

/-- KFROMROW (R211): bit n of k := lane n has any bit set; the bits beyond the lanes 0. -/
def execKfromrow (typ : BitVec 3) (t : BitVec 4) (row : BitVec 6) (k : BitVec 3) (s : State) : Out1 :=
  finish s (s.vpipe 1 fun s1 => s1.withRows [] [(t, row)] fun vs s2 =>
    .ok (s2.pushK 2 k (ofBits 256 (fun n => decide (n < typLanes typ) && laneN (typW typ) (vs.getD 0 0) n != 0))))

/-- KTOROW (R211): lane n := all ones if bit n of k is 1, else 0. -/
def execKtorow (typ : BitVec 3) (t : BitVec 4) (row : BitVec 6) (k : BitVec 3) (s : State) : Out1 :=
  finish s (s.rowFrom false typ t row [] (fun _ =>
    (ofLanes (typW typ) (fun n => if (s.cur.kv k).getLsbD n then BitVec.allOnes (typW typ) else 0), 0)))

/-- KPOPC (R211): the count of 1 bits of k below the lane count. -/
def execKpopc (typ : BitVec 3) (r : BitVec 5) (k : BitVec 3) (s : State) : Out1 :=
  finish s (s.vpipe 1 fun s1 =>
    .ok (s1.pushS 2 r (w64 (countTrue ((List.range (typLanes typ)).map (s.cur.kv k).getLsbD)))))

/-- KFIRST (R211): the lowest 1 bit of k below the lane count, or the lane count. -/
def execKfirst (typ : BitVec 3) (r : BitVec 5) (k : BitVec 3) (s : State) : Out1 :=
  finish s (s.vpipe 1 fun s1 =>
    .ok (s1.pushS 2 r (w64 (((List.range (typLanes typ)).find? (fun n => (s.cur.kv k).getLsbD n)).getD (typLanes typ)))))

/-- KMOVS (R211): s[s] := a quarter of k. -/
def execKmovs (q : BitVec 2) (r : BitVec 5) (k : BitVec 3) (s : State) : Out1 :=
  finish s (s.vpipe 1 fun s1 => .ok (s1.pushS 2 r (seg (s.cur.kv k) (64 * q.toNat) 64)))

/-- KMOVD (R211): a quarter of k := s[s]; the rest of k is read and kept (R47) (notes/assumptions 13: DEDUCED). -/
def execKmovd (q : BitVec 2) (r : BitVec 5) (k : BitVec 3) (s : State) : Out1 :=
  finish s (s.vpipe 1 fun s1 => s1.withSrcs [.s r false] fun _ =>
    .ok (s1.push 2 (.write (.k k) ((s.rs r).setWidth 2048 <<< (64 * q.toNat)) (0xFF#256 <<< (8 * q.toNat)) false)))

/-- A mask word of two masks. -/
def State.mask2 (s : State) (kt ks k : BitVec 3) (f : Mask → Mask → Mask) : Res :=
  s.vpipe 1 fun s1 => .ok (s1.pushK 2 k (f (s.cur.kv kt) (s.cur.kv ks)))

/-- KAND (R211). -/
def execKand (kt ks k : BitVec 3) (s : State) : Out1 := finish s (s.mask2 kt ks k (· &&& ·))

/-- KOR (R211). -/
def execKor (kt ks k : BitVec 3) (s : State) : Out1 := finish s (s.mask2 kt ks k (· ||| ·))

/-- KXOR (R211). -/
def execKxor (kt ks k : BitVec 3) (s : State) : Out1 := finish s (s.mask2 kt ks k (· ^^^ ·))

/-- KNOT (R211). -/
def execKnot (kt k : BitVec 3) (s : State) : Out1 := finish s (s.mask2 kt kt k (fun a _ => ~~~a))

end Sys2Proof.Machine
end

