-- ==== Sys2Proof/Machine/Sync.lean ====
section
/-! DEFINITION. SYNC: fences, barrier arrivals and waits, cluster events, windows; and SUSP (12 R271-R283, 07 R182, 04
R97-R102, 05 R119-R134). -/

namespace Sys2Proof.Machine

/-! ## Fences (R272-R274) -/

/-- The locations of the pages of a range. -/
def State.rangePages (s : State) (va : Word) (n : Nat) : List Phys :=
  (List.range (n / 4096)).filterMap (fun i => match s.xlate s.cur.sc.satp (va + w64 (4096 * i)) with
    | .ok (e, b) => some (physOf e b (va + w64 (4096 * i)))
    | .error _ => none)

/-- An ordering is in force for the strand from here on; an acquire among it acquires when its acquiring read has been performed. -/
def State.addFence (s : State) (ord sc : BitVec 2) (range : Option (Word × Nat)) : State :=
  let pages := match range with
    | some r => s.rangePages r.1 r.2
    | none => []
  let f : Fence := { sid := s.cur.sid, tag := s.pkg.tag, ord := ord, sc := sc, range := range, pages := pages, acquired := ord == 1 }
  ({ s with pkg := { s.pkg with fences := f :: s.pkg.fences } } : State).pruneFences

/-- FENCE (R272): no access of its own; irrevocable in a speculative task. -/
def execFence (ord sc : BitVec 2) (s : State) : Out1 := finish s (s.irrevocable fun s1 => .ok (s1.addFence ord sc none))

/-- The pages of a range checked in order, for presence and R (R273). -/
def State.pagesReadable (s : State) : Nat → Word → Nat → Except TrapInfo Unit
  | 0, _, _ => .ok ()
  | fuel + 1, va, left =>
    if left = 0 then .ok ()
    else match s.xlate s.cur.sc.satp va with
      | .error c => .error ⟨c, va⟩
      | .ok (e, _) =>
        if permRefused .load s.cur.level e then .error ⟨cPermission, va⟩
        else s.pagesReadable fuel (va + 4096) (left - 4096)

/-- RELT and ACQT (R132, R273): s[b] tiles from s[a], a multiple of 16 KiB; 0 tiles have no meaning. -/
def State.tileFence (s : State) (ord : BitVec 2) (a b : BitVec 5) (sc : BitVec 2) : Res :=
  s.withSrcs [.s a false, .s b false] fun _ => s.irrevocable fun s1 =>
    let ea := s1.rs a
    let n := min (s1.rs b).toNat 65536
    if ea.toNat % 16384 ≠ 0 then .trap ⟨cMisaligned, ea⟩
    else if n = 0 then .ok s1
    else orTrap (s1.pagesReadable (4 * n) ea (n * 16384)) fun _ => .ok (s1.addFence ord sc (some (ea, n * 16384)))

/-- RELT (R273). -/
def execRelt (a b : BitVec 5) (sc : BitVec 2) (s : State) : Out1 := finish s (s.tileFence 1 a b sc)

/-- ACQT (R273). -/
def execAcqt (a b : BitVec 5) (sc : BitVec 2) (s : State) : Out1 := finish s (s.tileFence 0 a b sc)

/-- IFENCE (R134, R274): every packet held is discarded; what follows is fetched after every access before it. -/
def execIfence (s : State) : Out1 :=
  finish s (s.irrevocable fun s1 =>
    if s1.pkg.reqs.any (fun q => q.sid == s1.cur.sid && (match q.op with
        | .ack => false
        | _ => true)) then .hold .other
    else .ok { s1 with core := { s1.core with packets := [], fetching := none } })

/-! ## Objects and waits (R276-R280) -/

/-- The check of an object at `ea` (R275, R276): as an atomic of 32 bytes; HOST_ATOMIC on a HOST page with C = 0. -/
def State.checkObj (s : State) (ea : Word) : Except TrapInfo Phys :=
  match s.check .atomic 32 32 ea with
  | .error t => .error t
  | .ok p => if decide (p.tt = 3) && !p.c then .error ⟨cHostAtomic, ea⟩ else .ok p

/-- ARRB (R276): one arrival; the token goes to d, long. -/
def execArrb (d a : BitVec 5) (s : State) : Out1 :=
  finish s (s.withSrcs [.s a false] fun _ => s.irrevocable fun s1 =>
    orTrap (s1.checkObj (s1.rs a)) fun p => s1.declared true (s1.rs a) fun _ =>
      if s1.accessHeld true (s1.rs a) then .hold .other
      else s1.ownBank [p] fun s1 =>
        let (tag, s2) := s1.newTag
        .ok ((s2.mark tag (.s d)).send { sid := s.cur.sid, tag := tag, op := .arrive none d, loc := p, va := s1.rs a, due := 0 }))

/-- Pod time at which a wait of the context times out (R279). -/
def State.deadline (s : State) : Option Nat :=
  if s.cur.u.wto = 0 then none else some (s.ptime.toNat + s.cur.u.wto.toNat)

/-- A long result of the current strand that is delivered POISONED. -/
def State.longPoison (s : State) (d : BitVec 5) : State :=
  let (tag, s1) := s.newTag
  let (due, s2) := (s1.mark tag (.s d)).dueSoon
  s2.deliver
    { sid := s.cur.sid, tag := tag, dest := .s d, v := (Config.freeWord s.choice).setWidth 2048, sel := BitVec.allOnes 256
      poison := true, due := .wall due }

/-- A long result of the current strand, delivered after a free delay. -/
def State.longResult (s : State) (d : BitVec 5) (v : Word) : State :=
  let (tag, s1) := s.newTag
  let (due, s2) := (s1.mark tag (.s d)).dueSoon
  s2.deliverS tag d v (.wall due)

/-- The why of a wait (R12). -/
def WaitOn.why : WaitOn → BitVec 8
  | .barrier _ _ => 1
  | .word _ _ => 2
  | .events _ => 3
  | .susp _ _ => 4
  | .seam _ => 11
  | .oldest => 11
  | .freeId => 11
  | .version => 11

/-- The scope of an object (R275). -/
def State.objScope (s : State) (p : Phys) : BitVec 2 := seg (BitVec.ofNat 32 (s.numAt (p.plus 20) 4)) 1 2

/-- A wait with its place where it is served, or none where the home refuses it (R375). -/
def State.resolveWait (s : State) (w : Wait) : Option Wait :=
  match w.on with
  | .barrier loc token => (s.served loc true false false).map (fun p => { w with on := .barrier p token })
  | .word loc cmp => (s.served loc true false false).map (fun p => { w with on := .word p cmp })
  | .susp loc seen => (s.served loc true false false).map (fun p => { w with on := .susp p seen })
  | _ => some w

/-- A read of a wait's place at its home: what copies of it hold newer comes there first (R94, R100). -/
def State.waitView (s : State) (w : Wait) : State :=
  match w.on.watches with
  | some (p, n) => ((s.recallCopy p false).recallLines p n).homeTouch p false
  | none => s

/-- The word a wait reads at its home: of a device register, the register (R280, R374). -/
def State.waitWord (s : State) (p : Phys) : Word := if p.tt = 5 then wordAt (s.mmioBytes p 8) 0 else s.word64At p

/-- What a wait finds at its home now: a result with the scope it acquires at, or nothing yet. A poisoned place delivers POISONED
(R410). -/
def State.waitRead (s : State) (x : Strand) (w : Wait) : Option (Word × Bool × Option (BitVec 2)) :=
  match w.on with
  | .barrier p token =>
    if s.badAt p 32 then some (Config.freeWord s.choice, true, none)
    else (s.objResult p token).map (fun r => (r, false, if r = 3 then none else some (s.objScope p)))
  | .word p cmp =>
    if s.badAt p 8 then some (Config.freeWord s.choice, true, none)
    else if s.waitWord p = cmp then none else some (s.waitWord p, false, some w.sc)
  | .events m => if (s.pkg.events &&& m) == m then some (0, false, some w.sc) else none
  | .seam ts => if ts.toNat < (s.cfr x.dom).toNat then some (0, false, some 2) else none
  | .susp p seen => if seen.any (fun v => v != s.waitWord p) then some (0, false, if w.acq then some w.sc else none) else none
  | .oldest => if s.isOldest x then some (0, false, none) else none
  | .freeId => if (s.findSeq 8192 s.core.seq).isSome then some (0, false, none) else none
  | .version => if s.isOldest x || decide (s.pkg.versions.length + 257 ≤ 4096) then some (0, false, none) else none

/-- What a wait ends with when its time has passed and it has not settled: 2, or s[b] for WAITA; no acquire, but of a SUSP with
acquire meaning, whose read on waking is one (R182, R279-R282, R321). -/
def Wait.timedOut (w : Wait) : Word × Bool × Option (BitVec 2) :=
  match w.on with
  | .word _ cmp => (cmp, false, none)
  | .susp _ _ => (0, false, if w.acq then some w.sc else none)
  | _ => (2, false, none)

/-- S code in a context without a strand waits at its bundle, which reads the place each cycle until it settles or its time has
passed (R279, R344, R367). Nothing but a task waits for a seam there. -/
def State.waitAlone (s : State) (w : Wait) : Res :=
  let nobody : Strand :=
    { id := BitVec.allOnes 40, recAddr := 0, img := 0, lnch := 0, part := 0, ver := 0, prio := 0, root := true, parCore := 0, parSeq := 0
      state := .running, why := 0, level := 0 }
  match s.resolveWait w with
  | none => .ok (s.longPoison w.d)
  | some w1 =>
    let s1 := s.waitView w1
    match s1.waitRead nobody w1 with
    | some (v, bad, acq) =>
      let s2 := match acq with
        | some sc => s1.acquired sc
        | none => s1
      .ok (if bad then s2.longPoison w.d else s2.longResult w.d v)
    | none => match s.cur.lone, s.deadline with
      | some t, _ => if t ≤ s.ptime.toNat then .ok (s1.longResult w.d w1.timedOut.1) else .hold .other
      | none, some t => .wait (s.modCur (fun c => { c with lone := some t })) .other
      | none, none => .hold .other

/-- The strand waits from here on: it issues nothing until d is delivered; its request sets out to the home (R279). -/
def State.wait (s : State) (on : WaitOn) (d : BitVec 5) (acq full : Bool) (sc : BitVec 2) (va : Word := 0) : Res :=
  let w : Wait := { on := on, d := d, tag := s.pkg.tag, acq := acq, sc := sc, deadline := s.deadline, full := full, va := va }
  match s.cur.strand with
  | none => if full && s.releaseWaits s.cur.sid s.pkg.tag sc then .hold .other else s.waitAlone { w with asked := true }
  | some _ =>
    let (tag, s1) := s.newTag
    let (due, s2) := (s1.mark tag (.s d)).dueSoon
    .ok (s2.modCur (fun c => c.modStrand (fun x => { x with wait := some { w with tag := tag, due := due } })))

/-- WAITB (R278). -/
def execWaitb (d a b : BitVec 5) (s : State) : Out1 :=
  finish s (s.withSrcs [.s a false, .s b false] fun _ => s.irrevocable fun s1 =>
    orTrap (s1.checkObj (s1.rs a)) fun p => s1.declared false (s1.rs a) fun _ =>
      if s1.accessHeld false (s1.rs a) then .hold .other
      else s1.wait (.barrier p ((s1.rs b).setWidth 32)) d true false 3 (s1.rs a))

/-- WAITA (R280). -/
def execWaita (d a b : BitVec 5) (ord sc : BitVec 2) (s : State) : Out1 :=
  finish s (s.withSrcs [.s a false, .s b false] fun _ => s.irrevocable fun s1 =>
    orTrap (s1.check .load 8 8 (s1.rs a)) fun p => s1.declared false (s1.rs a) fun _ =>
      if s1.accessHeld false (s1.rs a) then .hold .other
      else s1.wait (.word p (s1.rs b)) d true (ord == 3) sc (s1.rs a))

/-- Pieces of memory read at issue, with whether they carry poison; none while an access of the strand to them is on its way, or
their bank is occupied (R90, R117). -/
def State.readPieces (s : State) : List (Phys × Nat) → Option (List Byte × Bool × State)
  | [] => some ([], false, s)
  | (p, n) :: t =>
    if s.accessPending p n then none
    else match s.takeBank p (if n ≤ 8 then 2 else 16) with
      | none => none
      | some s1 =>
        let (bs, bad, s2) := s1.coreRead p n
        (State.readPieces s2 t).map (fun r => (bs ++ r.1, bad || r.2.1, r.2.2))

/-- A read at issue of a place that has passed its checks, and whether the bytes carry poison (R410): the bundle is held until it
completes. -/
def State.readPlace (s : State) (p : Phys) (n : Nat) (ea : Word) (rest : List Byte → Bool → State → Res) : Res :=
  if s.accessHeld false ea then .hold .other
  else match s.readPieces [(p, n)] with
    | none => .hold .other
    | some (bs, bad, s1) => rest bs bad (s1.noteTlb s.cur.sc.satp ea)

/-- Bytes that a word reads at issue, under the load checks (R254, R304). -/
def State.readNow (s : State) (align n : Nat) (ea : Word) (rest : List Byte → Bool → State → Res) : Res :=
  orTrap (s.check .load align n ea) fun p => s.declared false ea fun _ => s.readPlace p n ea rest

/-- EVWAIT (R282): the mask is read at issue from 32 bytes at s[a]; one that is refused or poisoned delivers d POISONED (R375, R410). -/
def execEvwait (d a : BitVec 5) (ord sc : BitVec 2) (s : State) : Out1 :=
  finish s (s.withSrcs [.s a false] fun _ => s.irrevocable fun s1 =>
    s1.readNow 32 32 (s1.rs a) fun b bad s2 =>
      if bad then .ok (s2.longPoison d) else s2.wait (.events (BitVec.ofNat 256 (ofBytes b))) d true (ord == 3) sc)

/-- EVSET and EVCLR (R281): a release at sc, or a full fence before the update. -/
def State.event (s : State) (set : Bool) (a : BitVec 5) (ord sc : BitVec 2) : Res :=
  s.withSrcs [.s a false] fun _ => s.irrevocable fun s1 =>
    if s1.accessHeld true 0 then .hold .other
    else
      let s2 := if ord = 3 then s1.addFence 3 sc none else s1
      let (tag, s3) := s2.newTag
      let loc : Phys := { tt := 2, pa := (0 : BitVec 4) ++ s.core.device ++ s.core.core ++ (0 : BitVec 21) }
      .ok (s3.send
        { sid := s.cur.sid, tag := tag, op := .event set ((s1.rs a).setWidth 8), loc := loc, due := 0, rel := some sc })

/-- EVSET (R281). -/
def execEvset (a : BitVec 5) (ord sc : BitVec 2) (s : State) : Out1 := finish s (s.event true a ord sc)

/-- EVCLR (R281). -/
def execEvclr (a : BitVec 5) (ord sc : BitVec 2) (s : State) : Out1 := finish s (s.event false a ord sc)

/-! ## Windows (R97, R102, R283) -/

/-- The translation of SWIN and SWCLOSE: PAGE_NOT_PRESENT, then PERMISSION without R, W or, in U, U (R97). -/
def State.windowAddr (s : State) (ea : Word) : Except TrapInfo Phys :=
  match s.xlate s.cur.sc.satp ea with
  | .error c => .error ⟨c, ea⟩
  | .ok (e, b) =>
    if !e.getLsbD 3 || !e.getLsbD 4 || (s.cur.level == Level.u && (!e.getLsbD 6 || seg e 52 3 == 5)) then .error ⟨cPermission, ea⟩
    else .ok (physOf e b ea)

/-- Whether a range of the own scratchpad meets an open window. -/
def State.windowMeets (s : State) (off n : Nat) : Bool :=
  s.core.wins.any (fun w => meets off n w.base.toNat (w.tiles * 0x4000))

/-- SWIN (R97): the window of s[b] tiles from s[a] opens, or the code of the first reason against it. A closing window still counts
as open (notes/assumptions 85: DESIGN CHOICE). -/
def execSwin (d a b : BitVec 5) (sc : BitVec 2) (s : State) : Out1 :=
  finish s (s.withSrcs [.s a false, .s b false] fun _ => s.irrevocable fun s1 =>
    let ea := s1.rs a
    let n := (s1.rs b).toNat
    orTrap (s1.windowAddr ea) fun p =>
      let off := (seg p.pa 0 21).toNat
      if !s1.ownSpad p then .trap ⟨cTargetType, ea⟩
      else if off % 0x4000 ≠ 0 then .trap ⟨cMisaligned, ea⟩
      else if sc = 0 then .ok (s1.longResult d 4)
      else if n = 0 ∨ spadLimit (seg s1.core.rpln 0 7).toNat < off + n * 0x4000 then .ok (s1.longResult d 3)
      else if s1.windowMeets off (n * 0x4000) then .ok (s1.longResult d 1)
      else if 8 ≤ s1.core.wins.length then .ok (s1.longResult d 2)
      else
        let w : Window := { base := seg p.pa 0 21, tiles := n, sc := sc }
        .ok ({ s1 with core := { s1.core with wins := s1.core.wins ++ [w] } }.longResult d 0))

/-- Every copy of a tile of a window is recalled: what it holds newer goes to the backing, and it goes (R102.2). -/
def State.recallWindow (s : State) (w : Window) : State :=
  let mine := fun (e : DirEntry) => decide (w.base.toNat ≤ e.tile.toNat) && decide (e.tile.toNat < w.base.toNat + w.tiles * 0x4000)
  let s1 := (s.core.dir.filter mine).foldl (fun s e => s.mergeTile e.tile e.newer) s
  { s1 with core := { s1.core with dir := s1.core.dir.filter (fun e => !mine e) } }

/-- SWCLOSE (R102): copies are recalled now; the window closes, with d := 0, when every lease on it has passed. A window that is
already closing is open no longer: d := 1 (notes/assumptions 70: DESIGN CHOICE). -/
def execSwclose (d a : BitVec 5) (s : State) : Out1 :=
  finish s (s.withSrcs [.s a false] fun _ => s.irrevocable fun s1 =>
    let ea := s1.rs a
    orTrap (s1.windowAddr ea) fun p =>
      let base := seg p.pa 0 21
      if s1.ownSpad p && s1.core.wins.any (fun w => w.base == base && w.closing.isNone) then
        let (tag, s2) := s1.newTag
        let s3 := (s1.core.wins.filter (fun w => w.base == base)).foldl State.recallWindow (s2.mark tag (.s d))
        .ok { s3 with core := { s3.core with
          wins := s3.core.wins.map (fun w => if w.base == base then { w with closing := some (s.cur.sid, tag, d) } else w) } }
      else .ok (s1.longResult d 1))

/-! ## SUSP (R182) -/

/-- The word at a place as the current strand reads it: an ordered task through its versions. -/
def State.suspWord (s : State) (p : Phys) : Word :=
  match s.cur.strand with
  | some x => if x.ord then wordAt (s.trackedBytes x p 8) 0 else s.word64At p
  | none => s.word64At p

/-- SUSP reads its word at its place among the words of the bundle, or sends the read to the home, and watches it (R115, R182); behind
an acquire of its own bundle it is read at the home (R119). -/
def State.suspRead (s : State) (a : BitVec 5) (sb : BitVec 3) (k : Wait → State → Res) : Res :=
  match s.iss.susp with
  | some w => k w s
  | none => s.withSrcs [.s a false] fun _ =>
    s.reach .load 8 8 (s.rs a) fun p tracked s1 =>
      let now := tracked || (s1.exposed p && !s1.acquiring)
      (if now && !tracked then s1.bank p 2 else fun k => k s1) fun s1 =>
      let seen : Option Word := if now then some (if tracked then s1.suspWord p else s1.word64At p) else none
      let s2 := match tracked, s1.cur.strand with
        | true, some x => s1.noteRead x p
        | _, _ => s1
      let (tag, s3) := s2.newTag
      let (due, s4) := s3.dueSoon
      k { on := .susp p seen, d := 0, tag := tag, acq := sb.getLsbD 2, sc := seg sb 0 2, deadline := s4.deadline, due := due, asked := seen.isSome, va := s.rs a } s4

/-- The strand parks after its bundle with why = 4. A word that the bundle itself has changed since it was read wakes it at once
(R28). -/
def State.suspPark (s : State) (w : Wait) : State :=
  let changed := w.hit || match w.on with
    | .susp p (some v) => w.asked && s.suspWord p != v
    | _ => false
  (s.bundleDone.suspend .parked 4).modCur (fun c => c.modStrand (fun x => { x with wait := some { w with hit := changed } }))

/-- SUSP (R182): the word is read and watched in one performance; the strand parks after its bundle, after the last repetition of a
REP (R192), whose later accesses come behind a read at the home (R115). -/
def execSusp (a : BitVec 5) (sb : BitVec 3) (s : State) : Out1 :=
  match s.suspRead a sb (fun w s1 => .ok { s1 with iss := { s1.iss with susp := some w } }) with
  | .ok s1 => match s1.iss.susp with
    | none => finish s (.hold .other)
    | some w =>
      if s.iss.repMore then
        let keep := s1.modCur (fun c => { c.modStrand (fun x => { x with wait := some w }) with repEnd := some (.susp a sb, 0, some w) })
        .next { keep with iss := { s1.iss with verdict := .issued } }
      else if s.iss.putOff then .next { s1 with iss := { s1.iss with verdict := .ended } }
      else .next { s1.suspPark w with iss := { s1.iss with verdict := .ended } }
  | r => finish s r

end Sys2Proof.Machine
end

