-- ==== Sys2Proof/Machine/Engine.lean ====
section
/-! DEFINITION. ENG: ACOPY, AGATHER, ASCATTER, ACOLL, SBIND, SUNB, ANOTE, ACANCEL, the run of an operation and its completion,
and the read-ahead of streams (12 R284-R294, 04 R107-R114, 09 R226, 03 R80). -/

namespace Sys2Proof.Machine

/-! ## The descriptor (R286) -/

/-- A sign-extended 32-bit field. -/
def sx32 (b : List Byte) (o : Nat) : Word := (half32At b o).signExtend 64

/-- A 16-bit field. -/
def n16 (b : List Byte) (o : Nat) : Nat := ofBytes ((b.drop o).take 2)

/-- The copy descriptor of 64 bytes. -/
def copyDesc (b : List Byte) : CopyDesc :=
  let w := wordAt b 56
  { src := wordAt b 0
    dst := wordAt b 8
    n0 := n16 b 16
    n1 := n16 b 18
    n2 := n16 b 20
    n3 := n16 b 22
    ss1 := sx32 b 24
    ds1 := sx32 b 28
    ss2 := sx32 b 32
    ds2 := sx32 b 36
    ss3 := sx32 b 40
    ds3 := sx32 b 44
    arg := wordAt b 48
    hpc := seg w 0 32
    scope := seg w 32 2
    ifmt := seg w 34 4
    ofmt := seg w 38 4
    cvt := w.getLsbD 42
    sat := w.getLsbD 43
    pe := w.getLsbD 44
    preg := seg w 45 3
    notify := w.getLsbD 48
    mc := w.getLsbD 49
    grp := seg w 50 8 }

/-- The descriptor of an ANOTE, which has none: its address and argument. -/
def noteDesc (dst arg : Word) : CopyDesc := { copyDesc (List.replicate 64 0) with dst := dst, arg := arg }

/-! ## Issue (R285) -/

/-- The lowest free engine slot of the core. -/
def State.freeSlot (s : State) : Option Nat := (List.range 8).find? (fun i => !s.core.ops.any (fun o => o.slot == i))

/-- The launch parameter block of the current strand. -/
def State.launchParam (s : State) : Word :=
  match s.cur.strand with
  | none => 0
  | some x => match s.pkg.launches.find? (fun l => l.lnch == x.lnch && l.part == x.part) with
    | some l => l.param
    | none => 0

/-- An operation of the current strand in a slot. -/
def State.newOp (s : State) (slot : Nat) (kind : EngKind) (desc : CopyDesc) (list opw : Word) (obj : Option Phys)
    (perm : Switches) (pc : Word) (tag due : Nat) : EngOp :=
  let st := s.cur.strand
  { slot := slot
    sid := s.cur.sid
    lnch := (st.map Strand.lnch).getD 0
    ver := (st.map Strand.ver).getD 3
    kind := kind
    desc := desc
    list := list
    opw := opw
    obj := obj
    level := s.cur.level
    satp := s.cur.sc.satp
    perm := perm
    rm := s.cur.u.rm
    pc := pc
    s28 := s.launchParam
    part := s.core.inPart.getD ((st.map Strand.part).getD 0)
    tag := tag
    due := due }

/-- The number of the ACOLL of a group that the core issues now; counted from 0 (R291). -/
def State.collCount (s : State) (g : BitVec 8) : Nat :=
  match s.core.colls.find? (fun x => x.1 == g) with
  | some x => x.2
  | none => 0

/-- The operation takes its slot. -/
def State.pushOp (s : State) (o : EngOp) : State :=
  if o.kind = .coll then
    let g := o.desc.grp
    let k := s.collCount g
    { s with core := { s.core with
        ops := s.core.ops ++ [{ o with collNo := k }]
        colls := (g, k + 1) :: s.core.colls.filter (fun x => x.1 != g) } }
  else { s with core := { s.core with ops := s.core.ops ++ [o] } }

/-- The object of a completion: none with d = 0 (R285). -/
def State.objOf (s : State) (d : BitVec 5) : Except TrapInfo (Option Phys) :=
  if d = 0 then .ok none
  else match s.checkObj (s.rs d) with
    | .ok p => .ok (some p)
    | .error t => .error t

/-- ACOPY, AGATHER, ASCATTER and ACOLL: the checks before issue, then the operation takes a slot (R285). One whose descriptor is
read poisoned or refused moves nothing and ends with class 2 (notes/assumptions 72: DESIGN CHOICE). -/
def State.engine (s : State) (kind : EngKind) (d a : BitVec 5) (b : Option (BitVec 5)) : Res :=
  let srcs := (if d = 0 then [] else [Src.s d false]) ++ [Src.s a false] ++ (b.toList.map (fun r => Src.s r false))
  s.withSrcs srcs fun _ => s.irrevocable fun s1 =>
    match s1.freeSlot with
    | none => .hold .slot
    | some slot =>
      s1.readNow 64 64 (s1.rs a) fun bytes bad s2 =>
        let desc := if bad then { noteDesc 0 0 with scope := 3 } else copyDesc bytes
        orTrap (s2.objOf d) fun obj =>
          s2.withSrcs (if desc.pe && kind != .coll then [.p desc.preg] else []) fun _ =>
            let (tag, s3) := s2.newTag
            let (due, s4) := s3.dueSoon
            let w := match b with
              | some r => s1.rs r
              | none => 0
            let op := s1.newOp slot (if bad then .copy else kind) desc w w obj (s1.cur.pv desc.preg).v
              (s1.cur.pc + (desc.hpc.signExtend 64 <<< 2)) tag due
            .ok (s4.pushOp { op with objVa := s1.rs d, ended := bad, status := if bad then 0x702 else 0 })

/-- ACOPY (R285, R287). -/
def execAcopy (d a : BitVec 5) (s : State) : Out1 := finish s (s.engine .copy d a none)

/-- AGATHER (R288). -/
def execAgather (d a b : BitVec 5) (s : State) : Out1 := finish s (s.engine .gather d a (some b))

/-- ASCATTER (R288). -/
def execAscatter (d a b : BitVec 5) (s : State) : Out1 := finish s (s.engine .scatter d a (some b))

/-- ACOLL (R291). -/
def execAcoll (d a b : BitVec 5) (s : State) : Out1 := finish s (s.engine .coll d a (some b))

/-- ANOTE (R293): a posted store of s[b] at s[a]; a handler at s[c] with argument s[d] when it has been performed. -/
def execAnote (d a b c : BitVec 5) (s : State) : Out1 :=
  finish s (s.withSrcs [.s d false, .s a false, .s b false, .s c false] fun _ => s.irrevocable fun s1 =>
    match s1.freeSlot with
    | none => .hold .slot
    | some slot =>
      s1.reach .store 8 8 (s1.rs a) fun p _ s2 =>
        let bs := leBytes 8 (s2.rs b).toNat
        let (tag, s3) := s2.newTag
        let s4 := s3.pushOp (s2.newOp slot .note (noteDesc (s2.rs a) (s2.rs d)) 0 0 none 0 (s2.rs c) tag 0)
        if s4.exposed p then s4.bank p 2 fun s5 => .ok ((s5.writeAt p bs).noteDone p slot)
        else .ok (s4.send { sid := s.cur.sid, tag := tag, op := .note bs slot, loc := p, va := s2.rs a, due := 0 }))

/-- The strand's operations and calls that `hit` names are cancelled; an engine operation stops at a row that is a free
choice, one that waits for an access of its strand has moved nothing, and one at its end keeps its own status (R294). -/
def State.cancel (s : State) (cause : BitVec 8) (hitOp : EngOp → Bool) (hitCall : MCall → Bool) : State :=
  let (n, s1) := s.draw
  { s1 with core := { s1.core with
      ops := s1.core.ops.map (fun o =>
        if hitOp o && o.kind != .note && !o.ended && o.stop.isNone then
          { o with stop := some (cause, if s.forked o.sid o.tag then n % (o.desc.n1 * o.desc.n2 * o.desc.n3 + 1) else 0) }
        else o)
      calls := s1.core.calls.map (fun m => if hitCall m && !m.ended && m.stop.isNone then { m with stop := some cause } else m) } }

/-- ACANCEL (R294): the strand's operations that complete to the object at s[d]. -/
def execAcancel (d : BitVec 5) (s : State) : Out1 :=
  finish s (s.withSrcs [.s d false] fun _ => s.irrevocable fun s1 =>
    let obj := match s1.xlate s1.cur.sc.satp (s1.rs d) with
      | .ok (e, b) => some (s1.homeLoc (physOf e b (s1.rs d))).key0
      | .error _ => none
    let same := fun (x : Option Phys) => (x.map (fun p => (s1.homeLoc p).key0)) == obj && obj.isSome
    .ok (s1.cancel 0x75 (fun o => o.sid == s.cur.sid && same o.obj) (fun m => m.sid == s.cur.sid && same m.objAt)))

/-- ACANCEL.ALL (R294). -/
def execAcancelAll (s : State) : Out1 :=
  finish s (s.irrevocable fun s1 => .ok (s1.cancel 0x75 (fun o => o.sid == s.cur.sid) (fun m => m.sid == s.cur.sid)))

/-! ## Streams (R107-R112, R292) -/

/-- The stream of a pattern descriptor (R108). -/
def streamOf (b : List Byte) (due tag : Nat) : Stream :=
  let w := wordAt b 56
  let h := fun o => BitVec.ofNat 16 (n16 b o)
  { bound := true
    out := w.getLsbD 0
    tile := seg w 1 4
    base := wordAt b 0
    n0 := h 8
    n1 := h 10
    n2 := h 12
    n3 := h 14
    s0 := wordAt b 16
    s1 := wordAt b 24
    s2 := wordAt b 32
    s3 := wordAt b 40
    due := due
    tag := tag }

/-- SBIND (R107, R292): the lowest free stream, or all ones where none is free or the tile is bound; a descriptor read poisoned or
refused binds nothing and delivers d POISONED (R375, R410) (notes/assumptions 72: DESIGN CHOICE). -/
def execSbind (d a : BitVec 5) (s : State) : Out1 :=
  finish s (s.withSrcs [.s a false] fun _ => s.irrevocable fun s1 =>
    s1.readNow 64 64 (s1.rs a) fun b bad s2 =>
      let (due, s3) := s2.dueSoon
      let x := streamOf b due s3.pkg.tag
      if bad then .ok (s3.longPoison d)
      else if x.base.toNat % 256 ≠ 0 ∨ x.s0.toNat % 256 ≠ 0 ∨ x.s1.toNat % 256 ≠ 0 ∨ x.s2.toNat % 256 ≠ 0 ∨ x.s3.toNat % 256 ≠ 0 then
        .trap ⟨cMisaligned, s1.rs a⟩
      else
        let taken := (List.finRange 4).any (fun k => (s3.cur.streams.get k).bound && (s3.cur.streams.get k).tile == x.tile)
        match (List.finRange 4).find? (fun k => !(s3.cur.streams.get k).bound) with
        | some k =>
          if taken then .ok (s3.longResult d (BitVec.allOnes 64))
          else .ok ((s3.modCur (fun c => c.modStream k (fun _ => x))).longResult d (w64 k.val))
        | none => .ok (s3.longResult d (BitVec.allOnes 64)))

/-- SUNB (R111, R292): for an out-bound stream the bundle is held before issue until the rows on their way to the tile have
landed and every row pushed is performed (notes/assumptions 66: DEDUCED). -/
def execSunb (d a : BitVec 5) (s : State) : Out1 :=
  finish s (s.withSrcs [.s a false] fun _ => s.irrevocable fun s1 =>
    let n := s1.rs a
    if 4 ≤ n.toNat then .ok (s1.longResult d (BitVec.allOnes 64))
    else
      let k := Fin.ofNat 4 n.toNat
      let x := s1.cur.streams.get k
      if !x.bound then .ok (s1.longResult d (BitVec.allOnes 64))
      else if x.out && (s1.rowsComing x.tile != 0 || s1.rowsPushed k != 0) then .hold .other
      else
        let v : Word := x.done.setWidth 64 ||| (if x.ovr then 1 <<< 63 else 0)
        .ok ((s1.modCur (fun c => c.modStream k (fun _ => {}))).longResult d v))

/-- Whether stream `k` of the current context may read a row ahead: up to eight rows, or what the word at PC reads at once; not
before the strand's accesses before SBIND (R109, R112). -/
def State.mayPrefetch (s : State) (k : Fin 4) : Bool :=
  let x := s.cur.streams.get k
  x.bound && !x.out && !x.exhausted && decide (x.buf.length < max 8 x.want) && s.forked s.cur.sid x.tag

/-- The next row of an in-bound stream is read into its buffer; a fault met stands in its place until its fetch is taken
again. None while an access of the strand to the row is on its way, or its bank is taken. -/
def State.prefetch (s : State) (k : Fin 4) : Option State :=
  let x := s.cur.streams.get k
  let good := x.buf.filter (fun b => match b with
    | .data _ _ _ _ => true
    | .fault _ _ => false)
  let (due, s1) := s.dueSoon
  let put := fun (s : State) (y : Stream) => s.modCur (fun c => c.modStream k (fun _ => { y with due := due }))
  match s1.check .row 256 256 x.addr with
  | .error t => some (put s1 { x with buf := good ++ [.fault t.cause t.value] })
  | .ok p =>
    if s1.accessPending p 256 || s1.memHeld (s1.homeLoc p) 256 then none
    else ((s1.noteTlb s1.cur.sc.satp x.addr).takeBank p 16).map (fun s2 =>
      let (b, poison, s3) := s2.coreRead p 256
      put s3 { x.next with buf := good ++ [.data (rowOf b) poison x.addr s.cur.level] })

/-- STREAM_PREFETCH (R109, R112): stream n reads a row ahead, of the other resident context where bit 2 of n is set; a strand
suspended on such a row becomes READY (R41). -/
def execStreamPrefetch (s : State) : Out1 :=
  let k := Fin.ofNat 4 s.ev.n
  let other := s.ev.n / 4 % 2 = 1
  let s0 := if other then s.swapped else s
  let r := if s0.mayPrefetch k then s0.prefetch k else none
  happen s (match r with
    | none => .hold .other
    | some t =>
      let t1 := if t.cur.strand.any (fun x => x.state == .reply) then t.makeReady t.cur.sid else t
      .ok (if other then t1.swapped else t1))

/-! ## Rows of an operation (R287, R288) -/

/-- One side of a transfer: base, counts, strides, format, whether it is a described stream, and the index list that
places its rows. -/
structure Side where
  base : Word
  n0 : Nat
  n1 : Nat
  n2 : Nat
  t1 : Word
  t2 : Word
  t3 : Word
  code : BitVec 4
  bytes : Bool
  described : Bool
  list : Option (List Nat)

/-- Bits of an element of a side. -/
def Side.bits (x : Side) : Nat := if x.bytes then 8 else (fmtOf x.code).bits

/-- The address of a row (R287, R288) (notes/assumptions 18: DEDUCED). -/
def Side.row (x : Side) (r : Nat) : Word :=
  match x.list with
  | some l => x.base + w64 (l.getD r 0) * x.t1
  | none => x.base + w64 (r % x.n1) * x.t1 + w64 (r / x.n1 % x.n2) * x.t2 + w64 (r / (x.n1 * x.n2)) * x.t3

/-- The byte offset of element `e` of a row in the transfer (R290). -/
def Side.offset (x : Side) (r e : Nat) : Nat := (r * x.n0 + e) * x.bits / 8

/-- Bytes of a row. -/
def Side.rowBytes (x : Side) : Nat := x.n0 * x.bits / 8

/-- An element on its way: what it stands for, and whether it is poisoned. -/
structure EngElem where
  v : FVal ⊕ Int
  bad : Bool := false

/-- The bits of element `j` of packed elements. -/
def packedElem (bits : Nat) (b : List Byte) (j : Nat) : Nat :=
  if bits = 4 then
    let x := (b.getD (j / 2) 0).toNat
    if j % 2 = 1 then x / 16 else x % 16
  else ofBytes ((b.drop (j * (bits / 8))).take (bits / 8))

/-- What an element of a plain side stands for. -/
def Fmt.elem (f : Fmt) (ftz : Bool) (bits : Nat) : FVal ⊕ Int :=
  match f with
  | .flt x => .inl (x.read ftz bits)
  | .int i => .inr (i.decode bits)
  | _ => .inr (bits : Int)

/-- The parts of a range that lie in one line each. -/
def Phys.lineParts (p : Phys) (n : Nat) : List (Phys × Nat) :=
  (linesOf p.pa.toNat n).map (fun l =>
    let lo := max p.pa.toNat (64 * l)
    (p.plus (lo - p.pa.toNat), min (p.pa.toNat + n) (64 * l + 64) - lo))

/-- A piece that a unit of the core touches in the own scratchpad occupies its bank (R90) (notes/assumptions 73: DESIGN CHOICE). -/
def State.engineBank (s : State) (p : Phys) : State := (s.takeBank (s.homeLoc p) 16).getD s

/-- What the engines or the matrix unit do in one performance: none while a bank they touch is occupied, since the pipeline is served
first (R90) (notes/assumptions 73: DESIGN CHOICE). The work sees the banks free and leaves those it has touched occupied. -/
def State.withBanks (s t : State) : Option State :=
  if t.core.banks.any (fun b => s.core.banks.any (fun x => x.1 == b.1)) then none
  else some { t with core := { t.core with banks := s.core.banks ++ t.core.banks } }

/-- The state such work starts from. -/
def State.banksFree (s : State) : State := { s with core := { s.core with banks := [] } }

/-- The bytes of line parts read by an operation, with the ranges of them that are poisoned or refused (R375, R410). -/
def State.engParts (s : State) : List (Phys × Nat) → Nat → List Byte × List (Nat × Nat) × State
  | [], _ => ([], [], s)
  | (p, m) :: t, off =>
    let (bs, bad, s1) := (s.engineBank p).coreRead p m
    let (rest, bads, s2) := State.engParts s1 t (off + m)
    (bs ++ rest, if bad then (off, m) :: bads else bads, s2)

/-- The bytes of pieces. -/
def State.engLoad (s : State) (l : List (Phys × Nat)) : List Byte × List (Nat × Nat) × State :=
  s.engParts (l.flatMap (fun x => x.1.lineParts x.2)) 0

/-- Bytes written for a strand by the engines or the matrix unit at their home; poisoned data sets the marks; a refused write is
dropped and logged (R375, R410, R413). -/
def State.engPut (s : State) (sid : BitVec 40) (tag : Nat) (p : Phys) (bs : List Byte) (bad : Bool) : State :=
  match s.served p false true false with
  | none => s.logRefusal { sid := sid, tag := tag, op := .store bs, loc := p, due := 0, limit := 0
                           dom := (s.strandOf sid).map (fun x => x.part ++ x.lnch) }
  | some q =>
    let r : Req := { sid := sid, tag := tag, op := .store bs, loc := p, due := 0, limit := s.core.cyc + 1500000 }
    let s1 := s.engineBank p
    if bad then ((s1.recallCopy q true).storeServed r q bs).poisonLines q bs.length else s1.storeServed r q bs

/-- The bytes of line parts written. -/
def State.engPutParts (s : State) (o : EngOp) : List (Phys × Nat) → List Byte → (Nat → Bool) → Nat → State
  | [], _, _, _ => s
  | (p, m) :: t, bs, bad, off =>
    State.engPutParts (s.engPut o.sid o.tag p (bs.take m) ((List.range m).any (fun i => bad (off + i)))) o t (bs.drop m) bad (off + m)

/-- The bytes of pieces written. -/
def State.engStore (s : State) (o : EngOp) (l : List (Phys × Nat)) (bs : List Byte) (bad : Nat → Bool) : State :=
  s.engPutParts o (l.flatMap (fun x => x.1.lineParts x.2)) bs bad 0

/-- A device of pieces that is lost: the operation ends with PEER_LOST and its number (R405). -/
def State.lostPeer (s : State) (l : List Phys) : Option (Cause × Nat) :=
  (l.findSome? (fun p => (s.otherDevice p).filter s.pkg.lost.elem)).map (fun d => (0x77, d.toNat))

/-- The check of a range by an operation: its pages, lowest first; a failure with its offset (R285, R290). -/
def State.engRange (s : State) (o : EngOp) (k : Acc) (va : Word) (n : Nat) : Except (Cause × Nat) (List (Phys × Nat)) :=
  match s.checkRange o.level o.satp k va n with
  | .error t => .error (t.cause, (t.value - va).toNat)
  | .ok l => .ok l

/-- The blocks of a described row, each checked; a failure with its first element (R87, R290). -/
def State.engBlocks (s : State) (o : EngOp) (k : Acc) (f : Fmt) (va : Word) : List Nat → Except (Cause × Nat) (List (Nat × Phys))
  | [] => .ok []
  | b :: t =>
    match s.checkAddr o.level o.satp k 64 64 (va + w64 (64 * b)) with
    | .error e => .error (e.cause, b * f.epb)
    | .ok p => match s.engBlocks o k f va t with
      | .error e => .error e
      | .ok l => .ok ((b, p) :: l)

/-- An element of a described block: exact, its block's scale included; an integer for an integer target (R76, R287). -/
def describedElem (f : Fmt) (toInt ftz : Bool) (mode : RMode) (h : BitVec 16) (b : List Byte) (j : Nat) : FVal ⊕ Int :=
  if hdrZero h then (if toInt then .inr 0 else .inl (.fin false 0 0))
  else
    let x := blockElem f.bits (hdrNib h) b j
    match f with
    | .flt g => .inl ((g.read ftz x).scale (hdrScale h))
    | .int i => match (FVal.ofInt (i.decode x)).scale (hdrScale h) with
      | .fin n m e => if toInt then .inr (roundInt mode n m e).1 else .inl (.fin n m e)
      | y => .inl y
    | _ => .inr (x : Int)

/-- A block read by an operation: its header as the shadow gives it, which is filled at a first use (R376), its bytes, whether it is
poisoned. A refused block has no header that could be wrong; it is logged (R375, R413). -/
def State.engBlock (s : State) (code : BitVec 4) (p : Phys) : BitVec 16 × List Byte × Bool × State :=
  match s.served p true false false with
  | none => (code.setWidth 16, s.freeBytes 64, true, s.logAccess p 0)
  | some q =>
    let (bs, bad, s1) := ((s.engineBank p).useShadow [q]).readServed q 64
    let h := hdrOf (s.headerOf q)
    (h, bs, !hdrZero h && bad, s1)

/-- Blocks read in order. -/
def State.engReadBlocks (s : State) (code : BitVec 4) :
    List (Nat × Phys) → List (Nat × BitVec 16 × List Byte × Bool) × State
  | [] => ([], s)
  | (b, p) :: t =>
    let (h, bs, bad, s1) := s.engBlock code p
    let (l, s2) := State.engReadBlocks s1 code t
    ((b, h, bs, bad) :: l, s2)

/-- The elements of a source row, or the cause and byte offset of its first failing access. -/
def State.engReadRow (s : State) (o : EngOp) (x : Side) (toInt : Bool) (r : Nat) : Except (Cause × Nat) (List EngElem × State) :=
  let va := x.row r
  let f := fmtOf x.code
  if x.described then
    match s.engBlocks o .described f va (blocksOf f 0 x.n0) with
    | .error (c, e) => .error (c, x.offset r e)
    | .ok bl =>
      let (hs, s1) := s.engReadBlocks x.code bl
      match s.lostPeer (bl.map Prod.snd), hs.find? (fun b => hdrFault x.code true b.2.1) with
      | some e, _ => .error e
      | none, some b => .error (cFormat, x.offset r (b.1 * f.epb))
      | none, none =>
        .ok ((List.range x.n0).map (fun e =>
          match hs.find? (fun b => b.1 == e / f.epb) with
          | some (_, h, bs, bad) => { v := describedElem f toInt (ftzOf o.rm) (modeOf o.rm).plain h bs (e % f.epb), bad := bad }
          | none => { v := .inr 0 }), s1)
  else
    match s.engRange o .row va x.rowBytes with
    | .error (c, off) => .error (c, x.offset r 0 + off)
    | .ok l =>
      match s.lostPeer (l.map Prod.fst) with
      | some e => .error e
      | none =>
        let (bs, bad, s1) := s.engLoad l
        .ok ((List.range x.n0).map (fun e =>
          let b := packedElem x.bits bs e
          let lo := e * x.bits / 8
          { v := if x.bytes then .inr (b : Int) else f.elem (ftzOf o.rm) b
            bad := bad.any (fun y => meets lo (max 1 (x.bits / 8)) y.1 y.2) }), s1)

/-- A value as the block store takes it (R69). -/
def elemVal (x : FVal ⊕ Int) : FVal :=
  match x with
  | .inl v => v
  | .inr i => .ofInt i

/-- The blocks of a described destination row rewritten; a zero block leaves its payload, and its mark, alone (R69, R261, R287). -/
def State.engBlocksStore (s : State) (o : EngOp) (rm : Word) (x : Side) (es : List EngElem) :
    List (Nat × Phys) → Flags → State × Flags
  | [], fl => (s, fl)
  | (b, p) :: t, fl =>
    let f := fmtOf x.code
    let (_, old, oldBad, s1) := s.engBlock x.code p
    let (bs, fl1) := rewriteBlock x.code rm o.desc.sat b 0 (es.map (fun e => elemVal e.v)) [] old
    let whole := decide ((b + 1) * f.epb ≤ es.length)
    let bad := ((es.drop (b * f.epb)).take f.epb).any EngElem.bad || (!whole && oldBad)
    State.engBlocksStore (s1.engPut o.sid o.tag p (if hdrZero (hdrOf bs) then bs.take 2 else bs) bad) o rm x es t (fl ||| fl1)

/-- RM with SR replaced by RNE (R287). -/
def plainRm (rm : Word) : Word := if modeOf rm = .sr then setSeg rm 0 (0 : BitVec 3) else rm

/-- The bytes of a plain destination row, with the flags of its conversions. -/
def Side.encode (x : Side) (rm : Word) (sat : Bool) (es : List EngElem) : List Byte × Flags :=
  let f := fmtOf x.code
  let rs := es.map (fun e =>
    if x.bytes || x.code = 12 then (match e.v with
      | .inr i => (i.toNat, (0 : Flags))
      | .inl _ => (0, 0))
    else cvtElem f (modeOf rm) (ftzOf rm) sat e.v 0)
  (leBytes x.rowBytes (rs.reverse.foldl (fun acc y => acc * 2 ^ x.bits + y.1 % 2 ^ x.bits) 0),
    rs.foldl (fun a y => a ||| y.2) 0)

/-- A location of a scratchpad moved to a member core (R289). -/
def Phys.onCore (p : Phys) (dev core : Nat) : Phys :=
  { p with pa := setSeg (setSeg p.pa 31 (BitVec.ofNat 17 dev)) 21 (BitVec.ofNat 10 core) }

/-- A destination row written, to every target core of a multicast; or the cause and byte offset of its first failing
access (a whole-operation refusal has offset 0) (notes/assumptions 17: DEDUCED). -/
def State.engWriteRow (s : State) (o : EngOp) (x : Side) (members : List (Nat × Nat)) (es : List EngElem) (r : Nat) :
    Except (Cause × Nat) (State × Flags) :=
  let va := x.row r
  let f := fmtOf x.code
  let rm := plainRm o.rm
  if x.described then
    match s.engBlocks o .describedStore f va (blocksOf f 0 x.n0) with
    | .error (c, e) => .error (c, x.offset r e)
    | .ok bl => match s.lostPeer (bl.map Prod.snd) with
      | some e => .error e
      | none => .ok (s.engBlocksStore o rm x es bl 0)
  else
    match s.engRange o .rowStore va x.rowBytes with
    | .error (c, off) => .error (c, x.offset r 0 + off)
    | .ok l =>
      let (bs, fl) := x.encode rm o.desc.sat es
      let bad := fun (i : Nat) => (es.getD (i * 8 / x.bits) { v := .inr 0 }).bad || (x.bits == 4 && (es.getD (2 * i + 1) { v := .inr 0 }).bad)
      let ls := if o.desc.mc then members.map (fun m => l.map (fun y => (y.1.onCore m.1 m.2, y.2))) else [l]
      if o.desc.mc && l.any (fun y => y.1.tt != 2) then .error (0x71, 0)
      else if o.desc.mc && ls.any (fun l => l.any (fun y => !s.spadOk y.1 y.2)) then .error (cTargetType, x.offset r 0)
      else match s.lostPeer (ls.flatMap (fun l => l.map Prod.fst)) with
        | some e => .error e
        | none => .ok (ls.foldl (fun s l => s.engStore o l bs bad) s, fl)

/-! ## Groups (R17, R18) -/

/-- The members of a group in rank order. -/
def members (terms : List Word) : List (Nat × Nat) :=
  let one := fun (t : Word) =>
    let d0 := (seg t 0 17).toNat
    let c0 := (seg t 34 10).toNat
    ((List.range ((seg t 17 17).toNat + 1 - d0)).map (fun i =>
      (List.range ((seg t 44 10).toNat + 1 - c0)).map (fun j => (d0 + i) * 1024 + (c0 + j)))).flatten
  let keys := ((terms.filter (fun t => t.getLsbD 63)).map one).flatten.foldl insertAsc []
  keys.map (fun k => (k / 1024, k % 1024))

/-- The members of a group of the launch of an operation. -/
def State.groupOf (s : State) (o : EngOp) (g : BitVec 8) : List (Nat × Nat) :=
  match s.pkg.launches.find? (fun l => l.lnch == o.lnch && l.part == o.part) with
  | some l => members (l.groups.getD g.toNat [])
  | none => []

/-- The core itself, as a member. -/
def State.self (s : State) : Nat × Nat := (s.core.device.toNat, s.core.core.toNat)

/-! ## The run of an operation -/

/-- How an operation ends: its class, cause and value, with the flags it raised. -/
structure EngEnd where
  s : State
  cls : Nat := 0
  cause : Nat := 0
  value : Nat := 0
  fl : Flags := 0

/-- The status word (R277). -/
def EngEnd.word (e : EngEnd) : Word :=
  w64 (e.cls % 256 + e.cause % 256 * 2 ^ 8 + bit (e.fl &&& fNV != 0) * 2 ^ 16 + bit (e.fl &&& fOF != 0) * 2 ^ 17
    + bit (e.fl &&& fSAT != 0) * 2 ^ 18 + bit (e.fl &&& fUF != 0) * 2 ^ 19 + e.value % 2 ^ 32 * 2 ^ 32)

/-- A run that a fault ends (R290). -/
def EngEnd.fault (e : EngEnd) (cause : BitVec 8) (value : Nat) : EngEnd := { e with cls := 3, cause := cause.toNat, value := value }

/-- Poison met: the first one is reported (R290). -/
def EngEnd.poison (e : EngEnd) (value : Nat) : EngEnd := if e.cls = 0 then { e with cls := 2, cause := 7, value := value } else e

/-- The rows from a list, until one fails (R290). Destination row r takes source row `src r`. The TLB of the core holds what they
were translated by (R373). -/
def engRows (o : EngOp) (x y : Side) (toInt : Bool) (mem : List (Nat × Nat)) (src : Nat → Nat) : List Nat → EngEnd → EngEnd
  | [], e => e
  | r :: t, e =>
    match e.s.engReadRow o x toInt (src r) with
    | .error (c, v) => e.fault c v
    | .ok (es, s0) =>
      match s0.engWriteRow o y mem es r with
      | .error (c, v) => e.fault c v
      | .ok (s1, fl) =>
        let s2 := (s1.noteRange o.satp (x.row (src r)) x.rowBytes).noteRange o.satp (y.row r) y.rowBytes
        let e1 : EngEnd := { e with s := s2, fl := e.fl ||| fl }
        let e2 := match es.findIdx? EngElem.bad with
          | some i => e1.poison (x.offset (src r) i)
          | none => e1
        engRows o x y toInt mem src t e2

/-- Entry r of the index list of AGATHER or ASCATTER, with whether it is poisoned; or how its access fails (R288, R290, R405). -/
def State.engEntry (s : State) (o : EngOp) (r : Nat) : Except (Cause × Nat) (Nat × Bool) :=
  match s.checkAddr o.level o.satp .load 4 4 (o.list + w64 (4 * r)) with
  | .error e => .error (e.cause, 4 * r)
  | .ok p => match s.lostPeer [p] with
    | some e => .error e
    | none =>
      let (bs, poison, _) := s.coreRead p 4
      .ok (ofBytes bs, poison)

/-- The index list: its entries, 0 where one cannot be read, and the offset of the first poisoned one. -/
def State.engList (s : State) (o : EngOp) : List Nat → List Nat × Option Nat
  | [] => ([], none)
  | r :: t =>
    let (l, bad) := s.engList o t
    match s.engEntry o r with
    | .error _ => (0 :: l, bad)
    | .ok (v, poison) => (v :: l, if poison then some (4 * r) else bad)

/-- The first row whose list entry cannot be read, with how it fails: row r uses entry `at_ r`. -/
def State.engListFault (s : State) (o : EngOp) (at_ : Nat → Nat) : List Nat → Option (Nat × Cause × Nat)
  | [] => none
  | r :: t => match s.engEntry o (at_ r) with
    | .error e => some (r, e)
    | .ok _ => s.engListFault o at_ t

/-- Whether the page of an address has D = 1 (R370). -/
def State.pageD (s : State) (o : EngOp) (va : Word) : Bool :=
  match s.xlate o.satp va with
  | .ok (e, _) => e.getLsbD 8
  | .error _ => false

/-- A field combination that R287 refuses. -/
def refused (d : CopyDesc) (x y : Side) : Bool :=
  let off := fun (z : Side) => z.described && (z.base.toNat % 64 != 0 || z.t1.toNat % 64 != 0 || z.t2.toNat % 64 != 0 || z.t3.toNat % 64 != 0)
  d.cvt && (off x || off y || ((x.bits == 4 || y.bits == 4) && d.n0 % 2 == 1) || ((d.ifmt == 12 || d.ofmt == 12) && d.ifmt != d.ofmt))

/-- The rows written when a cancel or a teardown stops the operation while it runs, and how it then ends (R290, R294). -/
def stopped (o : EngOp) (rows : Nat) : Option (BitVec 8 × Nat) := o.stop.filter (fun x => decide (x.2 < rows))

/-- A cancel or a teardown met the operation before it started: it moves nothing and ends with class 4 and value 0, whatever its
fields are (R294). -/
def unstarted (o : EngOp) : Option (BitVec 8) := (o.stop.filter (fun x => x.2 == 0)).map Prod.fst

/-- The run of ACOPY, AGATHER or ASCATTER: all of it in one performance (R287-R290). -/
def State.engCopy (s : State) (o : EngOp) : EngEnd :=
  let d := o.desc
  let e0 : EngEnd := { s := s }
  let rows := if d.n0 = 0 then 0 else d.n1 * d.n2 * d.n3
  match unstarted o with
  | some c => { e0 with cls := 4, cause := c.toNat, value := 0 }
  | none =>
  if rows = 0 then e0
  else
    let nr := match stopped o rows with
      | some (_, k) => k
      | none => rows
    let bad := d.cvt && ((fmtOf d.ifmt).bits == 0 || (fmtOf d.ofmt).bits == 0)
    let src0 : Side :=
      { base := d.src, n0 := d.n0, n1 := d.n1, n2 := d.n2, t1 := d.ss1, t2 := d.ss2, t3 := d.ss3, code := d.ifmt, bytes := !d.cvt,
        described := d.cvt && s.pageD o d.src, list := none }
    let dst0 : Side :=
      { src0 with base := d.dst, t1 := d.ds1, t2 := d.ds2, t3 := d.ds3, code := d.ofmt, described := d.cvt && s.pageD o d.dst }
    let mem := s.groupOf o d.grp
    let spad := match s.xlate o.satp d.dst with
      | .ok (e, _) => seg e 52 3 == 2
      | .error _ => true
    if bad then e0.fault cFormat 0
    else if refused d src0 dst0 || (d.mc && (!spad || dst0.described)) then e0.fault 0x71 0
    else if d.mc && !mem.elem s.self then e0.fault 0x74 d.grp.toNat
    else
      let perm := permList o.perm
      let tail := rows % 64
      if d.pe && tail ≠ 0 && (perm.take tail).any (fun p => decide (tail ≤ p)) then e0.fault cPermInvalid (rows - tail)
      else
        let src := fun (r : Nat) => if d.pe then r / 64 * 64 + perm.getD (r % 64) 0 else r
        let toInt := match fmtOf d.ofmt with
          | .int _ => !dst0.described
          | _ => false
        let listed := o.kind = .gather || o.kind = .scatter
        if listed && o.list.toNat % 4 ≠ 0 then e0.fault cMisaligned 0
        else
          let upTo := fun (l : List Nat) (n : Nat) (e : EngEnd) =>
            let x := if o.kind = .gather then { src0 with list := some l } else src0
            let y := if o.kind = .scatter then { dst0 with list := some l } else dst0
            engRows o x y toInt mem src (List.range n) e
          let ended := fun (e : EngEnd) =>
            match stopped o rows with
            | some (c, k) => if e.cls < 3 then { e with cls := 4, cause := c.toNat, value := k } else e
            | none => e
          if listed then
            let (l, bad) := s.engList o (List.range rows)
            let e1 := match bad with
              | some v => e0.poison v
              | none => e0
            match s.engListFault o (fun r => if o.kind = .gather then src r else r) (List.range nr) with
            | none => ended (upTo l nr e1)
            | some (r, c, v) =>
              let e2 := upTo l r e1
              if e2.cls < 3 then e2.fault c v else e2
          else ended (upTo [] nr e0)

/-! ## Collectives (R80, R291) -/

/-- A field combination that R291 refuses. -/
def collRefused (o : EngOp) : Bool :=
  let d := o.desc
  let op := (seg o.opw 0 4).toNat
  d.n1 != 1 || d.n2 != 1 || d.n3 != 1 || d.ofmt != 0 || d.cvt || d.sat || d.pe || d.mc || decide (4 < op)
    || (decide (op < 3) && decide (7 < d.ifmt.toNat)) || ((fmtOf d.ifmt).bits == 4 && d.n0 % 2 == 1)

/-- The combination of a collective over the members' elements, rank order (R80). -/
def collCombine (op : Nat) (typ : BitVec 3) (rm : Word) (vals : List Nat) : Nat × Flags :=
  let comb := match op with
    | 0 => sumComb typ rm
    | 1 => pickComb typ rm true
    | _ => pickComb typ rm false
  tree comb 32 vals

/-- A member's contribution to a collective: its elements, and which of them are poisoned. -/
structure Share where
  bytes : List Byte
  bad : Nat → Bool

/-- Whether an ACOLL ends without the other members: a field or group that is refused, or a cancel (R290, R291, R294). -/
def State.collEnds (s : State) (o : EngOp) : Bool :=
  (fmtOf o.desc.ifmt).bits == 0 || collRefused o || !(s.groupOf o o.desc.grp).elem s.self || o.stop.isSome

/-- The run of an ACOLL: what the other members contribute comes with the event, in rank order: for each its elements, then one
byte for each element, not 0 where it is poisoned (for BCAST, of the root alone); with them RM of rank 0 in v, whether an
operand word differs from rank 0's (bit 1 of w, the rank in [63:32]), whether a member was cancelled (bit 2) (notes/assumptions
74: DEDUCED). -/
def State.engColl (s : State) (o : EngOp) : EngEnd :=
  let d := o.desc
  let e0 : EngEnd := { s := s }
  let mem := s.groupOf o d.grp
  let bits := (fmtOf d.ifmt).bits
  let n := d.n0
  let len := n * bits / 8
  match o.stop with
  | some (c, _) => { e0 with cls := 4, cause := c.toNat, value := 0 }
  | none =>
    if bits = 0 then e0.fault cFormat 0
    else if collRefused o then e0.fault 0x71 0
    else if !mem.elem s.self then e0.fault 0x74 d.grp.toNat
    else if s.ev.w.getLsbD 2 then { e0 with cls := 4, cause := 0x75, value := 0 }
    else if s.ev.w.getLsbD 1 then e0.fault 0x73 (seg s.ev.w 32 32).toNat
    else if n = 0 then e0
    else
      let rank := (mem.findIdx? (· == s.self)).getD 0
      let op := (seg o.opw 0 4).toNat
      let root := (seg o.opw 16 16).toNat
      match s.engRange o .row d.src (if op = 3 ∧ rank ≠ root then 0 else len) with
      | .error (c, v) => e0.fault c v
      | .ok l =>
        match s.lostPeer (l.map Prod.fst) with
        | some (c, v) => e0.fault c v
        | none =>
        let (own, bads, s1) := s.engLoad l
        let mine : Share := { bytes := own, bad := fun j => bads.any (fun y => meets (j * bits / 8) (max 1 (bits / 8)) y.1 y.2) }
        let share := fun (i : Nat) =>
          let b := (s.ev.data.drop ((len + n) * i)).take (len + n)
          ({ bytes := b.take len, bad := fun j => b.getD (len + j) 0 != 0 } : Share)
        let part := fun (k : Nat) => if k = rank then mine else share (if op = 3 then 0 else if k < rank then k else k - 1)
        let rm := plainRm (if rank = 0 then o.rm else s.ev.v)
        let ranks := List.range mem.length
        let (out, fl, bad) : List Byte × Flags × (Nat → Bool) :=
          if op = 3 then ((part root).bytes, 0, (part root).bad)
          else if op = 4 then ((ranks.map (fun k => (part k).bytes)).flatten, 0, fun j => (part (j / n)).bad (j % n))
          else
            let rs := (List.range n).map (fun j =>
              collCombine op (seg d.ifmt 0 3) rm (ranks.map (fun k => packedElem bits (part k).bytes j)))
            (leBytes len (rs.reverse.foldl (fun acc y => acc * 2 ^ bits + y.1 % 2 ^ bits) 0), rs.foldl (fun a y => a ||| y.2) 0,
              fun j => ranks.any (fun k => (part k).bad j))
        match s1.engRange o .rowStore d.dst out.length with
        | .error (c, v) => e0.fault c v
        | .ok l2 =>
          match s1.lostPeer (l2.map Prod.fst) with
          | some (c, v) => e0.fault c v
          | none =>
          let marks := fun (i : Nat) => bad (i * 8 / bits) || (bits == 4 && bad (2 * i + 1))
          let e1 : EngEnd := { e0 with s := s1.engStore o l2 out marks, fl := fl }
          match (List.range (if op = 4 then n * mem.length else n)).find? bad with
          | some j => e1.poison (j * bits / 8)
          | none => e1

/-! ## Completion (R113, R114, R285, R289) -/

/-- The core that a destination's handlers belong to, if it is a scratchpad's (R113). -/
def State.handlingCore (s : State) (o : EngOp) : Nat × Nat :=
  match s.xlate o.satp o.desc.dst with
  | .ok (e, b) =>
    let p := physOf e b o.desc.dst
    if p.tt = 2 then ((seg p.pa 31 17).toNat, (seg p.pa 21 10).toNat) else s.self
  | .error _ => s.self

/-- The bytes an operation writes to one destination. -/
def EngOp.bytes (s : State) (o : EngOp) : Nat :=
  let d := o.desc
  let bits := if d.cvt then (fmtOf d.ofmt).bits else if o.kind = .coll then (fmtOf d.ifmt).bits else 8
  let k := if o.kind = .coll && seg o.opw 0 4 == 4 then (s.groupOf o d.grp).length else 1
  d.n0 * d.n1 * d.n2 * d.n3 * bits / 8 * k

/-- Whether this core makes a handler for the operation. -/
def State.handlesHere (s : State) (o : EngOp) : Bool :=
  o.desc.notify && (if o.desc.mc then (s.groupOf o o.desc.grp).elem s.self else s.handlingCore o == s.self)

/-- Whether an operation that has ended makes a handler entry on this core: of class 0, 1 or 2 (R113). -/
def State.postsHere (s : State) (o : EngOp) : Bool := s.handlesHere o && decide ((seg o.status 0 8).toNat ≤ 2)

/-- Whether the completion of an operation waits: for room in the arrival queue, for what its release orders, for leases on its
object (R106, R114, R131, R285). -/
def State.postWaits (s : State) (o : EngOp) : Bool :=
  (s.postsHere o && decide (64 ≤ s.core.arrivals.length)) || s.releaseWaits o.sid (o.tag + 1) o.desc.scope || s.objLeased o.obj

/-- An operation whose payload is written posts its completion: its handler entry, once the queue has room; its status and
its arrival, a release at its scope (R106, R114, R285). -/
def State.engPost (s : State) (o : EngOp) : State :=
  if s.postWaits o then
    { s with core := { s.core with ops := s.core.ops.map (fun x => if x.slot = o.slot then { o with ended := true } else x) } }
  else
    let s1 : State := { s with core := { s.core with ops := s.core.ops.filter (fun x => x.slot != o.slot) } }
    let a : Arrival :=
      { pc := o.pc, dst := o.desc.dst, bytes := w64 (o.bytes s), arg := o.desc.arg, s28 := o.s28, lnch := o.lnch, part := o.part,
        ver := o.ver }
    let s2 := if s.postsHere o then s1.addArrival a else s1
    s2.completeAt o.obj o.status

/-- Whether an operation may run: every earlier access of its strand has been performed (R127), and no change of a die memory or of a bias
is in progress, which could hold accesses of it (R377, R384). The host answers the snoops of an operation before it runs, where it has
modified a line (R383) (notes/assumptions 93: DESIGN CHOICE). -/
def State.engReady (s : State) (o : EngOp) : Bool := s.forked o.sid o.tag && (o.ended || (s.pkg.dmBusy.isEmpty && s.pkg.bias.isNone))

/-- A corrected error or a link retry touched the data (bit 4 of the event's w): class 1, whose cause and value the spec
does not state (R290) (notes/assumptions 20: DESIGN CHOICE). -/
def EngEnd.corrected (e : EngEnd) (free : Word) : EngEnd :=
  if e.s.ev.w.getLsbD 4 && e.cls == 0 then { e with cls := 1, cause := (seg free 0 8).toNat, value := (seg free 32 32).toNat } else e

/-- ENGINE_COMPLETION (R285-R291): the operation in a slot runs and completes; one already ended posts what it still
owes. It waits for the banks it touches, which the pipeline takes first (R90). -/
def execEngineCompletion (s0 : State) : Out1 :=
  match s0.core.ops.find? (fun o => o.slot == s0.ev.n) with
  | none => happen s0 (.hold .other)
  | some o =>
    let s := s0.acting o.sid o.lnch
    if o.kind = .note then
      if o.ended && decide (s.core.arrivals.length < 64) then
        let s1 := s.addArrival o.noteArrival
        happen s (.ok { s1 with core := { s1.core with ops := s1.core.ops.filter (fun x => x.slot != o.slot) } })
      else happen s (.hold .other)
    else if !s.engReady o then happen s (.hold .other)
    else if o.ended then happen s (if s.postWaits o then .hold .other else .ok (s.engPost o))
    else
      let e := ((if o.kind = .coll then s.banksFree.engColl o else s.banksFree.engCopy o).corrected (Config.freeWord s.choice))
      match s.withBanks e.s with
      | none => happen s (.hold .other)
      | some s1 => happen s (.ok (s1.engPost { o with status := e.word }))

end Sys2Proof.Machine
end

