-- ==== Sys2Proof/Machine/Matrix.lean ====
section
/-! DEFINITION. The matrix unit: the MATRIX words, the steps of a routine, the start and the end of a call, MLOADP copies (10
R228-R253; 03 R77, R78, R81, R85). -/

namespace Sys2Proof.Machine

/-! ## The call that runs -/

/-- The call the core runs (R245): the first of its queue, once started and until it ends. -/
def State.running (s : State) : Option MCall :=
  match s.core.calls with
  | m :: _ => if m.started && !m.ended then some m else none
  | [] => none

/-- The first call replaced. -/
def State.setCall (s : State) (m : MCall) : State := { s with core := { s.core with calls := m :: s.core.calls.drop 1 } }

/-- The context in which the strand of a call is resident. -/
def State.ctxOf (s : State) (sid : BitVec 40) : Option Ctx :=
  if s.cur.sid == sid then some s.cur else if s.oth.sid == sid then some s.oth else none

/-- Change that context. -/
def State.modCtxOf (s : State) (sid : BitVec 40) (f : Ctx → Ctx) : State :=
  if s.cur.sid == sid then { s with cur := f s.cur } else if s.oth.sid == sid then { s with oth := f s.oth } else s

/-- An error reported in the status so far: the worst class, with the cause and value of its first error (R248). -/
def MCall.report (m : MCall) (cls : Nat) (cause : BitVec 8) (op : Option (BitVec 3)) (row : Option Nat) : MCall :=
  if cls ≤ (seg m.status 0 8).toNat then m
  else
    let value := m.step % 4096 + (match op with
      | some r => r.toNat * 2 ^ 12 + 2 ^ 15
      | none => 0) + (row.getD 0) % 64 * 2 ^ 16
    { m with status := (m.status &&& 0xF0000) ||| w64 (cls + cause.toNat * 2 ^ 8 + value * 2 ^ 32) }

/-- The flags of TSW and of F, in the order NV, OF, SAT, UF (R85, R243). -/
def tswBits (fl : Flags) : BitVec 4 :=
  BitVec.ofBool (fl &&& fUF != 0) ++ BitVec.ofBool (fl &&& fSAT != 0) ++ BitVec.ofBool (fl &&& fOF != 0)
    ++ BitVec.ofBool (fl &&& fNV != 0)

/-- Events go to the TSW of the accumulator tile at once (R85). -/
def State.orTsw (s : State) (m : MCall) (b : BitVec 32) : State :=
  match m.accTile with
  | none => s
  | some t => s.modCtxOf m.sid (fun c => c.modTile t (fun q => { q with tsw := (q.tsw ||| b) &&& 0x1F }))

/-- What a step does: it runs, taking some cycles; it waits for a row; it ends the call with a cause, an operand and a row. -/
inductive StepOut where
  | ok (s : State) (m : MCall) (cycles : Nat)
  | wait
  | fail (cause : BitVec 8) (op : Option (BitVec 3)) (row : Option Nat)

/-- The call after its step: the next step comes up. -/
def MCall.advance (m : MCall) : MCall := { m with step := m.step + 1 }

/-- A step of the running call as a step of the machine: one that fails ends the call with class 3 (R248). -/
def State.runStep (s : State) (k : State → MCall → StepOut) : Out1 :=
  match s.running with
  | none => happen s (.hold .other)
  | some m =>
    match k s.banksFree m with
    | .wait => happen s (.hold .other)
    | .ok s0 m1 n => match s.withBanks s0 with
      | none => happen s (.hold .other)
      | some s1 => .next { s1.setCall { m1 with due := s.core.cyc + max 1 n } with iss := { s1.iss with verdict := .issued } }
    | .fail cause op row =>
      .next { s.setCall { m.report 3 cause op row with ended := true } with iss := { s.iss with verdict := .issued } }

/-! ## Operands (R228, R229) -/

/-- An operand: a tile, or a scratchpad area; with its format, its bitmap and its block form. -/
structure Operand where
  tile : Option (BitVec 4)
  base : Nat := 0
  rpitch : Nat := 0
  tpitch : Nat := 0
  rot : Nat := 0
  bmoff : Nat := 0
  fmt : BitVec 4
  bm : Bool
  blk : Bool

/-- The operand at an ma register, or the cause it ends the call with. -/
def MCall.operand (m : MCall) (r : BitVec 3) : Except (BitVec 8) Operand :=
  let v := m.ma.get r.toFin
  if !v.getLsbD 63 then
    if seg v 4 4 != 0 || seg v 9 54 != 0 then .error 0x71
    else
      let q := m.tiles.get (seg v 0 4).toFin
      .ok { tile := some (seg v 0 4), fmt := seg q.attr 0 4, bm := q.attr.getLsbD 9, blk := v.getLsbD 8 }
  else if r = 7 then .error 0x71
  else
    let w := m.ma.get (r + 1).toFin
    if seg v 60 3 != 0 || seg w 34 30 != 0 then .error 0x71
    else
      let base := (seg v 0 24).toNat
      let rp := (seg v 24 16).toNat
      let tp := (seg v 40 20).toNat
      let bo := (seg w 4 24).toNat
      if base % 256 ≠ 0 ∨ rp = 0 ∨ rp % 256 ≠ 0 ∨ tp % 256 ≠ 0 ∨ bo % 64 ≠ 0 then .error cMisaligned
      else
        .ok
          { tile := none, base := base, rpitch := rp, tpitch := tp, rot := (seg w 0 4).toNat, bmoff := bo, fmt := seg w 28 4
            bm := w.getLsbD 32, blk := w.getLsbD 33 }

/-- Working position: tile index and k offset (R229). -/
def MCall.posN (m : MCall) (r : BitVec 3) : Int := (m.pos.get r.toFin).1.toInt
def MCall.posK (m : MCall) (r : BitVec 3) : Int := (m.pos.get r.toFin).2.toInt

/-- `n` bytes at an offset of the issuing core's scratchpad; none where they lie outside the program's part (R89, R229). -/
def State.spadAt (s : State) (m : MCall) (o : Int) (n : Nat) : Option Phys :=
  if o < 0 ∨ 2 ^ 21 ≤ o then none
  else
    let p : Phys := { tt := 2, pa := (0 : BitVec 4) ++ s.core.device ++ m.icore ++ BitVec.ofInt 21 o }
    if s.spadOk p n then some p else none

/-- The location of row `r` of tile `n` of a scratchpad operand, rotated (R91, R229). -/
def State.operandRow (s : State) (m : MCall) (x : Operand) (n : Int) (r : Nat) : Option Phys :=
  let o : Int := x.base + n * x.tpitch + r * x.rpitch
  if o < 0 then none
  else
    let bank := (o / 256 % 32 + x.rot * n) % 32
    s.spadAt m (o / 8192 * 8192 + bank * 256 + o % 256) 256

/-- A row of an operand as a staging step finds it. -/
inductive RowGet where
  | row (v : Row) (poison : Bool) (s : State)
  | wait
  | bad (cause : BitVec 8)

/-- Read a row of an operand (R234, R246): an OUT row of the call itself as it stands for the call; a tile row under R40. -/
def State.matrixRow (s : State) (m : MCall) (x : Operand) (n : Int) (r : Nat) : RowGet :=
  match x.tile with
  | some t =>
    let rr : BitVec 6 := BitVec.ofNat 6 r
    match m.outs.find? (fun o => o.t == t && o.r == rr) with
    | some o => .row o.v o.poison s
    | none => match s.ctxOf m.sid with
      | none => .wait
      | some c =>
        let q := c.rowReg t rr
        match q.st with
        | .full => .row q.v false s
        | .empty => .wait
        | .expired => .bad cExpired
        | .poisoned => .row q.v true s
  | none => match s.operandRow m x n r with
    | none => .bad cTargetType
    | some p =>
      let (bs, bad, s1) := (s.engineBank p).coreRead p 256
      .row (rowOf bs) bad s1

/-! ## Staging (R234) -/

/-- Elements of a row of an operand: weights for cb2. -/
def Operand.count (x : Operand) : Nat :=
  let f := fmtOf x.fmt
  let per := if x.fmt = 12 then 8 else 1
  if x.blk then 4 * f.epb * per else 2048 / f.bits * per

/-- An element, or an index of cb2, number `e` of a row (R229). -/
def Operand.elem (x : Operand) (v : Row) (e : Nat) : Elem :=
  let f := fmtOf x.fmt
  if x.blk then
    let b := (rowBytes v).drop (64 * (e / f.epb))
    let h := hdrOf b
    if hdrZero h then .absent else .val (BitVec.ofNat 64 (blockElem f.bits (hdrNib h) b (e % f.epb))) (hdrScale h)
  else .val (BitVec.ofNat 64 (v.toNat / 2 ^ (e * f.bits) % 2 ^ f.bits)) 0

/-- Whether the header of a block that elements `lo` to `lo + n - 1` of a row reach raises FORMAT (R65, R229). -/
def Operand.badBlock (x : Operand) (v : Row) (lo n : Nat) : Bool :=
  x.blk && (blocksOf (fmtOf x.fmt) lo n).any (fun b => hdrFault x.fmt false (hdrOf ((rowBytes v).drop (64 * b))))

/-- The rows of a window, one after another; the element range counts indices for cb2. -/
def State.stageRows (s : State) (m : MCall) (x : Operand) (op : BitVec 3) (n : Int) (rf lo cnt : Nat) :
    List Nat → StepOut ⊕ (List (List Elem) × List Bool × State)
  | [] => .inr ([], [], s)
  | i :: t =>
    match s.matrixRow m x n (rf + i) with
    | .wait => .inl .wait
    | .bad c => .inl (.fail c (some op) (some (rf + i)))
    | .row v poison s1 =>
      if x.badBlock v lo cnt then .inl (.fail cFormat (some op) (some (rf + i)))
      else match State.stageRows s1 m x op n rf lo cnt t with
        | .inl r => .inl r
        | .inr (rows, ps, s2) => .inr ((List.range cnt).map (fun q => x.elem v (lo + q)) :: rows, poison :: ps, s2)

/-- The window a staging step makes at tile index `n` and k offset `koff` (R234). -/
def State.stage (s : State) (m : MCall) (op : BitVec 3) (rf rc k0 kn : Nat) (n koff : Int) (k : Staged → State → StepOut) : StepOut :=
  if 63 < rf + rc then .fail 0x70 (some op) none
  else match m.operand op with
  | .error c => .fail c (some op) none
  | .ok x =>
    let f := fmtOf x.fmt
    let lo : Int := k0 + koff
    if x.tile.isSome && x.tile == m.accTile then .fail 0x71 (some op) none
    else if f.bits = 0 then .fail cFormat (some op) none
    else if lo < 0 ∨ (x.count : Int) < lo + kn + 1 then .fail 0x70 (some op) none
    else
      let g := if x.fmt = 12 then 8 else 1
      let odd := if x.fmt = 12 then 8 else if f.bits = 4 then 2 else 1
      let l := lo.toNat
      if l % odd ≠ 0 ∨ (kn + 1) % odd ≠ 0 then .fail 0x70 (some op) none
      else match s.stageRows m x op n rf (l / g) ((kn + 1) / g) (List.range (rc + 1)) with
        | .inl r => r
        | .inr (rows, ps, s1) =>
          k { m := op, fmt := x.fmt, blk := x.blk, rf := rf, lo := l, rows := rows ++ List.replicate (63 - rc) []
              present := rows.map (fun r => r.map (fun _ => true)) ++ List.replicate (63 - rc) []
              poisoned := ps ++ List.replicate (63 - rc) false, step := m.step, n := BitVec.ofInt 16 n, koff := BitVec.ofInt 16 koff } s1

/-- Poison in a staged window: the first row of it is reported with its operand (R248, R249). -/
def MCall.stagedPoison (m : MCall) (x : Staged) : MCall :=
  match x.poisoned.findIdx? id with
  | some i => m.report 2 cPoison (some x.m) (some i)
  | none => m

/-- TSW.POI of a staged window (R36, R249). -/
def Staged.poi (x : Staged) : BitVec 32 := if x.poisoned.any id then 0x10 else 0

/-- LDA (R234). -/
def execLda (op : BitVec 3) (rf rc : BitVec 6) (k0 kn : BitVec 10) (s : State) : Out1 :=
  s.runStep fun s m => s.stage m op rf.toNat rc.toNat k0.toNat kn.toNat (m.posN op) (m.posK op) fun x s1 =>
    .ok (s1.orTsw m x.poi)
      { m.stagedPoison x with a := some x, aAt := some (m.step, x.n, x.koff), ab := false, order := List.range 64 }.advance 1

/-- LDB (R234). -/
def execLdb (op : BitVec 3) (rf rc : BitVec 6) (k0 kn : BitVec 10) (s : State) : Out1 :=
  s.runStep fun s m => s.stage m op rf.toNat rc.toNat k0.toNat kn.toNat (m.posN op) (m.posK op) fun x s1 =>
    .ok (s1.orTsw m x.poi) { m.stagedPoison x with b := some x, bAt := some (m.step, x.n, x.koff), bb := false, dec := false }.advance 1

/-! ## END, ZERO, LOOP, ADV, PERM, SIG (R233, R239-R243) -/

/-- END: the call ends normally (R230, R247). -/
def execEnd (s : State) : Out1 := s.runStep fun s m => .ok s { m with ended := true } 1

/-- ZERO (R233, R249). -/
def execZero (op : BitVec 3) (keep : BitVec 1) (s : State) : Out1 :=
  s.runStep fun s m =>
    let t := maTile (m.ma.get op.toFin)
    if t.isNone ∨ t ≠ m.accTile then .fail 0x71 (some op) none
    else match m.operand op with
      | .error c => .fail c (some op) none
      | .ok _ =>
        let acc := if keep = 1 then m.acc else Vector.replicate 64 { v := Vector.replicate 64 0, poison := false }
        .ok s { m with acc := acc, zr := true }.advance 1

/-- LOOP (R240). -/
def execLoop (c : BitVec 2) (cnt : BitVec 16) (back : BitVec 12) (s : State) : Out1 :=
  s.runStep fun s m =>
    if m.step < back.toNat then .fail 0x70 none none
    else
      let n := m.cnt.get c.toFin + 1
      if n.toNat < cnt.toNat then
        .ok s { m with cnt := m.cnt.set c.toNat n c.isLt, step := m.step - back.toNat } 1
      else .ok s { m with cnt := m.cnt.set c.toNat 0 c.isLt }.advance 1

/-- ADV (R241). -/
def execAdv (op : BitVec 3) (mode : BitVec 2) (d : BitVec 16) (s : State) : Out1 :=
  s.runStep fun s m =>
    let (n, k) := m.pos.get op.toFin
    if mode = 0 && !(m.ma.get op.toFin).getLsbD 63 then .fail 0x70 (some op) none
    else
      let p := if mode = 0 then (n + d, k) else if mode = 1 then (n, k + d) else (0, 0)
      .ok s { m with pos := m.pos.set op.toNat p op.isLt }.advance 1

/-- PERM (R239): staged row i receives staged row p(i), data, marks and poison. -/
def execPerm (p : BitVec 3) (s : State) : Out1 :=
  s.runStep fun s m =>
    let l := permList (m.perms.get p.toFin)
    let a := m.a.map (fun x => { x with
      rows := l.map (fun i => x.rows.getD i [])
      present := l.map (fun i => x.present.getD i [])
      poisoned := l.map (fun i => x.poisoned.getD i false) })
    .ok s { m with a := a, order := l.map (fun i => m.order.getD i 0) }.advance 1

/-- SIG (R243). -/
def execSig (stop : BitVec 1) (msk : BitVec 4) (s : State) : Out1 :=
  s.runStep fun s m =>
    if !m.zr then .fail 0x70 none none
    else
      let f := m.flags &&& msk
      let m1 : MCall := { m with status := m.status ||| (f.setWidth 64 <<< 16) }
      if stop = 1 ∧ f ≠ 0 then .ok s { m1.report 3 cFpTrap none none with ended := true } 1 else .ok s m1.advance 1

/-! ## DEC and BMAP (R237, R238) -/

/-- A staged element of cb2 decoded into its eight weights (notes/assumptions 15: DEDUCED). -/
def Elem.decode (e : Elem) : List Elem :=
  match e with
  | .val x sc => (List.range 8).map (fun j => .weight (cb2Twice x.toNat j) sc)
  | _ => List.replicate 8 .absent

/-- DEC (R237). -/
def execDec (s : State) : Out1 :=
  s.runStep fun s m =>
    match m.b with
    | some b =>
      if b.fmt ≠ 12 ∨ m.dec then .fail 0x70 none none
      else
        let b1 : Staged := { b with
          rows := b.rows.map (fun r => (r.map Elem.decode).flatten)
          present := b.present.map (fun r => (r.map (fun x => List.replicate 8 x)).flatten) }
        .ok s { m with b := some b1, dec := true }.advance 1
    | none => .fail 0x70 none none

/-- The bitmap row of an operand row, or nothing where its location fails. -/
def State.bitmapRow (s : State) (m : MCall) (x : Operand) (n : Int) (r : Nat) : Option Nat :=
  match x.tile with
  | some t => some ((m.tiles.get t.toFin).bm.get (Fin.ofNat 64 r)).toNat
  | none =>
    let len := bmBits x.fmt / 8
    (s.spadAt m (x.bmoff + n * 4096 + r * len) len).map (fun p => ofBytes (s.coreRead p len).1)

/-- The marks of one staged buffer from its operand's bitmap (R238), or the cause it ends the call with and the operand's row concerned
(R248); `row` says which window row a staged row holds. -/
def State.marksOf (s : State) (m : MCall) (st : Staged) (dec : Bool) (row : Nat → Nat) : Except (BitVec 8 × Option Nat) Staged :=
  match m.operand st.m with
  | .error c => .error (c, none)
  | .ok x =>
    if !x.bm then .ok st
    else
      let g := if st.fmt = 12 then 8 else 1
      let per := if dec then 8 else 1
      let bits := (List.range 64).map (fun i =>
        if (st.rows.getD i []).isEmpty then some 0 else s.bitmapRow m x st.n.toInt (st.rf + row i))
      match bits.findIdx? Option.isNone with
      | some i => .error (cTargetType, some (st.rf + row i))
      | none => .ok { st with present := (List.range 64).map (fun i =>
        (List.range (st.rows.getD i []).length).map (fun q => ((bits.getD i none).getD 0).testBit (st.lo / g + q / per))) }

/-- Marks of both buffers as BMAP asks for them. -/
def State.applyBmap (s : State) (m : MCall) (a b : Bool) : Except (BitVec 8 × BitVec 3 × Option Nat) MCall :=
  let one := fun (use : Bool) (x : Option Staged) (dec : Bool) (row : Nat → Nat) =>
    match use, x with
    | true, some st => match s.marksOf m st dec row with
      | .ok y => Except.ok (some y)
      | .error (c, r) => .error (c, st.m, r)
    | _, _ => .ok x
  match one a m.a false (fun i => m.order.getD i 0), one b m.b m.dec id with
  | .error e, _ => .error e
  | _, .error e => .error e
  | .ok x, .ok y => .ok { m with a := x, b := y, ab := m.ab || a, bb := m.bb || b }

/-- BMAP (R238). -/
def execBmap (a b : BitVec 1) (s : State) : Out1 :=
  s.runStep fun s m =>
    match s.applyBmap m (a == 1) (b == 1) with
    | .ok m1 => .ok s m1.advance 1
    | .error (c, op, r) => .fail c (some op) r

/-! ## MAC (R77, R78, R81, R235, R236) -/

/-- The kinds of pair of R235. -/
inductive Pair where
  | float (r g : Nat)
  | int (r g : Nat)
  deriving DecidableEq, Repr

/-- The pair of two operand formats, with the dense positions per cycle and the k-group; none is FORMAT. -/
def pairOf (a b : BitVec 4) : Option Pair :=
  let half := fun (x : BitVec 4) => x == 1 || x == 2
  let eight := fun (x : BitVec 4) => x == 8 || x == 9
  let byte := fun (x : BitVec 4) => x == 6 || x == 13
  if half a && half b then some (.float 2 16)
  else if eight a && eight b then some (.float 4 16)
  else if a == 10 && b == 10 then some (.float 8 32)
  else if half a && b == 12 then some (.float 2 16)
  else if eight a && b == 12 then some (.float 4 16)
  else if a == 10 && b == 12 then some (.float 8 32)
  else if byte a && byte b then some (.int 4 16)
  else if a == 11 && b == 11 then some (.int 8 32)
  else none

/-- What a staged element stands for; nothing for a structural zero. -/
def Elem.value (f : Fmt) (e : Elem) : Option FVal :=
  match e with
  | .absent => none
  | .val x sc => some ((f.value false x.toNat).scale sc)
  | .weight t sc => some (.fin (decide (t < 0)) t.natAbs (sc - 1))

/-- The element at a staged position, if it is not a structural zero; marks count with sp = 1. -/
def Staged.at (x : Staged) (f : Fmt) (sp : Bool) (i q : Nat) : Option FVal :=
  if sp && !((x.present.getD i []).getD q true) then none
  else ((x.rows.getD i []).getD q .absent).value f

/-- Whether a value is a NaN. -/
def FVal.isNan : FVal → Bool
  | .nan _ => true
  | _ => false

/-- The exact sum of the present products of a group, with NV for an invalid one or a NaN; nothing where every product is
omitted (notes/assumptions 16: DEDUCED). -/
def groupSum (l : List (FVal × FVal)) : Option (FVal × Flags) :=
  l.foldl (fun acc x =>
    let (p, f1) := mulVal x.1 x.2
    let fl := f1 ||| flagIf (x.1.isNan || x.2.isNan) fNV
    match acc with
    | none => some (p, fl)
    | some (v, f0) =>
      let (r, f2) := addVal .rne v p
      some (r, f0 ||| fl ||| f2)) none

/-- A group sum added to an f32 accumulator value with one rounding (R77, R85). -/
def accFloat (a : BitVec 32) (v : FVal) (fl : Flags) : BitVec 32 × Flags :=
  let x := ffF32.decode a.toNat
  let (r, f1) := addVal .rne x v
  let (b, f2) := ffF32.result .rne false r
  (BitVec.ofNat 32 b, fl ||| f1 ||| f2 ||| flagIf x.isNan fNV)

/-- A group sum added to an i32 accumulator value, clamped (R78). -/
def accInt (a : BitVec 32) (v : FVal) : BitVec 32 × Flags :=
  let n : Int := match v with
    | .fin neg m e => if neg then -(m * 2 ^ e.toNat : Int) else (m * 2 ^ e.toNat : Int)
    | _ => 0
  let t := a.toInt + n
  if t < -(2 ^ 31) ∨ 2 ^ 31 - 1 < t then (BitVec.ofInt 32 (max (-(2 ^ 31)) (min (2 ^ 31 - 1) t)), fSAT)
  else (BitVec.ofInt 32 t, 0)

/-- One element of the accumulator after a k-group of positions `q0` to `q1 - 1`. -/
def accStep (isInt : Bool) (a b : Staged) (sp : Bool) (q0 q1 i j : Nat) (x : BitVec 32) : BitVec 32 × Flags :=
  let ps := (List.range (q1 - q0)).filterMap (fun d =>
    match a.at (fmtOf a.fmt) sp i (q0 + d), b.at (fmtOf b.fmt) sp j (q0 + d) with
    | some u, some v => some (u, v)
    | _, _ => none)
  match groupSum ps with
  | none => (x, 0)
  | some (v, fl) => if isInt then accInt x v else accFloat x v fl

/-- A k-group added to a whole accumulator: the rows with their poison, and the flags (R77, R249). -/
def macGroup (isInt : Bool) (a b : Staged) (sp : Bool) (q0 q1 : Nat) (acc : Vector AccRow 64) : Vector AccRow 64 × Flags :=
  let anyB := b.poisoned.any id
  let rs := (List.finRange 64).map (fun i =>
    (List.finRange 64).map (fun j => accStep isInt a b sp q0 q1 i.val j.val ((acc.get i).v.get j)))
  let new : Vector AccRow 64 := Vector.ofFn (fun i =>
    { v := Vector.ofFn (fun j => ((rs.getD i.val []).getD j.val (0, 0)).1)
      poison := (acc.get i).poison || anyB || a.poisoned.getD i.val false })
  (new, rs.foldl (fun f r => r.foldl (fun f x => f ||| x.2) f) 0)

/-- MAC (R236): one k-group of it; the last one brings up the next step. FORMAT names no operand, as in the worked status word of 15
(R235, R248) (notes/assumptions 91: DEDUCED). -/
def execMac (sp : BitVec 1) (kb kn : BitVec 10) (s : State) : Out1 :=
  s.runStep fun s m =>
    if !m.zr ∨ 1023 < kb.toNat + kn.toNat then .fail 0x70 none none
    else match m.a, m.b with
    | some a, some b =>
      if b.fmt = 12 && !m.dec then .fail 0x70 none none
      else
        let afmt : BitVec 4 := match m.accTile with
          | some t => seg (m.tiles.get t.toFin).attr 4 4
          | none => 0
        let intBlk := fun (x : Staged) => x.blk && (match fmtOf x.fmt with
          | .int _ => true
          | _ => false)
        match afmt.toNat, pairOf a.fmt b.fmt with
        | 0, some (.float r g) => go s m a b false r g
        | 4, some (.int r g) => if intBlk a || intBlk b then .fail cFormat none none else go s m a b true r g
        | _, _ => .fail cFormat none none
    | _, _ => .fail 0x70 none none
where
  go (s : State) (m : MCall) (a b : Staged) (isInt : Bool) (r g : Nat) : StepOut :=
    let q0 := kb.toNat + m.kdone
    let q1 := min (q0 + g) (kb.toNat + kn.toNat + 1)
    let (acc, fl) := macGroup isInt a b (sp == 1) q0 q1 m.acc
    let last := decide (q1 = kb.toNat + kn.toNat + 1)
    let poi := a.poisoned.any id || b.poisoned.any id
    let tb := tswBits fl
    let m1 : MCall := { (m.stagedPoison a).stagedPoison b with
      acc := acc, flags := m.flags ||| tb, kdone := if last then 0 else q1 - kb.toNat, sp := !last && sp == 1 }
    let s1 := s.orTsw m (tb.setWidth 32 ||| (if poi then 0x10 else 0))
    .ok s1 (if last then m1.advance else m1) ((q1 - q0 + r - 1) / r)

/-! ## OUT (R242) -/

/-- One element converted by OUT (notes/assumptions 56: DEDUCED). -/
def outElem (isInt : Bool) (dst : Fmt) (mode : RMode) (sat : Bool) (osh : Int) (x : BitVec 32) : Nat × Flags :=
  if isInt then
    let v : FVal := (FVal.ofInt x.toInt).scale osh
    match dst, v with
    | .int i, .fin n m e => i.narrow sat (roundInt mode n m e).1
    | d, v => cvtTo d mode sat v
  else cvtTo dst mode sat ((ffF32.decode x.toNat).scale osh)
where
  cvtTo (d : Fmt) (mode : RMode) (sat : Bool) (v : FVal) : Nat × Flags :=
    match d with
    | .flt f => f.convert mode false sat v 0
    | .int i => i.convert mode v
    | _ => (0, 0)

/-- The row OUT writes for an accumulator row. -/
def outRow (isInt : Bool) (fmt : BitVec 4) (mode : RMode) (sat : Bool) (osh : Int) (a : AccRow) : Row × Flags :=
  let f := fmtOf fmt
  let rs := a.v.toList.map (outElem isInt f mode sat osh)
  (BitVec.ofNat 2048 (rs.reverse.foldl (fun acc y => acc * 2 ^ f.bits + y.1 % 2 ^ f.bits) 0), rs.foldl (fun x y => x ||| y.2) 0)

/-- A row of a tile OUT destination is delivered: FULL, or POISONED (R247, R249). -/
def State.outTile (s : State) (m : MCall) (t : BitVec 4) (r : BitVec 6) (v : Row) (poison : Bool) : State :=
  let d : Dest := .row t r
  let s1 := if s.marked m.sid m.tag d then s
    else { s with pkg := { s.pkg with marks := { sid := m.sid, tag := m.tag, dest := d } :: s.pkg.marks } }
  s1.arrive { sid := m.sid, tag := m.tag, dest := d, v := v, sel := BitVec.allOnes 256, poison := poison, due := .wall s.core.cyc, pushes := false }

/-- OUT rows one after another. -/
def State.outRows (s : State) (m : MCall) (x : Operand) (op : BitVec 3) (conv : AccRow → Row × Flags) :
    List Nat → Flags → StepOut
  | [], fl =>
    let tb := tswBits fl
    .ok (s.orTsw m (tb.setWidth 32)) { m with flags := m.flags ||| tb }.advance 1
  | i :: t, fl =>
    let a := m.acc.get (Fin.ofNat 64 i)
    let (v, f1) := conv a
    match x.tile with
    | some tl =>
      let r : BitVec 6 := BitVec.ofNat 6 i
      let o : OutRow := { t := tl, r := r, v := v, poison := a.poison, written := true }
      let m1 : MCall := { m with outs := o :: m.outs.filter (fun y => !(y.t == tl && y.r == r)) }
      State.outRows (s.outTile m tl r v a.poison) m1 x op conv t (fl ||| f1)
    | none => match s.operandRow m x (m.posN op) i with
      | none => .fail cTargetType (some op) (some i)
      | some p =>
        State.outRows (s.engPut m.sid m.tag p (rowBytes v) a.poison) m x op conv t (fl ||| f1)

/-- OUT (R242). -/
def execOut (op : BitVec 3) (fmt : BitVec 4) (sat : BitVec 1) (rnd : BitVec 3) (rf rc : BitVec 6) (osh : BitVec 8) (s : State) : Out1 :=
  s.runStep fun s m =>
    if !m.zr then .fail 0x70 (some op) none
    else if outFormatBad fmt then .fail cFormat (some op) none
    else if 63 < rf.toNat + rc.toNat then .fail 0x70 (some op) none
    else match m.operand op with
    | .error c => .fail c (some op) none
    | .ok x =>
      let afmt : BitVec 4 := match m.accTile with
        | some t => seg (m.tiles.get t.toFin).attr 4 4
        | none => 0
      if x.tile.isSome && x.tile == m.accTile then .fail 0x70 (some op) none
      else if afmt ≠ 0 ∧ afmt ≠ 4 then .fail cFormat (some op) none
      else
        s.outRows m x op (outRow (afmt == 4) fmt (RMode.ofCode rnd.toNat) (sat == 1) osh.toInt)
          ((List.range (rc.toNat + 1)).map (fun i => rf.toNat + i)) 0

/-! ## MCALL (R245) -/

/-- MCALL (R245): its sources are the object's register, the permutation registers and the accumulator rows that its routine names,
read together under R40; one whose table entry holds no routine completes at once. -/
def execMcall (idx : BitVec 8) (obj : BitVec 5) (fl : BitVec 3) (s : State) : Out1 :=
  let rt := s.routine idx
  let x : Scan := match rt with
    | some (start, len) => s.scan s.cur.ma start len
    | none => {}
  let accRows := match x.acc with
    | some t => (List.range 64).map (fun i => (t, BitVec.ofNat 6 i))
    | none => []
  let srcs := (if obj = 0 then [] else [Src.s obj false]) ++ x.perms.map Src.p ++ accRows.map (fun y => .row y.1 y.2)
  finish s (s.withSrcs srcs fun _ => s.irrevocable fun s1 =>
    orTrap (s1.objOf obj) fun at? =>
      if s1.core.calls.any (fun m => m.sid == s1.cur.sid) then .hold .blocked
      else
          let c := s1.cur
          let (tag, s2) := s1.newTag
          let s3 := (accRows ++ x.rows).foldl (fun s y => s.mark tag (.row y.1 y.2)) s2
          let m : MCall :=
            { sid := c.sid, tag := tag, idx := idx, fl := fl, obj := if obj = 0 then 0 else s1.rs obj, objAt := at?
              icore := s1.core.core, ma := c.ma
              perms := Vector.ofFn (fun i => (c.pv (BitVec.ofNat 3 i.val)).v)
              tiles := c.t
              accTile := x.acc
              acc := match x.acc with
                | some t => accOf (c.tile t) (fun _ => false)
                | none => Vector.replicate 64 { v := Vector.replicate 64 0, poison := false }
              outs := x.rows.map (fun y => c.outRow y false)
              named := x.tiles
              permsNamed := x.perms
              start := (rt.getD (0, 0)).1
              len := (rt.getD (0, 0)).2
              pre := if rt.isNone then some (0, 0x72, none) else x.err
              due := s1.core.cyc + 1 }
          let m1 := if rt.isNone then { m.report 3 0x72 none none with ended := true, due := s1.core.cyc } else m
          .ok { s3 with core := { s3.core with calls := s3.core.calls ++ [m1] } })

/-! ## The other MATRIX words (R231, R244, R251-R253) -/

/-- MPSET (R244). -/
def execMpset (ma : BitVec 3) (r : BitVec 5) (s : State) : Out1 :=
  finish s (s.withSrcs [.s r false] fun _ => .ok (s.push 2 (.write (.ma ma) ((s.rs r).setWidth 2048) (BitVec.allOnes 256) false)))

/-- MPGET (R244). -/
def execMpget (ma : BitVec 3) (r : BitVec 5) (s : State) : Out1 := finish s (.ok (s.pushS 2 r (s.cur.mav ma)))

/-- Banks of the own scratchpad taken for pieces of memory read whole; none while one of them is occupied (R90). -/
def State.takeBanks (s : State) (l : List (Phys × Nat)) : Option State :=
  let ps := (l.flatMap (fun y => y.1.lineParts y.2)).map Prod.fst
  if ps.any s.bankBusy then none else some (ps.foldl State.engineBank s)

/-- MTSET (R251): a bitmap is read from the own scratchpad before issue: the bundle takes its banks, and is held until they have
delivered it (R90) (notes/assumptions 19: DEDUCED). -/
def execMtset (t : BitVec 4) (r a : BitVec 5) (s : State) : Out1 :=
  finish s (s.withSrcs ([.s r false] ++ (if a = 0 then [] else [.s a false])) fun _ =>
    let v : BitVec 32 := seg (s.rs r) 0 10 |>.setWidth 32
    if !v.getLsbD 9 then .ok (s.push 1 (.attr t v none))
    else if a = 0 then
      .ok (s.push 1 (.attr t v (if (s.cur.tile t).attr.getLsbD 9 then none else some (Vector.replicate 64 (BitVec.allOnes 512)))))
    else
      let ea := s.rs a
      let n := 8 * bmBits (seg v 0 4)
      if ea.toNat % 64 ≠ 0 then .trap ⟨cMisaligned, ea⟩
      else orTrap (s.checkRange s.cur.level s.cur.sc.satp .load ea (max 1 n)) fun l =>
        s.declared false ea fun _ => s.declared false (ea + w64 (n - 1)) fun _ =>
        if l.any (fun y => !s.exposed y.1) then .trap ⟨cTargetType, ea⟩
        else if n = 0 then .ok (s.push 1 (.attr t v (some (Vector.replicate 64 0))))
        else match s.takeBanks l with
          | none => .hold .other
          | some s1 =>
            if s.cur.bmHold then
              .ok ((s.modCur (fun c => { c with bmHold := false })).push 1 (.attr t v (some (bmOfBytes (seg v 0 4) (s.readRange l)))))
            else .wait (s1.modCur (fun c => { c with bmHold := true })) .other)

/-- MTGET (R246, R253). -/
def execMtget (t : BitVec 4) (r : BitVec 5) (s : State) : Out1 :=
  finish s (
    if s.core.calls.any (fun m => m.sid == s.cur.sid && m.accTile == some t) then .hold .blocked
    else
      let q := s.cur.tile t
      .ok (s.pushS 2 r (q.tsw ++ q.attr : BitVec 64)))

/-- MTCLR (R253). -/
def execMtclr (t : BitVec 4) (s : State) : Out1 := finish s (.ok (s.push 1 (.tsw t true 0)))

/-- Whether an element is present (R252). -/
def elemPresent (f : Fmt) (x : Nat) : Bool :=
  match f with
  | .flt g => x % 2 ^ (g.w - 1) != 0
  | .cb2 => (List.range 8).any (fun j => cb2Twice x j != 0)
  | _ => x != 0

/-- MBMAP (R252). -/
def execMbmap (t : BitVec 4) (s : State) : Out1 :=
  let attr := (s.cur.tile t).attr
  let f := fmtOf (seg attr 0 4)
  finish s (s.withRows [] ((List.range 64).map (fun i => (t, BitVec.ofNat 6 i))) fun vs s1 =>
    if f.bits = 0 then .trap ⟨cFormat, 0⟩
    else
      let bm : Vector (BitVec 512) 64 := Vector.ofFn (fun i =>
        let v := vs.getD i.val 0
        ofBits 512 (fun e => decide (e < f.rowLanes) && elemPresent f (v.toNat / 2 ^ (e * f.bits) % 2 ^ f.bits)))
      .ok (s1.push 1 (.attr t (attr ||| 0x200) (some bm))))

/-- MLOADP (R231): every step's address checked before issue; the copy then proceeds by itself. -/
def execMloadp (r a : BitVec 5) (s : State) : Out1 :=
  finish s (s.withSrcs [.s r false, .s a false] fun _ => s.irrevocable fun s1 =>
    let ctl := s1.rs r
    let src := s1.rs a
    if src.toNat % 8 ≠ 0 then .trap ⟨cMisaligned, src⟩
    else
      let count := (seg ctl 12 13).toNat
      orTrap (stepLocs s1 src (List.range count)) fun locs =>
        let (tag, s2) := s1.newTag
        let (due, s3) := s2.dueSoon
        let m : MLoad :=
          { sid := s1.cur.sid, tag := tag, locs := locs, first := (seg ctl 0 12).toNat, count := count, tab := ctl.getLsbD 25
            idx := seg ctl 26 8, due := due }
        .ok (({ s3 with core := { s3.core with mloads := s3.core.mloads ++ [m] } } : State).noteRange s1.cur.sc.satp src (8 * count)))
where
  stepLocs (s : State) (src : Word) : List Nat → Except TrapInfo (List Phys)
    | [] => .ok []
    | i :: t =>
      match s.check .load 8 8 (src + w64 (8 * i)) with
      | .error e => .error e
      | .ok p => match stepLocs s src t with
        | .error e => .error e
        | .ok l => .ok (p :: l)

/-- MFENCEP (R231). -/
def execMfencep (s : State) : Out1 :=
  finish s (s.irrevocable fun s1 => if s1.core.mloads.isEmpty then .ok s1 else .hold .blocked)

/-- A step read for MLOADP at its home. -/
def State.stepAt (s : State) (p : Phys) : Word :=
  match s.served p true false false with
  | some q => if q.tt = 5 then w64 (ofBytes (s.mmioBytes q 8)) else w64 (ofBytes (s.readServed q 8).1)
  | none => w64 (ofBytes (s.freeBytes 8))

/-- The copies are done (R231): a strand suspended on MFENCEP, for which no delivery is outstanding, becomes READY. -/
def State.wakeFenced (s : State) : State :=
  (s.strands.filter (fun x => x.state == .reply && !s.pkg.marks.any (fun m => m.sid == x.id))).foldl
    (fun (s : State) x => s.makeReady x.id) s

/-- MLOADP_COPY (R231): the oldest copy writes its steps and its table entry; steps beyond the store are dropped. -/
def execMloadpCopy (s : State) : Out1 :=
  match s.core.mloads with
  | [] => happen s (.hold .other)
  | m :: rest =>
    if !s.forked m.sid m.tag || m.locs.any (fun p => s.memHeld (s.homeLoc p) 8) then happen s (.hold .other)
    else
      let s0 := (m.locs.filter (fun p => (s.served p true false false).isNone)).foldl (fun s p => s.logAccess p 0) s
      let steps := m.locs.foldl (fun (acc : Nat × Vector Word 4096) p =>
        (acc.1 + 1, if h : acc.1 < 4096 then acc.2.set acc.1 (s.stepAt p) h else acc.2)) (m.first, s.core.steps)
      let entry : BitVec 32 := BitVec.ofNat 32 (m.first + m.count * 2 ^ 12)
      let table := if m.tab then s.core.table.set m.idx.toNat entry m.idx.isLt else s.core.table
      let s1 : State := { s0 with core := { s0.core with mloads := rest, steps := steps.2, table := table } }
      happen s (.ok (if rest.isEmpty then s1.wakeFenced else s1))

/-! ## Start and end of a call (R245, R247, R250) -/

/-- The step at an index of a call's routine. -/
def State.stepWord (s : State) (m : MCall) (i : Nat) : Option Instr := decodeStep (s.core.steps.get (Fin.ofNat 4096 (m.start + i)))

/-- A restored call stages again what it had staged: the windows at their recorded positions, the A row order, then BMAP
and DEC (R250). -/
def State.restage (s : State) (m : MCall) : StepOut :=
  let withB := fun (s : State) (m1 : MCall) =>
    let fin := fun (s : State) (m2 : MCall) =>
      match s.applyBmap { m2 with dec := false } m2.ab m2.bb with
      | .error (c, op, r) => .fail c (some op) r
      | .ok m3 =>
        let b := if m2.dec then m3.b.map (fun (b : Staged) => { b with
            rows := b.rows.map (fun r => (r.map Elem.decode).flatten)
            present := b.present.map (fun r => (r.map (fun x => List.replicate 8 x)).flatten) })
          else m3.b
        .ok s { m3 with b := b, dec := m2.dec, restage := false } 1
    match m1.bAt with
    | none => fin s m1
    | some (st, n, ko) => match s.stepWord m1 st with
      | some (.ldb op rf rc k0 kn) =>
        s.stage m1 op rf.toNat rc.toNat k0.toNat kn.toNat n.toInt ko.toInt fun x s2 => fin s2 { m1 with b := some { x with step := st } }
      | _ => .fail 0x70 none none
  match m.aAt with
  | none => withB s m
  | some (st, n, ko) => match s.stepWord m st with
    | some (.lda op rf rc k0 kn) =>
      s.stage m op rf.toNat rc.toNat k0.toNat kn.toNat n.toInt ko.toInt fun x s1 =>
        withB s1 { m with a := some { x with
          step := st
          rows := m.order.map (fun i => x.rows.getD i [])
          present := m.order.map (fun i => x.present.getD i [])
          poisoned := m.order.map (fun i => x.poisoned.getD i false) } }
    | _ => .fail 0x70 none none

/-- MATRIX_CALL_START (R245, R250): the first queued call starts, once its strand is resident and earlier stores of the
strand are performed (R127). -/
def execMatrixCallStart (s : State) : Out1 :=
  match s.core.calls with
  | [] => happen s (.hold .other)
  | m :: _ =>
    if m.started || (s.ctxOf m.sid).isNone || !s.forked m.sid m.tag then happen s (.hold .other)
    else
      match (if m.restage then s.banksFree.restage m else .ok s.banksFree m 1) with
      | .wait => happen s (.hold .other)
      | .ok s0 m1 n => match s.withBanks s0 with
        | none => happen s (.hold .other)
        | some s1 => .next { s1.setCall { m1 with started := true, due := s.core.cyc + n } with iss := { s1.iss with verdict := .issued } }
      | .fail c op row =>
        .next { s.setCall { m.report 3 c op row with started := true, ended := true } with iss := { s.iss with verdict := .issued } }

/-- The call as it ends now, if it ends now: cancelled or torn down, refused by a check of step 3, past its last step, or at
a word that is no step (R230, R232, R245, R248, R294). -/
def State.callEnd (s : State) (m : MCall) : Option MCall :=
  if m.ended then some m
  else match m.stop with
  | some c =>
    some (if m.started then m.report 4 c none none
      else { m with status := (m.status &&& 0xF0000) ||| w64 (4 + c.toNat * 2 ^ 8) })
  | none =>
    if !m.started then none
    else match m.pre with
    | some (q, c, op) => some (({ m with step := q } : MCall).report 3 c op none)
    | none =>
      if m.len ≤ m.step ∨ (s.stepWord m m.step).isNone then some (m.report 3 0x70 none none) else none

/-- TSW of the accumulator tile, where its strand stands. -/
def State.accTsw (s : State) (m : MCall) : BitVec 32 :=
  match m.accTile with
  | none => 0
  | some t => match s.ctxOf m.sid with
    | some c => (c.tile t).tsw
    | none => match s.strandOf m.sid with
      | none => 0
      | some x => half32At ((s.vread (s.partSatp x.part) (x.img + w64 (1348 + 8 * t.toNat)) 4).getD []) 0

/-- What an ended call delivers (R247): the accumulator rows, the OUT rows that no OUT has written, the status at its
object. -/
def State.callDone (s : State) (m : MCall) : State :=
  let dlv := fun (d : Dest) (v : Row) (poison : Bool) =>
    ({ sid := m.sid, tag := m.tag, dest := d, v := v, sel := BitVec.allOnes 256, poison := poison, due := .wall s.core.cyc, pushes := false } : Dlv)
  let accs := match m.accTile with
    | some t => (List.finRange 64).map (fun i =>
        dlv (.row t (BitVec.ofNat 6 i.val)) (BitVec.ofNat 2048 (packLanes 32 (m.acc.get i).v.toList)) (m.acc.get i).poison)
    | none => []
  let outs := (m.outs.filter (fun o => !o.written)).map (fun o => dlv (.row o.t o.r) o.v false)
  let s0 : State := { s with core := { s.core with calls := s.core.calls.filter (fun x => x.sid != m.sid || x.tag != m.tag) } }
  let s1 := (accs ++ outs).foldl State.arrive s0
  let tsw := seg (s.accTsw m) 0 4
  let status := if m.fl.getLsbD 2 then m.status else m.status ||| (tsw.setWidth 64 <<< 16)
  let s2 := s1.completeAt m.objAt status
  if (s2.strandOf m.sid).any (fun x => x.state == .reply) then s2.makeReady m.sid else s2

/-- The call that ends next, if one does: one that has ended or that a cancel met before its start, else the first (R245, R247,
R294). -/
def State.ending (s : State) : Option MCall :=
  match s.core.calls.find? (fun m => m.ended || (m.stop.isSome && !m.started)) with
  | some m => s.callEnd m
  | none => s.core.calls.head?.bind s.callEnd

/-- MATRIX_CALL_END (R247): a call at its end delivers and completes; its completion is a release at its scope, after the writes
and waits of its strand (R106, R127). -/
def execMatrixCallEnd (s : State) : Out1 :=
  match s.ending with
  | none => happen s (.hold .other)
  | some m =>
    if !s.forked m.sid m.tag || s.releaseWaits m.sid (m.tag + 1) (seg m.fl 0 2) || s.objLeased m.objAt then happen s (.hold .other)
    else .next { s.callDone m with iss := { s.iss with verdict := .issued } }

end Sys2Proof.Machine
end

