-- ==== Sys2Proof/Machine/Sys.lean ====
section
/-! DEFINITION. SYS: the privileged words SRET, PCSRR, PCSRW, TLBINV, TLBSYNC, CTXSAVE, CTXLOAD, STRSTART, STRSTOP, WFI,
HALTC, and the TLB shootdown they start (19 R342-R351, 05 R135, 20 R372, R373). -/

namespace Sys2Proof.Machine

/-! ## Privilege (R346, R387) -/

/-- The word of an instruction as it stands in its bundle, with its chain bit. -/
def State.wordOf (s : State) (i : Instr) : Word :=
  ((encode i).headD 0).setWidth 64 ||| (if s.iss.chain then 0x80000000 else 0)

/-- A SYS word in U raises PRIVILEGE, with the word as trap value; in S it goes on. -/
def State.sys (s : State) (i : Instr) (k : Unit → Res) : Res :=
  match s.cur.level with
  | .u => .trap ⟨cPrivilege, s.wordOf i⟩
  | .s => k ()

/-! ## Asynchronous events (R344, R388) -/

/-- Whether an asynchronous event for S is pending on the current context. -/
def State.asyncPending (s : State) : Bool :=
  !s.core.mchecks.isEmpty || s.core.dlkDue.isSome || !s.core.retriesDue.isEmpty || s.core.preemptDue || s.cur.stepDue
    || (s.cur.quantumSpent && s.cur.sc.sstatus.getLsbD 4)

/-! ## PCSRR and PCSRW (R342) -/

/-- The value a CSR reads as at S (R342). -/
def State.pcsr (s : State) (n : BitVec 10) : Word :=
  let c := s.cur.sc
  match n with
  | 0x100 => c.sstatus
  | 0x101 => c.stvec
  | 0x102 => c.scause
  | 0x103 => c.sepc
  | 0x104 => c.snpc
  | 0x105 => c.snnpc
  | 0x106 => c.stval
  | 0x107 => c.satp
  | 0x108 => c.retrymax
  | 0x109 => c.quantum
  | 0x10A => c.qcnt
  | 0x10B => c.pmask
  | 0x10C => s.core.dbgctl
  | 0x10D => s.core.einj
  | 0x10E => s.core.errlogp
  | 0x10F => c.sscratch
  | 0x110 => c.srec
  | 0x111 => c.simg
  | 0x112 => match s.core.inPart with
    | some p => p.setWidth 64 ||| 0x10
    | none => 0
  | 0x113 => s.core.dlkp
  | 0x114 => s.core.rpln
  | 0x115 => s.core.arrf
  | _ => s.csr n

/-- PCSRR (R342, R346): L = 2. -/
def execPcsrr (d : BitVec 5) (n : BitVec 10) (s : State) : Out1 :=
  finish s (s.sys (.pcsrr d n) fun _ => if s.fflHeld n then .hold .other
    else .ok ((s.csrTraced n).pushS 2 d (if n.toNat < 0x100 then s.csrSeen n else s.pcsr n)))

/-- PCSRW (R342, R346): the write lands at the end of its issue cycle. -/
def execPcsrw (d : BitVec 5) (n : BitVec 10) (s : State) : Out1 :=
  finish s (s.sys (.pcsrw d n) fun _ => s.withSrcs [.s d false] fun _ => .ok (s.push 1 (.csr n (s.rs d))))

/-! ## Shootdown (R135, R348, R372) -/

/-- TLBINV (R348): issues at once; its invalidation follows by itself. -/
def execTlbinv (a b : BitVec 5) (wa wb : BitVec 1) (s : State) : Out1 :=
  finish s (s.sys (.tlbinv a b wa wb) fun _ => s.withSrcs [.s a (wa == 1), .s b (wb == 1)] fun _ =>
    let (tag, s1) := s.newTag
    let (due, s2) := s1.dueSoon
    let x : TlbInv := { sid := s.cur.sid, tag := tag, va := s.rs a, ctl := s.rs b, due := due }
    .ok { s2 with core := { s2.core with tlbinvs := s2.core.tlbinvs ++ [x] } })

/-- Whether a cached translation stays after a TLBINV (R348, modes 0-3). -/
def TlbEntry.kept (t : TlbEntry) (x : TlbInv) : Bool :=
  let glob := t.e.getLsbD 7
  let mine := t.asid == seg x.ctl 0 16
  match (seg x.ctl 18 2).toNat with
  | 0 => !((glob || mine) && (seg x.va 0 56 >>> t.bits) == t.page)
  | 1 => glob || !mine
  | 2 => glob
  | _ => false

/-- Whether a TLBINV may invalidate: its time has come, and every earlier store of its strand is performed at its scope, at pod scope
the modified pooled lines among them (R95, R372). -/
def State.tlbReady (s : State) (x : TlbInv) : Bool :=
  let sc := seg x.ctl 16 2
  decide (x.due ≤ s.core.cyc)
    && !s.pkg.reqs.any (fun q => q.sid == x.sid && decide (q.tag < x.tag) && (q.op.isWrite || q.op.stores) && s.awaited sc q)
    && !(sc == 3 && s.pkg.lines.any (fun x => x.due.isSome))

/-- The TLBINVs whose time has come drop the entries they name. -/
def State.tlbStep (s : State) : State :=
  let now := s.core.tlbinvs.filter s.tlbReady
  { s with core := { s.core with
      tlb := s.core.tlb.filter (fun t => now.all (fun x => t.kept x))
      tlbGone := now.flatMap (fun x => (s.core.tlb.filter (fun t => !t.kept x)).map (fun t => (x.sid, t))) ++ s.core.tlbGone
      tlbinvs := s.core.tlbinvs.filter (fun x => !s.tlbReady x) } }

/-- TLBSYNC (R348): later bundles with an access or a SYS word are held until it completes. -/
def execTlbsync (s : State) : Out1 := finish s (s.sys .tlbsync fun _ => .ok (s.modCur (fun c => { c with tlbHold := true })))

/-- What stands for longer behind a translation: the waits' places, the completion objects of operations and calls, the places of
pushes to come, each with its address space and virtual address (R110, R278, R285). -/
def State.longPlaces (s : State) : List (Word × Word) :=
  s.waiters.flatMap (fun x => (x.wait.toList.filter (fun w => w.on.watches.isSome)).map (fun w => (s.partSatp x.part, w.va)))
    ++ (s.core.ops.filter (fun o => o.obj.isSome)).map (fun o => (o.satp, o.objVa))
    ++ (s.core.calls.filter (fun m => m.objAt.isSome)).map (fun m => (s.partSatp (((s.strandOf m.sid).map Strand.part).getD 0), m.obj))
    ++ [s.cur, s.oth].flatMap (fun c => c.streams.toList.flatMap (fun x => x.locs.map (fun l => (c.sc.satp, l.1))))

/-- Whether a dropped entry has translated an address of an address space. -/
def TlbEntry.gave (t : TlbEntry) (satp va : Word) : Bool :=
  (t.e.getLsbD 7 || t.asid == seg satp 40 16) && (seg va 0 56 >>> t.bits) == t.page

/-- Whether a TLBSYNC of the context has completed: no TLBINV of the strand is under way, no access translated before it is, and
nothing is left to be done at a place that a dropped entry gave (R135). -/
def State.tlbSynced (s : State) : Bool :=
  !s.core.tlbinvs.any (fun x => x.sid == s.cur.sid)
    && !s.pkg.reqs.any (fun q => match q.op with
      | .ack => false
      | _ => true)
    && s.core.mloads.isEmpty
    && !(s.core.tlbGone.filter (fun g => g.1 == s.cur.sid)).any (fun g => s.longPlaces.any (fun p => g.2.gave p.1 p.2))

/-- The TLBSYNC of the context is over. -/
def State.syncDone (s : State) : State :=
  { s.modCur (fun c => { c with tlbHold := false }) with
    core := { s.core with tlbGone := s.core.tlbGone.filter (fun g => g.1 != s.cur.sid) } }

/-! ## SRET, CTXSAVE, CTXLOAD, STRSTOP, HALTC (R347, R349-R351) -/

/-- SRET (R347): the return from S (State.returnS), when its bundle has issued. -/
def execSret (s : State) : Out1 := finishEnd .sret 0 s (s.sys .sret fun _ => .ok s.bundleDone.returnS)

/-- The pages of the image at SIMG, for reading or writing, over its size (R349); a machine check where an uncorrectable error stands
in a part to be restored (R396). -/
def State.imagePages (s : State) (k : Acc) : Except TrapInfo Unit :=
  let img := s.cur.sc.simg
  let size := if k.writes then s.imageSize s.cur s.cur.snap
    else max 6144 (ofBytes (((s.vread s.cur.sc.satp img 8).getD []).drop 4))
  match s.checkRange .s s.cur.sc.satp k img (min size 0x58000) with
  | .error t => .error t
  | .ok l => if !k.writes && l.any (fun x => s.badAt x.1 x.2) then .error ⟨cMachineCheck, img⟩ else .ok ()

/-- The rest of a save by the supervisor, which waits until the pushed rows of the strand are performed (R111). -/
def State.pushesDone (s : State) (k : Unit → Res) : Res :=
  if s.pkg.reqs.any (fun q => q.sid == s.cur.sid && q.push.isSome && q.op.isWrite) then .hold .other else k ()

/-- CTXSAVE (R349): TARGET_TYPE without a strand; a fault on the image's pages is raised before anything is written. -/
def execCtxsave (s : State) : Out1 :=
  finish s (s.sys .ctxsave fun _ =>
    if s.cur.sc.srec = 0 then .trap ⟨cTargetType, 0⟩
    else orTrap (s.imagePages .store) fun _ => s.pushesDone fun _ => .ok s.ctxSave)

/-- CTXLOAD (R349): what it restores is in place when its bundle has issued. -/
def execCtxload (s : State) : Out1 :=
  finishEnd .ctxload 0 s (s.sys .ctxload fun _ =>
    if s.cur.sc.srec = 0 then .trap ⟨cTargetType, 0⟩
    else orTrap (s.imagePages .load) fun _ => .ok s.bundleDone.ctxLoad)

/-- The image pages that a STRSTOP still has to write, if it must save first: the CTXSAVE it then performs raises TARGET_TYPE where
SREC = 0 (R349, R350). -/
def State.stopPages (s : State) : Except TrapInfo Unit :=
  if s.cur.saved then .ok () else if s.cur.sc.srec = 0 then .error ⟨cTargetType, 0⟩ else s.imagePages .store

/-- STRSTOP (R350): the trapped strand leaves the context, READY when s[a][3:0] = 1, else PARKED. -/
def execStrstop (a : BitVec 5) (wa : BitVec 1) (s : State) : Out1 :=
  finishEnd (.strstop a wa) (s.endSrc a) s (s.sys (.strstop a wa) fun _ => s.withEndSrc a (wa == 1) fun v =>
    orTrap s.stopPages fun _ => s.pushesDone fun _ => .ok (s.bundleDone.strStop (seg v 0 4 == 1)))

/-- HALTC (R351): the strand READY, the other resident saved, the core out of its partition. -/
def execHaltc (s : State) : Out1 :=
  finishEnd .haltc 0 s (s.sys .haltc fun _ =>
    orTrap (if s.cur.strand.isSome then s.stopPages else .ok ()) fun _ => s.pushesDone fun _ => .ok s.bundleDone.haltCore)

/-! ## STRSTART, WFI (R351) -/

/-- The strand whose record lies at an address, in the partition and launch of the context. -/
def State.startable (s : State) (a : Word) : Option Strand :=
  let part := (s.cur.strand.map Strand.part).getD (s.core.inPart.getD 0)
  s.strands.find? (fun x => x.recAddr == a && x.part == part && s.cur.strand.all (fun y => y.lnch == x.lnch)
    && x.state != .exited)

/-- The state a STRSTART goes by: of a resident strand its own, else the record's (R351, R397). -/
def State.startState (s : State) (x : Strand) (b : List Byte) : StState :=
  if s.resident x.id then x.state else StState.ofCode (seg (wordAt b 40) 0 4).toNat

/-- What a STRSTART answers of a record that no strand of the launch has: of a strand of the partition in another launch 2; of one that
no live strand has, as of an EXITED one, 1, or 2 where it reads PARKED (R351; notes/assumptions 43: DEDUCED). -/
def State.notStarted (s : State) (a : Word) (b : List Byte) : Word :=
  let part := (s.cur.strand.map Strand.part).getD (s.core.inPart.getD 0)
  if s.strands.any (fun x => x.recAddr == a && x.part == part && x.state != .exited) then 2
  else if StState.ofCode (seg (wordAt b 40) 0 4).toNat = .parked then 2 else 1

/-- Whether a wait is a SUSP's. -/
def Wait.isSusp (w : Wait) : Bool :=
  match w.on with
  | .susp _ _ => true
  | _ => false

/-- A wait that STRSTART ends without a change: a SUSP is over, the other waits are asked anew (R182, R351). -/
def Strand.restarted (x : Strand) : Strand :=
  match x.wait with
  | none => x
  | some w => match w.on with
    | .susp _ _ | .oldest | .freeId | .version => { x with wait := none }
    | _ => { x with wait := some { w with asked := false, hit := false } }

/-- A strand is started: a FAULTED task whose record the supervisor has reset runs again from its spawn state (R397). A SUSP with
acquire meaning acquires, by its read on waking (R182). -/
def State.startStrand (s : State) (x : Strand) (b : List Byte) : State :=
  let w := wordAt b 40
  if x.state == .faulted then
    (s.modStrand x.id (fun y => { y with retry := seg w 8 4, dfp := w.getLsbD 19, state := .parked })).requeueTask x.id
  else
    let s1 := match x.wait.filter (fun w => w.isSusp && w.acq) with
      | some w => s.acquired w.sc
      | none => s
    (s1.modStrand x.id Strand.restarted).makeReady x.id

/-- STRSTART (R351): d is a long result (notes/assumptions 43: DEDUCED), POISONED where the record is read poisoned or refused
(notes/assumptions 72: DESIGN CHOICE). -/
def execStrstart (d a : BitVec 5) (wa : BitVec 1) (s : State) : Out1 :=
  finish s (s.sys (.strstart d a wa) fun _ => s.withSrcs [.s a (wa == 1)] fun _ =>
    s.readNow 64 64 (s.rs a) fun b bad s1 =>
      if bad then .ok (s1.longPoison d)
      else match s1.startable (s.rs a) with
      | none => .ok (s1.longResult d (s1.notStarted (s.rs a) b))
      | some x =>
        if s1.startState x b = .parked then .ok ((s1.longResult d 0).startStrand x b)
        else .ok (s1.longResult d 1))

/-- What WFI waits for (R351). -/
def State.wfiDone (s : State) : Bool :=
  s.asyncPending || !s.core.arrivals.isEmpty
    || s.pkg.strands.any (fun x => s.queued { x with place := if x.place == .dieQ s.die then .cluQ s.cluster else x.place }
      && (x.handler || s.cur.sc.pmask.getLsbD x.qLevel))

/-- WFI (R351). -/
def execWfi (s : State) : Out1 :=
  finish s (s.sys .wfi fun _ => if s.wfiDone then .ok s else .hold .other)

end Sys2Proof.Machine
end

