-- ==== Sys2Proof/Machine/Firmware.lean ====
section
/-! DEFINITION. The firmware of the command cores: the HDM window and the command area, the commands, launches from packet
to end, teardown, queries, single steps and breaks, partitions and the supervisor image (01 R17-R23; 06 R157; 10 R230; 19
R356-R366, R422, R423; 20 R380, R383, R384; 21 R400, R401; 23 R408, R413, R416, R417). -/

namespace Sys2Proof.Machine

/-! ## The HDM window (R383) -/

/-- The location of a window offset in the carve-outs, in their order. -/
def windowIn : List (BitVec 3 × Nat × Nat) → Nat → Option Phys
  | [], _ => none
  | (d, o, n) :: t, off =>
    if off < n then some { tt := 1, pa := BitVec.ofNat 52 (d.toNat * 2 ^ 30 + o + off), c := true } else windowIn t (off - n)

/-- The location of a window offset. -/
def State.windowAt (s : State) (off : Nat) : Option Phys := windowIn s.pkg.carve off

/-- The size of the window in bytes. -/
def State.windowSize (s : State) : Nat := s.pkg.carve.foldl (fun a x => a + x.2.2) 0

/-- The pieces of a window range at 4 KiB pages. -/
def winPieces : Nat → Nat → Nat → List (Nat × Nat)
  | 0, _, _ => []
  | fuel + 1, off, n =>
    if n = 0 then []
    else
      let m := min n (4096 - off % 4096)
      (off, m) :: winPieces fuel (off + m) (n - m)

/-- Bytes of the window, if the whole range lies in it (notes/assumptions 25: DEDUCED). -/
def State.winRead (s : State) (off n : Nat) : Option (List Byte) :=
  if s.windowSize < off + n then none
  else some ((winPieces (n / 4096 + 2) off n).map (fun x => match s.windowAt x.1 with
    | some p => s.readAt p x.2
    | none => List.replicate x.2 0)).flatten

/-- Write the pieces of a window range. -/
def State.winPut (s : State) : List (Nat × Nat) → List Byte → State
  | [], _ => s
  | (o, m) :: t, bs => match s.windowAt o with
    | some p => State.winPut (s.writeAt p (bs.take m)) t (bs.drop m)
    | none => State.winPut s t (bs.drop m)

/-- Write bytes of the window, if the whole range lies in it. -/
def State.winWrite (s : State) (off : Nat) (bs : List Byte) : State :=
  if s.windowSize < off + bs.length then s else s.winPut (winPieces (bs.length / 4096 + 2) off bs.length) bs

/-- Whether the pages of a window range are in host bias. -/
def State.hostBias (s : State) (off n : Nat) : Bool :=
  decide (off + n ≤ s.windowSize) && (winPieces (n / 4096 + 2) off n).all (fun x => !s.pkg.devBias.elem (x.1 / 4096))

/-- Whether a line of the window, by its number, is served under the host-bias rule: while its page goes to device bias, until it has been
snooped (R384). -/
def State.hostRule (s : State) (l : Nat) : Bool :=
  !s.pkg.devBias.elem (l / 64) && !s.pkg.bias.any (fun j => !j.toHost && j.page == l / 64 && decide (l % 64 < j.line))

/-- Whether a host access to a line of the window is held: while its page goes to host bias, until it has been recalled (R384). -/
def State.hostHeld (s : State) (l : Nat) : Bool := s.pkg.bias.any (fun j => j.toHost && j.page == l / 64 && decide (j.line ≤ l % 64))

/-! ## The command area (R360, R363) -/

/-- The window offset of a slot. -/
def slotOff (n : Nat) : Nat := 0x1000 + 128 * n

/-- An operand word of a slot. -/
def arg (b : List Byte) (i : Nat) : Word := wordAt b (24 + 8 * i)

/-- The op of a slot, and whether it is handed to firmware. -/
def slotOp (b : List Byte) : Nat := (seg (wordAt b 0) 8 8).toNat
def slotOwned (b : List Byte) : Bool := (wordAt b 0).getLsbD 0

/-- A slot whose command firmware has taken and not completed. -/
def State.taken (s : State) (n : Nat) : Bool :=
  s.pkg.launches.any (fun l => l.slot.any (fun x => x.toNat == n)) || s.pkg.dbg.any (fun d => d.slot.toNat == n)
    || s.pkg.parts.any (fun p => p.pslot.any (fun x => x.toNat == n)) || s.pkg.bias.any (fun j => j.slot.toNat == n)

/-- A packet as firmware finds it: under the first partition in whose address space it can be read and that it names, else
under the first in which it can be read (notes/assumptions 24: DEDUCED). -/
def State.packetAt (s : State) (a : Word) : Option (Word × List Byte) :=
  let all := s.pkg.parts.filterMap (fun p => (s.vread p.satp a 256).map (fun b => (p, b)))
  match all.find? (fun x => seg (wordAt x.2 8) 4 4 == x.1.n) with
  | some (p, b) => some (p.satp, b)
  | none => all.head?.map (fun x => (x.1.satp, x.2))

/-- The partition a command names, if any. -/
def State.cmdPart (s : State) (b : List Byte) : Option (BitVec 4) :=
  match slotOp b with
  | 1 | 9 | 10 => (s.packetAt (arg b 0)).map (fun x => seg (wordAt x.2 8) 4 4)
  | 2 | 3 | 4 | 5 | 8 | 11 => some (seg (arg b 0) 0 4)
  | 6 => some (seg (arg b 0) 8 4)
  | 7 => some (seg (arg b 0) 60 4)
  | _ => none

/-- The slots handed to firmware and not yet taken. -/
def State.waitingCmds (s : State) : List (Nat × List Byte) :=
  (List.range 64).filterMap (fun n => match s.winRead (slotOff n) 128 with
    | some b => if slotOwned b && !s.taken n then some (n, b) else none
    | none => none)

/-- Order of sequence numbers by the half-range rule (R363). -/
def seqBefore (a b : BitVec 16) : Bool :=
  let d := (b - a).toNat
  decide (1 ≤ d) && decide (d < 2 ^ 15)

/-- Whether a command of the same partition comes first (R363). -/
def State.cmdFirst (s : State) (n : Nat) (b : List Byte) : Bool :=
  match s.cmdPart b with
  | none => true
  | some p => !s.waitingCmds.any (fun x => x.1 != n && s.cmdPart x.2 == some p
      && seqBefore (seg (wordAt x.2 0) 16 16) (seg (wordAt b 0) 16 16))

/-- The 128 bytes of the slot the event names, if its command may be taken now: bring-up is over, the slot is handed over
with this op, and no earlier command of its partition waits. -/
def State.cmd (s : State) (op : Nat → Bool) : Option (BitVec 6 × List Byte) :=
  if s.pkg.bringUp < 7 ∨ 64 ≤ s.ev.n then none
  else match s.winRead (slotOff s.ev.n) 128 with
    | none => none
    | some b =>
      if slotOwned b && op (slotOp b) && !s.taken s.ev.n && s.cmdFirst s.ev.n b then some (BitVec.ofNat 6 s.ev.n, b) else none

/-- A command is done (R360): its effects are performed at pod scope, so that modified pooled lines go home (R95); then results and
st, the host record, own cleared, the interrupt. -/
def State.complete (s0 : State) (slot : BitVec 6) (st : Nat) (res : List Word) : State :=
  let s := s0.writeBackAll (fun _ => true)
  let base := slotOff slot.toNat
  match s.winRead base 128 with
  | none => s
  | some b =>
    let w0 := wordAt b 0
    let haddr := wordAt b 8
    let w16 := wordAt b 16
    let s1 := s.winWrite (base + 64) (res.map (fun w => leBytes 8 w.toNat)).flatten
    let s2 := s1.winWrite (base + 4) (leBytes 2 st)
    let r24 := (s2.winRead (base + 64) 24).getD []
    let note := leBytes 2 (seg w0 16 16).toNat ++ leBytes 2 (seg w0 8 8).toNat ++ leBytes 4 st ++ r24
    let s3 := if haddr = 0 then s2 else s2.writeAt { tt := 3, pa := haddr.setWidth 52 } note
    let s4 := s3.winWrite base (leBytes 1 ((wordAt b 0) &&& 0xFE).toNat)
    if w16.getLsbD 15 then s4.emit (.msix (seg w16 0 11)) else s4

/-! ## Partitions (R340) -/

/-- The cores of a partition on the device. -/
def State.cores (s : State) (n : BitVec 4) : BitVec 1024 :=
  match s.part n with
  | some p => p.cores
  | none => 0

/-- Change a partition. -/
def State.modPart (s : State) (n : BitVec 4) (f : Part → Part) : State :=
  { s with pkg := { s.pkg with parts := s.pkg.parts.map (fun p => if p.n = n then f p else p) } }

/-- The dies that hold cores of a partition, ascending. -/
def diesOf (cores : BitVec 1024) : List Nat :=
  (List.range 8).filter (fun d => (List.range 128).any (fun i => cores.getLsbD (128 * d + i)))

/-- The clusters of a die that hold cores of a partition. -/
def clustersOf (cores : BitVec 1024) (die : Nat) : List Nat :=
  ((List.range 16).map (fun i => 16 * die + i)).filter (fun c => (List.range 8).any (fun i => cores.getLsbD (8 * c + i)))

/-- READY entries of a cluster. -/
def State.readyIn (s : State) (c : Nat) : Nat :=
  (s.pkg.strands.filter (fun x => x.state == .ready && x.place == .cluQ (BitVec.ofNat 7 c))).length

/-! ## Checks of a launch (R358) -/

/-- A reason to refuse a launch: its cause and the value for [63:32]. -/
structure Refuse where
  cause : BitVec 8
  value : Nat
  deriving DecidableEq, Repr

/-- The status word of class 4 (R23). -/
def Refuse.word (r : Refuse) : Word := w64 (4 + r.cause.toNat * 2 ^ 8 + r.value % 2 ^ 32 * 2 ^ 32)

/-- PACKET, at a field of the packet or of the header. -/
def badPacket (off : Nat) (hdr : Bool) : Refuse := ⟨0x67, off + (if hdr then 2 ^ 31 else 0)⟩

/-- The tables of a launch, read. -/
structure Tables where
  sections : List Section
  foreign : List Word
  groups : List (List Word)
  pattern : List (Nat × Word)
  ptab : List (BitVec 32)
  roots : List (Word × Word × Nat)

/-- The 64-bit words of a list of bytes. -/
def wordsOf (b : List Byte) (n : Nat) : List Word := (List.range n).map (fun i => wordAt b (8 * i))

/-- A table of `n` bytes, or the refusal that its address does not translate; one without an address is empty. -/
def State.tableAt (s : State) (satp a : Word) (n : Nat) (r : Refuse) : Except Refuse (List Byte) :=
  if n = 0 then .ok [] else match s.vread satp a n with
    | some b => .ok b
    | none => .error r

/-- The launch completion object, where an arrival on it is allowed (R423). -/
def State.cobjAt (s : State) (satp cobj : Word) : Option Phys :=
  if cobj = 0 then none else match s.checkAddr .s satp .atomic 32 32 cobj with
    | .error _ => none
    | .ok p => if decide (p.tt = 3) && !p.c then none else some p

/-- Whether a root's record lies where it can be read: 64 bytes, of a task 128 (R356). -/
def State.recordThere (s : State) (satp a : Word) : Bool :=
  match s.vread satp a 64 with
  | none => false
  | some b => !(recView b).w5.getLsbD 16 || (s.vread satp a 128).isSome

/-- The checks of cause PACKET, with the header and every table (R358): of several the first in the order of this definition is
reported (notes/assumptions 77: DESIGN CHOICE). The completion object is the receiving device's. -/
def State.checkPacket (s : State) (satp a : Word) (b : List Byte) (receiver : Bool) : Except Refuse (List Byte × Tables) :=
  let kernel := wordAt b 0
  let nroot := (seg (wordAt b 8) 32 32).toNat
  if a.toNat % 64 ≠ 0 ∨ kernel.toNat % 64 ≠ 0 then .error (badPacket 0 false)
  else match s.vread satp kernel 64 with
    | none => .error (badPacket 0 false)
    | some h =>
      let npat := (seg (wordAt h 40) 0 13).toNat
      let nsec := (seg (wordAt h 8) 8 4).toNat
      let nfor := (seg (wordAt h 8) 16 9).toNat
      if seg (wordAt h 0) 0 32 ≠ 0x4B42414E ∨ seg (wordAt h 0) 32 16 ≠ 1 then .error (badPacket 0 true)
      else if nroot = 0 ∨ 65536 < nroot then .error (badPacket 8 false)
      else if 4096 < npat then .error (badPacket 40 true)
      else if seg (wordAt b 8) 2 2 ≠ 0 ∨ seg (wordAt b 8) 11 21 ≠ 0 then .error (badPacket 8 false)
      else do
        let g ← s.tableAt satp (wordAt b 16) (if wordAt b 16 = 0 then 0 else 8192) (badPacket 16 false)
        let r ← s.tableAt satp (wordAt b 24) (32 * nroot) (badPacket 24 false)
        let _ ← s.tableAt satp (wordAt b 32) (if wordAt b 32 = 0 then 0 else 1) (badPacket 32 false)
        let _ ← if receiver && (s.cobjAt satp (wordAt b 56)).isNone then Except.error (badPacket 56 false) else .ok ()
        let sc ← s.tableAt satp (wordAt h 16) (16 * min nsec 8) (badPacket 16 true)
        let fo ← s.tableAt satp (wordAt h 24) (8 * min nfor 256) (badPacket 24 true)
        let pa ← s.tableAt satp (wordAt h 32) (8 * npat) (badPacket 32 true)
        let pt ← s.tableAt satp (wordAt h 48) (if npat = 0 then 0 else 1024) (badPacket 48 true)
        let all := (List.range nroot).map (fun i => (wordAt r (32 * i), wordAt r (32 * i + 8), seg (wordAt r (32 * i + 16)) 0 17, i))
        let mine := all.filter (fun x => x.2.2.1 == s.core.device)
        if mine.any (fun x => !s.recordThere satp x.1) then .error (badPacket 24 false)
        else
          .ok (h,
            { sections := (List.range nsec).map (fun i =>
                { base := wordAt sc (16 * i), len := (seg (wordAt sc (16 * i + 8)) 0 48).toNat, ver := seg (wordAt sc (16 * i + 8)) 48 2 })
              foreign := wordsOf fo nfor
              groups := if g.isEmpty then [] else (List.range 256).map (fun i => (List.range 4).map (fun j => wordAt g (32 * i + 8 * j)))
              pattern := (List.range npat).map (fun i => (i, wordAt pa (8 * i)))
              ptab := if npat = 0 then [] else (List.range 256).map (fun i => half32At pt (4 * i))
              roots := mine.map (fun x => (x.1, x.2.1, x.2.2.2)) })

/-- SPAN (R23, R358): the receiving device outside the span, a device not in the pod or lost, this device without cores in
the partition; of several such devices the lowest number is reported (notes/assumptions 77: DESIGN CHOICE). -/
def State.checkSpan (s : State) (b : List Byte) : Option Refuse :=
  let d0 := (seg (wordAt b 40) 0 17).toNat
  let d1 := (seg (wordAt b 40) 17 17).toNat
  let own := s.core.device.toNat
  let bad := fun (d : Nat) => podOf (BitVec.ofNat 17 d) != podOf s.core.device || s.pkg.lost.elem (BitVec.ofNat 17 d)
    || (d == own && s.cores (seg (wordAt b 8) 4 4) == 0)
  if own < d0 ∨ d1 < own then some ⟨0x62, own⟩
  else match ((List.range (min 65 (d1 + 1 - d0))).map (d0 + ·)).find? bad with
    | some d => some ⟨0x62, d⟩
    | none => none

/-- CODE_TABLE (R157, R358): counts, then sections that overlap, of which the later is the offending one (notes/assumptions 77: DESIGN
CHOICE). One of length 0 whose base lies inside another overlaps it (notes/assumptions 88: DESIGN CHOICE). -/
def checkSections (h : List Byte) (l : List Section) : Option Refuse :=
  let nsec := (seg (wordAt h 8) 8 4).toNat
  let nfor := (seg (wordAt h 8) 16 9).toNat
  if nsec = 0 then some ⟨0x66, 0⟩
  else if 8 < nsec then some ⟨0x66, 8⟩
  else if 256 < nfor then some ⟨0x66, 256⟩
  else match (List.range nsec).find? (fun i => (l.take i).any (fun x =>
      (l[i]?).any (fun y => decide (x.base.toNat < y.base.toNat + y.len) && decide (y.base.toNat < x.base.toNat + x.len)))) with
    | some i => some ⟨0x66, i⟩
    | none => none

/-- GROUP_RANGE and GROUP_LIMIT (R19, R23): the first violation in ascending entry order, of several cores that an entry puts over
the limit the one of the lowest rank (notes/assumptions 77: DESIGN CHOICE); `seen` counts the groups of the cores named so far. -/
def checkGroups (d0 d1 : Nat) : Nat → List (Nat × Nat) → List (List Word) → Option Refuse
  | _, _, [] => none
  | g, seen, terms :: t =>
    let bad := (terms.filter (fun w => w.getLsbD 63)).any (fun w =>
      decide ((seg w 17 17).toNat < (seg w 0 17).toNat) || decide ((seg w 44 10).toNat < (seg w 34 10).toNat)
        || decide ((seg w 0 17).toNat < d0) || decide (d1 < (seg w 17 17).toNat))
    if bad then some ⟨0x60, g⟩
    else
      let m := members terms
      match m.find? (fun x => decide (4 ≤ (seen.filter (fun y => y == x)).length)) with
      | some (d, c) => some ⟨0x61, c + d * 2 ^ 10⟩
      | none => checkGroups d0 d1 (g + 1) (m ++ seen) t

/-- IMAGE_FORMAT (R57): format 3, no streams, no matrix area, every page of the template readable. -/
def State.checkTemplates (s : State) (satp : Word) (roots : List (Word × Word × Nat)) : Option Refuse :=
  match roots.find? (fun (x : Word × Word × Nat) => x.2.1 != (0 : Word) && (match s.vread satp x.2.1 6144 with
    | none => true
    | some b => seg (wordAt b 0) 0 16 != 3 || seg (wordAt b 8) 16 5 != 0 || (match s.checkRange .s satp .load x.2.1 (templateSize b) with
      | .ok _ => false
      | .error _ => true))) with
  | some x => some ⟨0x65, x.2.2⟩
  | none => none

/-- The checks of a launch in their order (R358). -/
def State.checkLaunch (s : State) (satp a : Word) (b : List Byte) (receiver : Bool) : Except Refuse Tables :=
  match s.checkPacket satp a b receiver with
  | .error r => .error r
  | .ok (h, t) =>
    let hv := seg (wordAt h 8) 0 2
    let v := seg (wordAt b 8) 0 2
    let lnch := seg (wordAt b 48) 32 32
    let d0 := (seg (wordAt b 40) 0 17).toNat
    let d1 := (seg (wordAt b 40) 17 17).toNat
    if v ≠ hv ∨ v = 0 ∨ hv = 0 then .error ⟨0x68, hv.toNat⟩
    else match s.checkSpan b with
      | some r => .error r
      | none =>
        if s.pkg.launches.any (fun l => l.lnch == lnch && l.part == seg (wordAt b 8) 4 4) then .error ⟨0x69, lnch.toNat⟩
        else match checkSections h t.sections with
          | some r => .error r
          | none => match checkGroups d0 d1 0 [] t.groups with
            | some r => .error r
            | none => match s.checkTemplates satp t.roots with
              | some r => .error r
              | none => .ok t

/-! ## Roots (R21, R352) -/

/-- A root strand or task of a launch: its record's fields as given but for the state and suspension fields (R9), its version the
kernel header's (R155, R357) (notes/assumptions 26: DESIGN CHOICE). -/
def State.rootStrand (s : State) (l : Launch) (r : Word × Word × Nat) : Strand :=
  let b := (s.vread (s.partSatp l.part) r.1 128).getD ((s.vread (s.partSatp l.part) r.1 64).getD [])
  let v := recView (b.take 64)
  let isTask := v.w5.getLsbD 16
  let ord := isTask && v.w5.getLsbD 17
  let mask := fun (o : Nat) => if isTask then BitVec.ofNat 256 (ofBytes ((b.drop o).take 32)) else (0 : Mask)
  { id := (~~~s.core.device) ++ BitVec.ofNat 23 s.pkg.arrNo
    recAddr := r.1
    img := v.img
    lnch := l.lnch
    part := l.part
    ver := l.ver
    prio := l.prio
    root := true
    parCore := seg v.w4 40 10
    parSeq := seg v.w4 50 13
    state := .ready
    why := 0
    retry := seg v.w5 8 4
    dfp := v.w5.getLsbD 19
    dcause := seg v.w5 24 8
    stepping := v.w5.getLsbD 18
    isTask := isTask
    ord := ord
    ts := if ord then v.ts else 0
    rset := v.rset
    wset := v.wset
    waitMask := mask 64
    setMask := mask 96
    hasId := false
    fill := .template r.2.1 l.param
    pc := v.pc
    npc := v.npc
    nnpc := v.nnpc
    level := l.prio
    since := s.core.cyc
    arr := s.pkg.arrNo
    task := if ord then some
        { ts := v.ts
          tb := [r.2.2]
          root := some (r.2.1, l.param)
          spawn :=
            { pc := v.pc
              npcOff := wordOff v.npc v.pc
              nnpcOff := wordOff v.nnpc v.pc
              s1 := 0
              s2 := 0
              s3 := 0
              s28 := l.param
              rm := 0 } }
      else none }

/-- The `j`-th root of the device is queued: a strand in its die's queue, a task in the cluster with the fewest READY
entries (R352), NEW until that cluster's event bits meet its wait mask (R303). -/
def State.queueRoot (s : State) (l : Launch) (j : Nat) (r : Word × Word × Nat) : State :=
  let x := s.rootStrand l r
  let cores := s.cores l.part
  let dies := diesOf cores
  let die := dies.getD (j % max 1 dies.length) 0
  let clu := minBy (fun a b => decide (s.readyIn a < s.readyIn b) || (s.readyIn a == s.readyIn b && decide (a < b))) (clustersOf cores die)
  let place : Place := if x.isTask then .cluQ (BitVec.ofNat 7 (clu.getD 0)) else .dieQ (BitVec.ofNat 3 die)
  let x0 : Strand := { x with place := place }
  let x1 : Strand := { x0 with state := if x0.isTask && !s.waitMet x0 then .new else .ready }
  let s1 := s.writeRecord x1 x1.pc x1.npc x1.nnpc 0
  { s1 with pkg := { s1.pkg with strands := s1.pkg.strands ++ [x1], arrNo := s1.pkg.arrNo + 1 } }

/-- Change a launch. -/
def State.modLaunch (s : State) (lnch : BitVec 32) (part : BitVec 4) (f : Launch → Launch) : State :=
  { s with pkg := { s.pkg with launches := s.pkg.launches.map (fun l => if l.lnch = lnch ∧ l.part = part then f l else l) } }

/-- The event bits of the partition's clusters are all 0 when a launch starts (R281) (notes/assumptions 51: DEDUCED). -/
def State.freshEvents (s : State) (l : Launch) : State :=
  if (s.cores l.part).getLsbD s.core.core.toNat then { s with pkg := { s.pkg with events := 0 } } else s

/-- Every root of a launch is queued; the launch is live, and the seam of its domain stands at its oldest root (R314)
(notes/assumptions 76: DEDUCED). -/
def State.queueRoots (s : State) (l : Launch) : State :=
  let s1 := (l.roots.zip (List.range l.roots.length)).foldl (fun (s : State) x => s.queueRoot l x.2 x.1) (s.freshEvents l)
  (s1.modLaunch l.lnch l.part (fun y => { y with phase := .live })).moveSeam (l.part ++ l.lnch)

/-- Whether the start barrier of a launch is complete: every device of the span has entered (R22). -/
def Launch.allIn (l : Launch) : Bool :=
  (List.range (l.devLast.toNat + 1 - l.devFirst.toNat)).all (fun i => l.entered.any (fun x => x.1 == l.devFirst + BitVec.ofNat 17 i))

/-- A launch by the word that names it to its events: its partition with its id. -/
def Launch.word (l : Launch) : Word := (l.part ++ l.lnch).setWidth 64

/-- The devices of a launch's span. -/
def Launch.span (l : Launch) : List (BitVec 17) :=
  (List.range (l.devLast.toNat + 1 - l.devFirst.toNat)).map (fun i => l.devFirst + BitVec.ofNat 17 i)

/-- A management message to the other devices of a launch's span (R22, R365, R408). -/
def State.manageOthers (s : State) (l : Launch) (m : Manage) : State :=
  (l.span.filter (fun d => d != s.core.device)).foldl (fun (s : State) d => s.manage d m) s

/-- The pattern store of the core is loaded (R230). -/
def State.loadPattern (s : State) (l : Launch) : State :=
  if l.pattern.isEmpty || s.core.inPart != some l.part then s
  else
    { s with core := { s.core with
      steps := l.pattern.foldl (fun v x => v.set! x.1 x.2) s.core.steps
      table := Vector.ofFn (fun i => l.ptab.getD i.val 0) } }

/-- This device enters the start barrier of a launch, and tells the others its generation number and incarnation (R22, R408). -/
def State.enterBarrier (s : State) (l : Launch) : State :=
  let s1 := s.modLaunch l.lnch l.part (fun y =>
    { y with phase := .barrier, holdsPat := !y.pattern.isEmpty, entered := (s.core.device, s.pkg.inc) :: y.entered })
  s1.manageOthers l (.entered (l.part ++ l.lnch) l.gen s.pkg.inc)

/-- A checked launch goes on as far as it can: past the launches that hold the pattern stores, past the start barrier, which it
enters with its pattern stores loaded. -/
def State.advance (s : State) (l : Launch) : State :=
  let held := l.phase == .waiting && !l.pattern.isEmpty
    && s.pkg.launches.any (fun y => y.part == l.part && y.lnch != l.lnch && y.holdsPat)
  if held then s
  else
    let s1 := if l.phase == .waiting then (s.loadPattern l).enterBarrier l else s
    match s1.pkg.launches.find? (fun y => y.lnch == l.lnch && y.part == l.part) with
    | some y => if y.phase == .barrier && y.allIn then s1.queueRoots y else s1
    | none => s1

/-- Launches that waited for the pattern stores go on. -/
def State.advanceAll (s : State) : State := s.pkg.launches.foldl State.advance s

/-- The launch that a checked packet makes. -/
def State.launchOf (s : State) (satp a : Word) (b : List Byte) (t : Tables) (slot : Option (BitVec 6)) (receiver : BitVec 17) : Launch :=
  { lnch := seg (wordAt b 48) 32 32
    part := seg (wordAt b 8) 4 4
    ver := seg (wordAt b 8) 0 2
    gen := seg (wordAt b 48) 0 32
    devFirst := seg (wordAt b 40) 0 17
    devLast := seg (wordAt b 40) 17 17
    receiver := receiver
    packet := a
    param := wordAt b 32
    prio := seg (wordAt b 8) 8 2
    cobj := s.cobjAt satp (wordAt b 56)
    slot := slot
    sections := t.sections
    foreign := t.foreign
    groups := t.groups
    pattern := t.pattern
    ptab := t.ptab
    holdsPat := false
    roots := t.roots
    phase := .waiting
    entered := []
    ended := []
    since := s.ptime.toNat
    record := if (wordAt b 8).getLsbD 10 then some (0, 0) else none }

/-- A launch is admitted: its entry is made; the receiving device sends the packet on to the other devices of the span, and it goes on
(R22). -/
def State.enroll (s : State) (l : Launch) (packet : List Byte) : State :=
  let s1 : State := { s with pkg := { s.pkg with launches := s.pkg.launches ++ [l] } }
  (if l.receiver = s.core.device then s1.manageOthers l (.replica packet) else s1).advance l

/-- A launch that could not start reports (R23, R423): through its object, or by st 2 where the object cannot be used. -/
def State.refuseLaunch (s : State) (slot : BitVec 6) (lnch : Word) (cobj : Option Phys) (r : Refuse) : State :=
  match cobj with
  | some p => (s.completeAt (some p) r.word).complete slot 0 [lnch, r.word]
  | none => s.complete slot 2 [lnch, r.word]

/-- LAUNCH, RECORD and REPLAY start a launch from the packet of a slot (R356-R358, R416, R417). -/
def State.startLaunch (s : State) (slot : BitVec 6) (b : List Byte) (f : Launch → Launch) : State :=
  let a := arg b 0
  match s.packetAt a with
  | none => s.complete slot 2 [0, (badPacket 0 false).word]
  | some (satp, pk) =>
    let lnch := (seg (wordAt pk 48) 32 32).setWidth 64
    match s.checkLaunch satp a pk true with
    | .error r => s.refuseLaunch slot lnch (s.cobjAt satp (wordAt pk 56)) r
    | .ok t => s.enroll (f (s.launchOf satp a pk t (some slot) s.core.device)) pk

/-- The event of a command: it takes effect if it may be taken now. -/
def State.command (s : State) (op : Nat) (k : BitVec 6 → List Byte → Res) : Out1 :=
  happen s (match s.cmd (· == op) with
    | some (slot, b) => k slot b
    | none => .hold .other)

/-- LAUNCH (R358, R423). -/
def execLaunch (s : State) : Out1 := s.command 1 fun slot b => .ok (s.startLaunch slot b id)

/-- RECORD (R416): the launch starts with recording into the buffer at +32, +40 bytes, where its rec bit asks for it. -/
def execRecord (s : State) : Out1 :=
  s.command 9 fun slot b => .ok (s.startLaunch slot b (fun l =>
    { l with record := l.record.map (fun _ => (arg b 1, (arg b 2).toNat)) }))

/-- The items of a log in memory, if it can be read and has not stopped full (R416, R417). -/
def State.logAt (s : State) (packet a : Word) (n : Nat) : Option (List (Nat × List Byte)) :=
  match s.packetAt packet with
  | none => some []
  | some (satp, _) => (s.vread satp a n).bind Config.logItems

/-- REPLAY (R417): the launch runs again, fed by the log at +32 of +40 bytes; a truncated log is refused. -/
def execReplay (s : State) : Out1 :=
  s.command 10 fun slot b => match s.logAt (arg b 0) (arg b 1) (arg b 2).toNat with
    | none => .ok (s.complete slot 2 [])
    | some feed => .ok (s.startLaunch slot b (fun l => { l with feed := feed }))

/-- LAUNCH_REPLICA (R22, R408): a packet replicated by device `dev`; a refusal is reported to it. -/
def execLaunchReplica (s : State) : Out1 :=
  let b := s.ev.data
  let part := seg (wordAt b 8) 4 4
  let satp := s.partSatp part
  let refuse := fun (r : Refuse) => Res.ok (s.manage s.ev.dev (.refused (part ++ seg (wordAt b 48) 32 32) r.word))
  happen s (if s.pkg.bringUp < 7 then .hold .other
    else if s.cores part = 0 then refuse ⟨0x62, s.core.device.toNat⟩
    else match s.checkLaunch satp 0 b false with
      | .error r => refuse r
      | .ok t => .ok (s.enroll (s.launchOf satp 0 b t none s.ev.dev) b))

/-- Whether a management message is about a launch. -/
def concerns (b : MsgBody) (dom : BitVec 36) : Bool :=
  match b with
  | .manage (.entered d _ _) => d == dom
  | .manage (.refused d _) => d == dom
  | .manage (.aborted d) => d == dom
  | .manage (.ended d) => d == dom
  | _ => false

/-- A launch is aborted before any root is queued: the receiving device tells the others and reports (R22, R23). -/
def State.abortLaunch (s : State) (l : Launch) (r : Refuse) : State :=
  let s1 : State := { s with pkg := { s.pkg with
    launches := s.pkg.launches.filter (fun y => !(y.lnch == l.lnch && y.part == l.part))
    inbox := s.pkg.inbox.filter (fun x => !concerns x.2.body (l.part ++ l.lnch)) } }
  let s2 := if l.receiver = s.core.device then s1.manageOthers l (.aborted (l.part ++ l.lnch)) else s1
  (match l.slot with
    | some slot => s2.refuseLaunch slot (l.lnch.setWidth 64) l.cobj r
    | none => s2).advanceAll

/-- The launch whose start barrier is open, by the word that names it (the event's w). -/
def State.opening (s : State) : Option Launch :=
  s.pkg.launches.find? (fun l => l.word == s.ev.w && (l.phase == .barrier || l.phase == .waiting) && l.devFirst != l.devLast)

/-- START_BARRIER (R22, R23, R408): device `dev` enters with generation v[31:0] and incarnation v[39:36], which is to be the recorded one
and that of its earlier entry; v[32] says that it reports a change of its incarnation, v[33] that it refuses its copy, with the cause
v[47:40] and the value `word` of its refusal. -/
def execStartBarrier (s : State) : Out1 :=
  let inc := seg s.ev.v 36 4
  happen s (match s.opening with
    | none => .hold .other
    | some l =>
      if s.ev.v.getLsbD 33 then .ok (s.abortLaunch l ⟨seg s.ev.v 40 8, s.ev.word.toNat⟩)
      else if seg s.ev.v 0 32 = l.gen ∧ !s.ev.v.getLsbD 32 ∧ inc = s.incOf s.ev.dev ∧ l.entered.all (fun x => x.1 != s.ev.dev || x.2 == inc) then
        let s1 := s.modLaunch l.lnch l.part (fun y => { y with entered := (s.ev.dev, inc) :: y.entered.filter (fun x => x.1 != s.ev.dev) })
        .ok s1.advanceAll
      else .ok (s.abortLaunch l ⟨0x63, s.ev.dev.toNat⟩))

/-- START_TIMEOUT (R22): the barrier has been open for 10 ms, as the receiving device finds; n = 1: it has told this device that the launch
is aborted. -/
def execStartTimeout (s : State) : Out1 :=
  happen s (match s.opening with
    | none => .hold .other
    | some l =>
      if s.ev.n ≠ 1 ∧ (l.receiver != s.core.device || decide (s.ptime.toNat < l.since + 10000000)) then .hold .other
      else .ok (s.abortLaunch l ⟨0x64, l.entered.length⟩))

/-! ## The end of a launch (R359, R423) -/

/-- Whether the release that a launch's end is waits for writes of strands that have ended: leases on tiles they wrote, modified
pooled lines (R95, R106, R359). -/
def State.endWaits (s : State) : Bool :=
  s.pkg.podWrites.any (fun w => (s.strandOf w.sid).isNone && s.writeLeased w) || s.pkg.lines.any (fun x => x.due.isSome)

/-- Whether everything of a launch has ended but the release that its end is. -/
def State.launchIdle (s : State) (l : Launch) : Bool :=
  l.phase == .live && !s.strands.any (fun x => x.lnch == l.lnch && x.part == l.part)
    && !s.core.ops.any (fun o => o.lnch == l.lnch && o.part == l.part)
    && !s.core.calls.any (fun m => m.dom == l.part ++ l.lnch)
    && !s.core.arrivals.any (fun a => a.lnch == l.lnch && a.part == l.part)
    && !s.pkg.reqs.any (fun q => q.op.isWrite && q.dom == some (l.part ++ l.lnch))

/-- Whether nothing of a launch is left on the device, and no lease stands on its completion object (R131). -/
def State.launchOver (s : State) (l : Launch) : Bool := s.launchIdle l && !s.endWaits && !s.objLeased l.cobj

/-- A launch is forgotten; launches that waited for its stores go on. -/
def State.dropLaunch (s : State) (l : Launch) : State :=
  ({ s with pkg := { s.pkg with
      launches := s.pkg.launches.filter (fun y => !(y.lnch == l.lnch && y.part == l.part))
      inbox := s.pkg.inbox.filter (fun x => !concerns x.2.body (l.part ++ l.lnch))
      seam := s.pkg.seam.filter (fun x => x.1 != l.part ++ l.lnch)
      podWrites := s.pkg.podWrites.filter (fun w => (s.strandOf w.sid).isSome || s.writeLeased w) } } : State).advanceAll

/-- What a launch reports: its id and status; of a RECORD the bytes of the log used and whether it filled, in a layout of the log
that the spec leaves open (R416) (notes/assumptions 27: DEDUCED). -/
def State.launchRes (l : Launch) (status : Word) : List Word :=
  match l.record.filter (fun r => r.2 != 0) with
  | some (_, size) =>
    let n := (Config.logBytes l.log).length
    [w64 (min n size), w64 (bit (size < n))]
  | none => [l.lnch.setWidth 64, status]

/-- The log of a recorded launch goes into its buffer, as far as it fits (R416). -/
def State.writeLog (s : State) (l : Launch) : State :=
  match l.record.filter (fun r => r.2 != 0) with
  | some (a, size) => s.vwrite (s.partSatp l.part) a ((Config.logBytes l.log).take size)
  | none => s

/-- LAUNCH_END (R359): the end on the device `dev` is known; another device tells the receiving one its own; when every device of the
span has ended, the receiving device merges class 0, arrives once and completes the command. -/
def execLaunchEnd (s : State) : Out1 :=
  happen s (match s.pkg.launches.find? (fun l => l.word == s.ev.w && l.phase == .live) with
    | none => .hold .other
    | some l =>
      let here := s.ev.dev == s.core.device
      if here && (!s.launchOver l || l.ended.elem s.core.device) then .hold .other
      else
        let ended := s.ev.dev :: l.ended.filter (fun d => d != s.ev.dev)
        let s1 := (if here then s.writeLog l else s).modLaunch l.lnch l.part (fun y => { y with ended := ended })
        if l.receiver != s.core.device then .ok (if here then (s1.manage l.receiver (.ended (l.part ++ l.lnch))).dropLaunch l else s1)
        else if !l.span.all ended.elem then .ok s1
        else
          let s2 := (s1.completeAt l.cobj 0).dropLaunch l
          .ok (match l.slot with
            | some slot => s2.complete slot 0 (State.launchRes l 0)
            | none => s2))

/-! ## Teardown (R365, R366) -/

/-- An object is marked torn down: TORN_DOWN set and gen advanced (R279). -/
def State.markObject (s0 : State) (p : Phys) : State :=
  let s := s0.atHome p 32
  let flags : BitVec 32 := BitVec.ofNat 32 (s.numAt (p.plus 20) 4)
  if flags.getLsbD 0 then s
  else
    let s1 := s.writeAt (p.plus 20) (leBytes 4 (flags ||| 1).toNat)
    s1.writeAt p (leBytes 4 (s1.numAt p 4 + 1))

/-- The objects of a launch that a waiter is parked on or that an operation of it completes to, a call stopped with its saved strand
included (R250, R279). -/
def State.launchObjects (s : State) (l : Launch) : List Phys :=
  let waits := s.strands.filterMap (fun x => match x.wait with
    | some w => match w.on with
      | .barrier loc _ => some loc
      | _ => none
    | none => none)
  let ops := (s.core.ops.filter (fun o => o.lnch == l.lnch && o.part == l.part)).filterMap EngOp.obj
  let calls := ((s.core.calls ++ s.pkg.stopped).filter (fun m => (s.strandOf m.sid).any (fun x => x.lnch == l.lnch && x.part == l.part))).filterMap MCall.objAt
  (((waits ++ ops ++ calls).map s.homeLoc).filter (fun p => BitVec.ofNat 32 (s.numAt (p.plus 16) 4) == l.lnch)).foldl
    (fun acc p => if acc.any (fun q => q.key0 == p.key0) then acc else acc ++ [p]) []

/-- Whether a context runs supervisor code over a strand of the launch, or has annulled bundles to come. -/
def Ctx.busyWith (c : Ctx) (l : Launch) : Bool :=
  c.strand.any (fun x => x.lnch == l.lnch && x.part == l.part) && (c.level == .s || c.annul != 0)

/-- An engine operation of a launch being torn down ends at a free row boundary, one that has not started at row 0 (notes/assumptions
29: DEDUCED). No handler follows (R365). The second result counts it if it is cancelled. -/
def State.tearOp (s : State) (o : EngOp) : State × Nat :=
  if o.kind == .note then ({ s with core := { s.core with ops := s.core.ops.filter (fun x => x.slot != o.slot) } }, 0)
  else
    let (k, s1) := s.draw
    let quiet : EngOp := { o with desc := { o.desc with notify := false } }
    let o1 : EngOp := { quiet with stop := some (0x76, if s.engReady o then k % (o.desc.n1 * o.desc.n2 * o.desc.n3 + 1) else 0) }
    if o.ended then (s1.engPost quiet, 0)
    else
      let e := if o.kind = .coll then s1.engColl o1 else s1.engCopy o1
      (e.s.engPost { o1 with status := e.word }, bit (e.cls == 4))

/-- A matrix call of a launch being torn down ends with TORN_DOWN. -/
def State.tearCall (s : State) (m : MCall) : State :=
  s.completeAt m.objAt ((m.status &&& 0xF0000) ||| w64 (4 + 0x76 * 2 ^ 8))

/-- The pending STEP and BREAK commands of strands that go complete with st 4 (R401). -/
def State.dropDebug (s : State) (hit : DbgCmd → Bool) : State :=
  let gone := s.pkg.dbg.filter hit
  gone.foldl (fun (s : State) d => s.complete d.slot 4 []) { s with pkg := { s.pkg with dbg := s.pkg.dbg.filter (fun d => !hit d) } }

/-- A teardown of the launches of a list begins on this device (R365): its strands and tasks go, its operations and calls end or are
cancelled. What it stopped, discarded and cancelled, and the objects to mark, stand in the launch. -/
def State.tearBegin (s : State) (l : Launch) : State :=
  let mine := fun (x : Strand) => x.lnch == l.lnch && x.part == l.part
  let dead := s.strands.filter mine
  let ids := dead.map Strand.id
  let ops := s.core.ops.filter (fun o => o.lnch == l.lnch && o.part == l.part)
  let calls := (s.core.calls ++ s.pkg.stopped).filter (fun m => ids.elem m.sid && !m.ended)
  let objs := s.launchObjects l
  let s1 := s.modLaunch l.lnch l.part (fun y => { y with phase := .torn })
  let s2 := dead.foldl (fun (s : State) x => (s.dropVersions x.id).dropStrand x.id) s1
  let s2a : State := { s2 with pkg := { s2.pkg with
    reqs := s2.pkg.reqs.filter (fun q => !ids.elem q.sid || q.op.isWrite)
    stopped := s2.pkg.stopped.filter (fun m => !ids.elem m.sid) } }
  let (s3, cancelled) := ops.foldl (fun (acc : State × Nat) o =>
    let (t, n) := acc.1.tearOp o
    (t, acc.2 + n)) (s2a, 0)
  let s4 := calls.foldl State.tearCall s3
  let s5 : State := { s4 with
    core := { s4.core with
      arrivals := s4.core.arrivals.filter (fun a => !(a.lnch == l.lnch && a.part == l.part))
      calls := s4.core.calls.filter (fun m => !ids.elem m.sid)
      frames := s4.core.frames.filter (fun f => !dead.any (fun x => x.frame == some f)) } }
  let n := fun (p : Strand → Bool) => w64 (dead.filter p).length
  s5.modLaunch l.lnch l.part (fun y => { y with
    objs := objs, torn := [n (fun x => !x.isTask), n (fun x => x.isTask), w64 (cancelled + calls.length)] })

/-- Whether a completion of a launch being torn down is still to be posted (R365). -/
def State.tearWaits (s : State) (l : Launch) : Bool :=
  s.core.ops.any (fun o => o.lnch == l.lnch && o.part == l.part) || s.objLeased l.cobj

/-- The end of a teardown on this device (R365): objects marked, the completion object updated by the receiving device (R359), pending
STEP and BREAK commands completed (R401), the LAUNCH command completed. -/
def State.tearEnd (s : State) (l : Launch) : State :=
  let s4 := l.objs.foldl State.markObject (s.writeLog l)
  let s5 := if l.receiver = s.core.device then s4.completeAt l.cobj (w64 (4 + 0x76 * 2 ^ 8)) else s4
  let s6 := s5.dropDebug (fun d => d.part == l.part && (if d.sid = 0 then d.isBreak else !s5.strands.any (fun x => x.id == d.sid)))
  let s7 := match l.slot with
    | some slot => s6.complete slot 0 [l.lnch.setWidth 64, w64 (4 + 0x76 * 2 ^ 8)]
    | none => s6
  s7.dropLaunch l

/-- The launches of a partition. -/
def State.launchesOf (s : State) (p : BitVec 4) : List Launch := s.pkg.launches.filter (fun l => l.part == p)

/-- Launches of a partition are torn down (R365): held while a context runs supervisor code over a strand of one; then they begin, and the
end `k` follows once every completion of theirs has been posted, the objects marked after it. -/
def State.tear (s : State) (p : BitVec 4) (mine : Launch → Bool) (k : List Launch → State → State) : Res :=
  let l := (s.launchesOf p).filter mine
  let begun := s.modPart p (fun x => { x with busy := true })
  if l.any (fun x => s.cur.busyWith x || s.oth.busyWith x) then
    (if (s.part p).any (fun x => x.busy) then .hold .other else .ok begun)
  else
    let new := l.filter (fun x => x.phase != .torn)
    let s1 := new.foldl State.tearBegin begun
    let now := (s1.launchesOf p).filter mine
    if now.any s1.tearWaits then (if new.isEmpty then .hold .other else .ok s1)
    else .ok ((k now (now.foldl State.tearEnd s1)).modPart p (fun x => { x with busy := false }))

/-- A teardown that another device passes on: of launch v[31:0] of partition n, marked by `word` = 1 (R365). -/
def State.teardownHere (s : State) : Out1 :=
  let p := BitVec.ofNat 4 s.ev.n
  let hit := fun (l : Launch) => l.lnch == seg s.ev.v 0 32
  happen s (if (s.launchesOf p).any hit then s.tear p hit (fun _ s => s) else .hold .other)

/-- TEARDOWN (R365). -/
def execTeardown (s : State) : Out1 :=
  if s.ev.word = 1 then s.teardownHere
  else
  s.command 4 fun slot b =>
    let p := seg (arg b 0) 0 4
    let hit := fun (l : Launch) => l.lnch == seg (arg b 1) 0 32
    if seg (arg b 0) 4 60 ≠ 0 ∨ seg (arg b 1) 32 32 ≠ 0 then .ok (s.complete slot 2 [])
    else if s.cores p = 0 ∨ !(s.launchesOf p).any hit then .ok (s.complete slot 4 [])
    else s.tear p hit (fun l s => (l.foldl (fun (s : State) x => s.manageOthers x (.teardown (x.part ++ x.lnch))) s).complete slot 0
      ((l.head?.map Launch.torn).getD []))

/-- RESETQ (R366): every launch torn down, events, queues, slots and versions cleared, halted cores back in service. -/
def execResetq (s : State) : Out1 :=
  s.command 5 fun slot b =>
    let p := seg (arg b 0) 0 4
    if seg (arg b 0) 4 60 ≠ 0 then .ok (s.complete slot 2 [])
    else if s.cores p = 0 then .ok (s.complete slot 4 [])
    else s.tear p (fun _ => true) fun l s0 =>
      let s1 := l.foldl (fun (s : State) x => s.manageOthers x (.teardown (x.part ++ x.lnch))) s0
      let mine := (s.cores p).getLsbD s.core.core.toNat
      let s2 : State := { s1 with
        pkg := { s1.pkg with
          strands := s1.pkg.strands.filter (fun x => x.part != p)
          events := if mine then 0 else s1.pkg.events
          versions := if mine then [] else s1.pkg.versions
          treads := if mine then [] else s1.pkg.treads }
        core := if mine && s1.core.halted then
            { s1.core with halted := false, inPart := some p, rpln := 32, arrf := 0 }
          else s1.core }
      s2.complete slot 0 []

/-! ## PREEMPT, RESUME, QUERY (R361, R364, R422) -/

/-- Whether the contexts of the core may be saved now: at U, nothing annulled at PC (R164). S code cannot be saved as its strand, whose
image holds no level: a pre-emption waits for SRET whatever sie says (R344; notes/assumptions 90: DEDUCED). -/
def State.atRest (s : State) : Bool :=
  (s.cur.strand.isNone || (s.cur.level == .u && s.cur.annul == 0)) && (s.oth.strand.isNone || (s.oth.level == .u && s.oth.annul == 0))
    && s.cur.level == .u && s.oth.level == .u && s.cur.hostOp.isNone

/-- A resident strand is saved by a pre-emption: running or ready ones READY with why = 10, the others as they are; a strand parked on
SUSP stays parked, which R182 allows (notes/assumptions 79: DESIGN CHOICE). -/
def State.preemptCtx (s : State) (other : Bool) : State :=
  let c := if other then s.oth else s.cur
  match c.strand with
  | none => s
  | some x =>
    let q : Place := if x.ord then .cluQ s.cluster else .dieQ s.die
    if c.saving.isSome then s
    else match x.state with
    | .running | .ready => s.saveCtx other .ready 10 q
    | .reply => s.saveCtx other .reply 7 .off
    | st => s.saveCtx other st x.why .off

/-- PREEMPT (R364): dispatch stops; the residents are saved at the first boundary that allows it, and the command
completes when every context is empty. -/
def execPreempt (s : State) : Out1 :=
  let again := s.pkg.parts.find? (fun p => p.pslot.any (fun x => x.toNat == s.ev.n))
  match again with
  | some p =>
    happen s (if !s.atRest then .hold .other
      else
        let s1 := (s.preemptCtx false).preemptCtx true
        let going := fun (c : Ctx) => c.strand.isNone || c.saving.isSome
        if s1.cur.strand.isSome || s1.oth.strand.isSome then (if going s.cur && going s.oth then .hold .other else .ok s1)
        else
          let s2 := s1.modPart p.n (fun y => { y with pslot := none })
          .ok (({ s2 with core := { s2.core with preemptDue := false } } : State).complete (BitVec.ofNat 6 s.ev.n) 0 []))
  | none =>
    s.command 2 fun slot b =>
      let p := seg (arg b 0) 0 4
      if seg (arg b 0) 4 60 ≠ 0 then .ok (s.complete slot 2 [])
      else if s.cores p = 0 then .ok (s.complete slot 4 [])
      else
        let here := s.core.inPart == some p
        let s1 := s.modPart p (fun y => { y with preempted := true, pslot := if here then some slot else none })
        .ok (if here then { s1 with core := { s1.core with preemptDue := true } } else s1.complete slot 0 [])

/-- RESUME (R361): dispatch goes on; aging starts from 0. -/
def execResume (s : State) : Out1 :=
  s.command 3 fun slot b =>
    let p := seg (arg b 0) 0 4
    if seg (arg b 0) 4 60 ≠ 0 then .ok (s.complete slot 2 [])
    else if s.cores p = 0 then .ok (s.complete slot 4 [])
    else
      let s1 := s.modPart p (fun y => { y with preempted := false })
      let s2 : State := { s1 with pkg := { s1.pkg with
        strands := s1.pkg.strands.map (fun x => if x.part = p then { x with since := s.core.cyc } else x) } }
      .ok (s2.complete slot 0 [])

/-- How many cores a mask names. -/
def popMask (m : BitVec 1024) : Nat := countTrue ((List.range 1024).map (fun i => m.getLsbD i))

/-- QUERY (R422). -/
def execQuery (s : State) : Out1 :=
  s.command 6 fun slot b =>
    let p := seg (arg b 0) 8 4
    let sel := (seg (arg b 0) 0 8).toNat
    let a := arg b 1
    if seg (arg b 0) 12 52 ≠ 0 ∨ (sel = 1 ∧ seg a 32 32 ≠ 0) ∨ (sel = 2 ∧ seg a 40 24 ≠ 0) then .ok (s.complete slot 2 [])
    else if s.cores p = 0 then .ok (s.complete slot 4 [])
    else match sel with
      | 0 =>
        if a.toNat % 64 ≠ 0 ∨ (a ≠ 0 ∧ !s.hostBias a.toNat 128) then .ok (s.complete slot 2 [])
        else
          let s1 := if a = 0 then s else s.winWrite a.toNat (leBytes 128 (s.cores p).toNat)
          let st := bit ((s.part p).any (fun x => x.preempted)) + 2 * bit ((s.part p).any (fun x => x.busy))
            + 4 * bit (s.core.halted && (s.cores p).getLsbD s.core.core.toNat)
          .ok (s1.complete slot 0 [w64 (popMask (s.cores p)), w64 st, w64 (s.launchesOf p).length])
      | 1 =>
        match (s.launchesOf p).find? (fun l => l.lnch == seg a 0 32) with
        | none => .ok (s.complete slot 4 [])
        | some l =>
          let mine := s.strands.filter (fun x => x.lnch == l.lnch && x.part == p && x.state != .exited)
          .ok (s.complete slot 0
            [ w64 (mine.filter (fun x => !x.isTask)).length
            , w64 (mine.filter (fun x => x.isTask)).length
            , w64 (s.core.ops.filter (fun o => o.lnch == l.lnch && o.part == p)).length ])
      | 2 =>
        match s.strands.find? (fun x => x.hasId && x.id == seg a 0 40 && x.part == p && x.state != .exited) with
        | none => .ok (s.complete slot 4 [])
        | some x => .ok (s.complete slot 0 [x.recAddr])
      | _ => .ok (s.complete slot 2 [])

/-! ## STEP and BREAK (R400, R401) -/

/-- The strand a STEP names is stopped if it runs: PARKED with why = 9, its step bit as given; if `go`, queued READY. -/
def State.debugStop (s : State) (x : Strand) (step go : Bool) : State :=
  let s1 :=
    if s.cur.strand.any (fun y => y.id == x.id && y.state == .running) && s.cur.saving.isNone then s.saveCtx false .parked 9 .off
    else s
  let s2 := (s1.modStrand x.id (fun y => { y with stepping := step, steps := 0 })).setStepBit x step
  match s2.strandOf x.id with
  | none => s2
  | some y =>
    if go && y.wait.isNone && (y.state == .parked || y.state == .ready) then s2.makeReady x.id else s2.touchRecord y

/-- STEP (R400). -/
def execStep (s : State) : Out1 :=
  s.command 7 fun slot b =>
    let id := seg (arg b 0) 0 40
    let p := seg (arg b 0) 60 4
    let count := (seg (arg b 1) 0 32).toNat
    if seg (arg b 0) 40 20 ≠ 0 ∨ seg (arg b 1) 32 32 ≠ 0 then .ok (s.complete slot 2 [])
    else match s.strands.find? (fun x => x.hasId && x.id == id && x.part == p && x.state != .exited) with
      | none => .ok (s.complete slot 4 [])
      | some x =>
        if s.pkg.dbg.any (fun d => !d.isBreak && d.sid == id && d.part == p) then .ok (s.complete slot 3 [])
        else if (s.cur.strand.any (fun y => y.id == id) && (s.cur.level == .s || s.cur.annul != 0))
            || (s.oth.strand.any (fun y => y.id == id) && (s.oth.level == .s || s.oth.annul != 0)) then .hold .other
        else if count = 0 then .ok ((s.debugStop x false true).complete slot 0 [x.recAddr, 0])
        else
          let d : DbgCmd := { slot := slot, isBreak := false, part := p, sid := id, left := count, issued := 0, addr := 0 }
          .ok (({ s with pkg := { s.pkg with dbg := s.pkg.dbg ++ [d] } } : State).debugStop x true true)

/-- BREAK (R401): bpa, bpe = 1 and sdel = 0 into every core of the partition; a clear takes bpe away. -/
def execBreak (s : State) : Out1 :=
  s.command 8 fun slot b =>
    let p := seg (arg b 0) 0 4
    let a := arg b 1
    let clear := (arg b 3).getLsbD 0
    if seg (arg b 0) 4 60 ≠ 0 ∨ seg a 0 2 ≠ 0 ∨ seg (arg b 2) 40 24 ≠ 0 ∨ seg (arg b 3) 1 63 ≠ 0 then .ok (s.complete slot 2 [])
    else if s.cores p = 0 then .ok (s.complete slot 4 [])
    else
      let s1 := s.dropDebug (fun d => d.isBreak && d.part == p)
      let here := s.core.inPart == some p
      let dbg : Word := if clear then s.core.dbgctl &&& ~~~1 else ((seg a 2 54).setWidth 64 <<< 10) ||| 1
      let s2 : State := if here then { s1 with core := { s1.core with dbgctl := dbg } } else s1
      if clear then .ok (s2.complete slot 0 [])
      else
        let d : DbgCmd := { slot := slot, isBreak := true, part := p, sid := seg (arg b 2) 0 40, left := 0, issued := 0, addr := a }
        .ok { s2 with pkg := { s2.pkg with dbg := s2.pkg.dbg ++ [d] } }

/-- Firmware handles a step stop of a saved strand (R400): the count goes down; at 0 the strand stays PARKED and the command
completes; else, and with no STEP for it, it is queued again. -/
def State.firmwareStep (s : State) (id : BitVec 40) (issued : Nat) : State :=
  match s.pkg.dbg.find? (fun d => !d.isBreak && d.sid == id), s.strandOf id with
  | some d, some x =>
    if d.left ≤ 1 then
      ({ s with pkg := { s.pkg with dbg := s.pkg.dbg.filter (fun e => e.slot != d.slot) } } : State).complete d.slot 0
        [x.recAddr, w64 (d.issued + issued)]
    else
      let dbg := s.pkg.dbg.map (fun e => if e.slot = d.slot then { e with left := e.left - 1, issued := e.issued + issued } else e)
      ({ s with pkg := { s.pkg with dbg := dbg } } : State).makeReady id
  | _, _ => s.makeReady id

/-- Firmware handles an address break of a saved strand (R401): the named strand stays PARKED and the command completes; any
other is queued again. -/
def State.firmwareBreak (s : State) (id : BitVec 40) (a : Word) : State :=
  match s.pkg.dbg.find? (fun d => d.isBreak && d.addr == a && (d.sid == 0 || d.sid == id)), s.strandOf id with
  | some d, some x =>
    ({ s with pkg := { s.pkg with dbg := s.pkg.dbg.filter (fun e => e.slot != d.slot) } } : State).complete d.slot 0 [x.recAddr]
  | _, _ => s.makeReady id

/-- A strand that exits with a STEP pending completes it (R400): its record reads EXITED, the steps left stand in +80. -/
def State.stepExits (s : State) : State :=
  let gone := s.pkg.dbg.filter (fun d => !d.isBreak && !s.strands.any (fun x => x.id == d.sid && x.part == d.part))
  gone.foldl (fun (s : State) d => s.complete d.slot 0 [Config.freeWord s.choice, w64 d.issued, w64 d.left])
    { s with pkg := { s.pkg with dbg := s.pkg.dbg.filter (fun d => d.isBreak || s.strands.any (fun x => x.id == d.sid && x.part == d.part)) } }

/-! ## PARTITION and the supervisor image (R362) -/

/-- The descriptor's checks of step 1: the offset of the first field that fails. -/
def State.checkDescriptor (s : State) (off : Nat) (b : List Byte) : Option Nat :=
  let img := (seg (wordAt b 8) 0 32).toNat
  let len := (seg (wordAt b 8) 32 32).toNat
  let vbase := (wordAt b 16).toNat
  let entry := (seg (wordAt b 24) 0 32).toNat
  let meetsCmd := fun (o n : Nat) => meets o n 0x1000 0x2000
  if seg (wordAt b 0) 0 32 ≠ 0x53444331 ∨ seg (wordAt b 0) 32 16 ≠ 1 ∨ seg (wordAt b 0) 48 16 ≠ 0 ∨ off % 64 ≠ 0 ∨ meetsCmd off 64 then some 0
  else if img % 4096 ≠ 0 ∨ len = 0 ∨ len % 12 ≠ 0 ∨ 2 ^ 24 < len ∨ s.windowSize < img + len + 96 ∨ meetsCmd img (len + 96) then some 8
  else if vbase % 12288 ≠ 0 then some 16
  else if entry % 12 ≠ 0 ∨ len ≤ entry ∨ seg (wordAt b 24) 32 2 = 0 ∨ seg (wordAt b 24) 34 30 ≠ 0 then some 24
  else if wordAt b 40 ≠ 0 ∨ wordAt b 48 ≠ 0 ∨ wordAt b 56 ≠ 0 then some 40
  else none

/-- The frames of the code pages (step 3): leaves in POOL or NEAR with X = 1, W = 0, U = 0 and one key id; or the first
address that fails. -/
def State.codePages (s : State) (satp vbase : Word) (len : Nat) : Except Word (List (Phys × Nat)) :=
  (pagePieces (len / 4096 + 2) vbase len).foldl (fun r (va, m) =>
    match r with
    | .error x => .error x
    | .ok l => match s.walk satp va with
      | .error _ => .error va
      | .ok (e, bits) =>
        let p := physOf e bits va
        if !e.getLsbD 5 || e.getLsbD 4 || e.getLsbD 6 || decide (1 < p.tt.toNat) || !s.layoutOk p.tt p.pa
            || l.head?.any (fun (x : Phys × Nat) => x.1.key != p.key) then .error va
        else .ok (l ++ [(p, m)])) (.ok [])

/-- Steps 1 to 5 of R362 for a partition's cores: an error as st and res, or the state with the code loaded, the entry and
the version (notes/assumptions 38: DESIGN CHOICE). -/
def State.loadImage (s : State) (off : Nat) (satp : Word) : Except (Nat × List Word) (State × Word × BitVec 2) :=
  match s.winRead off 64 with
  | none => .error (2, [0])
  | some b =>
    match s.checkDescriptor off b with
    | some f => .error (2, [w64 f])
    | none =>
      let img := (seg (wordAt b 8) 0 32).toNat
      let len := (seg (wordAt b 8) 32 32).toNat
      let code := (s.winRead img (len + 96)).getD []
      if !Config.imageVerifies ((b.drop 8).take 32 ++ code) then .error (5, [])
      else match s.codePages satp (wordAt b 16) len with
        | .error va => .error (2, [va])
        | .ok l => .ok (s.writeRange l (code.take len), wordAt b 16 + (seg (wordAt b 24) 0 32).setWidth 64, seg (wordAt b 24) 32 2)

/-- The partition table with a partition set, its cores taken from the others; our core joins it if it is named, with what its empty
contexts ran ended. -/
def State.setPart (s : State) (n : BitVec 4) (cores : BitVec 1024) (satp stvec : Word) (ver : BitVec 2) : State :=
  let others := (s.pkg.parts.filter (fun p => p.n != n)).map (fun p => { p with cores := p.cores &&& ~~~cores })
  let old := s.part n
  let p : Part :=
    { n := n, cores := cores, satp := satp, stvec := stvec, ver := ver
      preempted := old.any (fun p => p.preempted), busy := false, pslot := (old.map Part.pslot).getD none }
  let mine := cores.getLsbD s.core.core.toNat
  let low := others.filter (fun q => decide (q.n.toNat < n.toNat))
  let high := others.filter (fun q => decide (n.toNat < q.n.toNat))
  let s1 : State := { s with pkg := { s.pkg with parts := low ++ [p] ++ high } }
  if mine then
    let set := fun (c : Ctx) =>
      let sc : SCsr := { c.sc with stvec := stvec, satp := satp &&& 0x07FFFFFFFFFFFFFF }
      if c.strand.isNone && s.core.inPart != some n then { ({} : Ctx) with sc := sc } else { c with sc := sc }
    { s1 with
      cur := set s1.cur
      oth := set s1.oth
      core := { s1.core with inPart := some n, halted := false, rpln := 32, arrf := 0 } }
  else if s.core.inPart == some n then { s1 with core := { s1.core with inPart := none } }
  else s1

/-- PARTITION (R361, R362): BUSY where a core it moves holds a live strand. -/
def execPartition (s : State) : Out1 :=
  s.command 11 fun slot b =>
    let n := seg (arg b 0) 0 4
    let a := (arg b 1).toNat
    if seg (arg b 0) 4 60 ≠ 0 ∨ seg (arg b 2) 32 32 ≠ 0 ∨ seg (arg b 3) 59 5 ≠ 0 ∨ !s.hostBias a 128 then .ok (s.complete slot 2 [])
    else
      let cores : BitVec 1024 := BitVec.ofNat 1024 (ofBytes ((s.winRead a 128).getD []))
      let moved := cores ^^^ s.cores n
      if moved.getLsbD s.core.core.toNat && (s.cur.strand.isSome || s.oth.strand.isSome) then .ok (s.complete slot 3 [])
      else match s.loadImage (arg b 2).toNat (arg b 3) with
        | .error (st, res) => .ok (s.complete slot st res)
        | .ok (s1, stvec, ver) => .ok ((s1.setPart n cores (arg b 3) stvec ver).complete slot 0 [])

/-! ## KEYLOAD, BIAS, ERRLOG, unknown commands (R361, R380, R384, R413) -/

/-- KEYLOAD (R380): the lines cached under the key id are written back, the key installed, the material overwritten. -/
def execKeyload (s : State) : Out1 :=
  s.command 12 fun slot b =>
    let k := seg (arg b 0) 0 8
    let a := (arg b 1).toNat
    if seg (arg b 0) 9 55 ≠ 0 ∨ !s.hostBias a 64 then .ok (s.complete slot 2 [])
    else
      let key : BitVec 512 := BitVec.ofNat 512 (ofBytes ((s.winRead a 64).getD []))
      let s0 := s.writeBackAll (fun x => x.key == k)
      let s1 : State := { s0 with pkg := { s0.pkg with
        lines := s0.pkg.lines.filter (fun x => x.key != k)
        msc := s0.pkg.msc.filter (fun x => x.key != k)
        keyMode := s.pkg.keyMode.set k.toNat ((arg b 0).getLsbD 8) k.isLt
        keys := s.pkg.keys.set k.toNat key k.isLt } }
      .ok ((s1.winWrite a (List.replicate 64 0)).complete slot 0 [])

/-- A line of the window is recalled from the device's caches, or snooped at the host, whose modified data, if the event brings it, is
written (R384). -/
def State.biasLine (s : State) (toHost : Bool) (off : Nat) : State :=
  match s.windowAt off with
  | none => s
  | some p =>
    let l := p.key0 / 64
    if toHost then s.cleanLines (fun x => x == l)
    else
      let s1 := if s.pkg.hostLines.elem l && s.ev.data.length == 64 then s.pokeAt p s.ev.data else s
      ({ s1 with pkg := { s1.pkg with hostLines := s1.pkg.hostLines.filter (fun x => x != l) } } : State).emit (.cxl .biSnpInv l)

/-- A BIAS command goes on by one line; a page already in the requested bias is left; with the last line of a page its bit flips; with no
page left the command completes (R384). -/
def State.biasStep (s : State) (j : BiasJob) : State :=
  let put := fun (s : State) (j : Option BiasJob) => ({ s with pkg := { s.pkg with bias := j } } : State)
  if j.left = 0 then (put s none).complete j.slot 0 [w64 j.count]
  else if j.line = 0 && s.pkg.devBias.elem j.page != j.toHost then put s (some { j with page := j.page + 1, left := j.left - 1 })
  else
    let s1 := s.biasLine j.toHost (4096 * j.page + 64 * j.line)
    if j.line < 63 then put s1 (some { j with line := j.line + 1 })
    else
      let bias := if j.toHost then s1.pkg.devBias.filter (fun p => p != j.page) else insertAsc s1.pkg.devBias j.page
      put { s1 with pkg := { s1.pkg with devBias := bias } } (some { j with page := j.page + 1, line := 0, left := j.left - 1, count := j.count + 1 })

/-- BIAS (R384): taken, it holds the device's accesses to the page it is at; each further event recalls or snoops one line. One such
command runs at a time. -/
def execBias (s : State) : Out1 :=
  match s.pkg.bias with
  | some j => happen s (if s.ev.n = j.slot.toNat then .ok (s.biasStep j) else .hold .other)
  | none =>
    s.command 13 fun slot b =>
      let off := (seg (arg b 0) 0 32).toNat
      let n := (seg (arg b 1) 0 32).toNat
      if seg (arg b 0) 32 32 ≠ 0 ∨ seg (arg b 1) 32 32 ≠ 0 ∨ seg (arg b 2) 1 63 ≠ 0 ∨ off % 4096 ≠ 0 ∨ n = 0 ∨ 2 ^ 20 < n
          ∨ s.windowSize < off + 4096 * n ∨ meets off (4096 * n) 0x1000 0x2000 then .ok (s.complete slot 2 [])
      else
        let j : BiasJob := { slot := slot, toHost := (arg b 2).getLsbD 0, page := off / 4096, line := 0, left := n, count := 0 }
        .ok { s with pkg := { s.pkg with bias := some j } }

/-- ERRLOG (R413): an entry of a core's log is read into the results, as its 64 bytes stand; the spec does not say which entry a selector
names: a free choice, and free words where the log is empty (notes/assumptions 28: DESIGN CHOICE). -/
def execErrlog (s : State) : Out1 :=
  s.command 14 fun slot _ =>
    let res := match s.core.errs[Config.free s.choice % max 1 s.core.errs.length]? with
      | some e => wordsOf e.bytes 8
      | none => (List.range 8).map (fun i => Config.freeWord (s.choice + i))
    .ok (({ s with choice := s.choice + 8 } : State).complete slot 0 res)

/-- A slot with an unassigned op completes with st 1 (R361). -/
def execUnknownCommand (s : State) : Out1 :=
  happen s (match s.cmd (fun op => op == 0 || decide (14 < op)) with
    | some (slot, _) => .ok (s.complete slot 1 [])
    | none => .hold .other)

end Sys2Proof.Machine
end

