-- ==== Sys2Proof/Machine/Events.lean ====
section
/-! DEFINITION. The events of the core and of scheduling: fetch, traps the decoder raises, landing and deliveries, refresh,
suspension, dispatch, waits, requests at their homes, handlers, the seam, errors, debug stops, deadlock (01 R11-R15, R27,
R28; 02 R41-R49; 04 R94-R114; 07 R160-R164; 12 R276-R282; 13 R310-R322; 19 R352-R355, R367; 21 R387-R399). An event that
cannot come now is held, and changes nothing. -/

namespace Sys2Proof.Machine

/-- An event that comes if its condition holds. -/
def State.event1 (s : State) (ok : Bool) (k : Unit → State) : Out1 := happen s (if ok then .ok (k ()) else .hold .other)

/-! ## Fetch and the decoder's traps (R134, R139, R142, R143, R154, R162) -/

/-- A change of a die memory holds the read of a packet (R377). -/
def State.fetchHeld (s : State) (base : Word) : Bool :=
  match s.checkRange s.cur.level s.fetchSatp .fetch base 12 with
  | .ok l => l.any (fun x => s.memHeld x.1 x.2)
  | .error _ => false

/-- PACKET_FETCH (R139): the packet that holds the address v comes in; a fault is the trap of the bundle at PC. -/
def execPacketFetch (s : State) : Out1 :=
  let base := packetOf s.ev.v
  happen s (match s.fetchPacket base with
    | .error t => .trap t
    | .ok w =>
      if s.fetchHeld base then .hold .other
      else
      let p : Packet := { va := base, satp := s.fetchSatp, w := w }
      let s1 := s.noteTlb s.fetchSatp base
      .ok { s1 with core := { s1.core with
        packets := (p :: s1.core.packets.filter (fun q => !(q.va == base && q.satp == s.fetchSatp))).take 64
        fetching := none } })

/-- ILLEGAL_OPCODE (R143, R154): the word at position n of the bundle is no instruction. -/
def execIllegalOpcode (s : State) : Out1 :=
  happen s (.trap ⟨cIllegalOpcode, s.ev.word.setWidth 64 ||| w64 (s.ev.n % 4 * 2 ^ 32)⟩)

/-- ILLEGAL_BUNDLE (R142): of kind n, at position v. -/
def execIllegalBundle (s : State) : Out1 :=
  happen s (.trap ⟨cIllegalBundle, w64 (s.ev.n % 4 * 4 + s.ev.v.toNat % 4)⟩)

/-- ANNULLED_BUNDLE (R160, R162): the fetch state moves on and an issue cycle passes. -/
def execAnnulledBundle (s : State) : Out1 :=
  s.event1 (s.cur.annul != 0) fun _ => (s.afterBundle none).noteIssued.cycleEnd

/-! ## Landing, deliveries, refresh, expiry (R15, R43, R48, R49, R219) -/

/-- RESULT_LANDING (R43): an issue cycle passes in which nothing issues. -/
def execResultLanding (s : State) : Out1 := happen s (.ok s.cycleEnd)

/-- The deliveries without the `i`-th. -/
def State.dropDlv (s : State) (i : Nat) : State := { s with pkg := { s.pkg with dlvs := s.pkg.dlvs.eraseIdx i } }

/-- LONG_LATENCY_DELIVERY (R15): the n-th delivery in flight arrives, when it is due. -/
def execLongLatencyDelivery (s : State) : Out1 :=
  happen s (match s.pkg.dlvs[s.ev.n]? with
    | none => .hold .other
    | some d => if s.isDue d.due then .ok ((s.dropDlv s.ev.n).arrive d) else .hold .other)

/-- SOLVE_DELIVERY (R219): the bodkin delivers its first solve, 40 issue cycles after its start. -/
def execSolveDelivery (s : State) : Out1 :=
  happen s (match s.core.solves with
    | [] => .hold .other
    | x :: t =>
      if s.core.isc < x.left then .hold .other
      else
        let d : Dlv := { sid := x.sid, tag := x.tag, dest := .p x.pd, v := x.v.setWidth 2048, sel := BitVec.allOnes 256, poison := false,
                         due := .issue x.left }
        .ok (({ s with core := { s.core with solves := t } } : State).arrive d))

/-- REFRESH (R48): after 1,024 issue cycles, two wall cycles in which nothing issues or ages. -/
def execRefresh (s : State) : Out1 :=
  s.event1 (decide (s.core.refreshed < s.core.isc / 1024)) fun _ =>
    { s with core := { s.core with cyc := s.core.cyc + 2, refreshed := s.core.refreshed + 1 } }

/-- A row of a short-lived tile past its count (R49). -/
def RowReg.spent (x : RowReg) (now : Nat) : Bool := x.st == .full && decide (x.wr + 4096 ≤ now)

/-- Whether a context has a row to expire. -/
def Ctx.expires (c : Ctx) (now : Nat) : Bool := c.t.any (fun q => q.attr.getLsbD 8 && q.rows.any (fun x => x.spent now))

/-- The rows past their count become EXPIRED. -/
def Ctx.expire (c : Ctx) (now : Nat) : Ctx :=
  { c with t := c.t.map (fun q =>
      if q.attr.getLsbD 8 then { q with rows := q.rows.map (fun x => if x.spent now then { x with st := .expired } else x) } else q) }

/-- ROW_EXPIRY (R49). -/
def execRowExpiry (s : State) : Out1 :=
  s.event1 (s.cur.expires s.core.cyc || s.oth.expires s.core.cyc) fun _ =>
    { s with cur := s.cur.expire s.core.cyc, oth := s.oth.expire s.core.cyc }

/-! ## Suspension of a held bundle (R11, R12, R41, R310, R318, R322) -/

/-- Whether the bundle at PC has been held 64 issue cycles for a reason. -/
def State.stuckFor (s : State) (w : HoldWhy) : Bool :=
  s.cur.level == .u && s.cur.strand.isSome && s.cur.why == w && decide (64 ≤ s.cur.stuck)

/-- BLOCK_SUSPEND (R41). -/
def execBlockSuspend (s : State) : Out1 := s.event1 (s.stuckFor .blocked) fun _ => s.suspend .reply 7

/-- The strand suspends with why = 11 until its condition holds. -/
def State.parkOn (s : State) (on : WaitOn) : State :=
  let w : Wait := { on := on, d := 0, tag := s.pkg.tag, acq := false, sc := 0, deadline := none, asked := true }
  (s.suspend .parked 11).modCur (fun c => c.modStrand (fun x => { x with wait := some w }))

/-- IRREVOCABLE_SUSPEND (R310): until the task is the oldest; a writer without a version suspends at once (R318). -/
def execIrrevocableSuspend (s : State) : Out1 :=
  let version := s.cur.level == .u && s.cur.strand.isSome && s.cur.why == .version
  s.event1 (s.stuckFor .irrevocable || version) fun _ => s.parkOn (if version then .version else .oldest)

/-- TSERIAL_SUSPEND (R322). -/
def execTserialSuspend (s : State) : Out1 := s.event1 (s.stuckFor .tserial) fun _ => s.parkOn .oldest

/-- TSPAWN_ID_SUSPEND (R11). -/
def execTspawnIdSuspend (s : State) : Out1 := s.event1 (s.stuckFor .idless) fun _ => s.parkOn .freeId

/-! ## Dispatch and queues (R13, R27, R352-R355, R394) -/

/-- A context that can neither issue nor is about to: one that is being saved, too. -/
def Ctx.idle (c : Ctx) : Bool :=
  c.level == .u && (c.saving.isSome || !c.strand.any (fun x => x.state == .running || x.state == .ready))

/-- A resident that has yielded stands behind the entries of its level and above (R181). -/
def Ctx.yielded (c : Ctx) : Bool := c.level == .u && c.saving.isNone && c.strand.any (fun x => x.state == .ready && x.why == 5)

/-- The context that will hold an incoming strand (R13). -/
def State.incoming (s : State) : Ctx := if s.incomingOther then s.oth else s.cur

/-- The entry the core takes now, if it takes one (R13, R353): not while the context that would hold it is being saved. -/
def State.taking (s : State) : Option Strand :=
  if s.core.halted || s.core.inPart.isNone || s.core.switching != 0 || s.incoming.saving.isSome then none
  else
    match s.nextEntry s.incoming.sc.pmask with
    | none => none
    | some x =>
      if s.cur.idle && s.oth.idle then some x
      else if s.cur.yielded && s.oth.idle && decide ((s.cur.strand.map (fun y => y.prio.toNat)).getD 0 ≤ x.qLevel) then some x
      else none

/-- A machine check becomes pending, with the address of its log entry (R396). -/
def State.raiseCheck (s : State) (arr : BitVec 8) (syn : BitVec 16) (addr : Word) : State :=
  let (s1, ring) := s.logError arr 3 syn addr 0
  { s1 with core := { s1.core with mchecks := s1.core.mchecks ++ [ring &&& 0xFFFFFFFFFFFFFFC0] } }

/-- DISPATCH (R354). Poison in the image: an ordered task that is not irrevocable is retried and does not run (R319); of any other
strand it is a machine check before its first bundle (R396), logged as of array 6 (notes/assumptions 62: DEDUCED). -/
def execDispatch (s : State) : Out1 :=
  happen s (match s.taking with
    | none => .hold .other
    | some x =>
      if s.incoming.strand.isSome && !s.savable s.incoming.sid then .hold .other
      else if !s.imageBad x then .ok (s.dispatchStrand x)
      else if x.ord && !x.task.any (fun t => t.irrev) then .ok ((s.logError 6 3 0 x.img 0).1.retryTask x)
      else .ok ((s.dispatchStrand x).raiseCheck 6 0 x.img))

/-- The queue a resident strand that is spilled goes to: a READY one its cluster's, as after YIELD (R352). -/
def spillPlace (s : State) (x : Strand) : Place := if x.state == .ready then .cluQ s.cluster else .off

/-- CONTEXT_SAVE (R13, R394): a save that waited for its strand's stores completes; or, with an entry to take and no context empty,
the spill of the older resident begins. -/
def execContextSave (s : State) : Out1 :=
  if s.saveDue s.cur then happen s (.ok (s.finishSave false))
  else if s.saveDue s.oth then happen s (.ok (s.finishSave true))
  else happen s (match s.taking, s.incoming.strand with
    | some _, some x => .ok (s.saveCtx s.incomingOther x.state x.why (spillPlace s x))
    | _, _ => .hold .other)

/-- The first entry of a die queue that a context admits (R352). -/
def State.dieHead (s : State) (die : BitVec 3) (ok : Strand → Bool) : Option Strand :=
  minBy (fun a b => decide (a.arr < b.arr)) (s.pkg.strands.filter (fun x => x.state == .ready && x.place == .dieQ die && ok x))

/-- Whether the core needs work: a context empty or not ready, and nothing in its cluster's queues that its PMASK admits. -/
def State.needsWork (s : State) (pmask : Word) : Bool :=
  s.core.inPart.isSome && !s.core.halted && (s.cur.idle || s.oth.idle)
    && !s.pkg.strands.any (fun x => s.queued x && (x.handler || pmask.getLsbD x.qLevel))

/-- The entry that a queue transfer moves to the core's cluster now, if one does. -/
def State.transferable (s : State) : Option Strand :=
  let pm := s.incoming.sc.pmask
  if s.needsWork pm then
    s.dieHead s.die (fun x => s.core.inPart == some x.part && pm.getLsbD x.qLevel && !(s.part x.part).any (fun p => p.preempted))
  else none

/-- QUEUE_TRANSFER (R352). -/
def execQueueTransfer (s : State) : Out1 :=
  happen s (match s.transferable with
    | some x => .ok (s.modStrand x.id (fun y => { y with place := .cluQ s.cluster }))
    | none => .hold .other)

/-- DIE_STEAL (R352): die n, idle for 4,096 issue cycles, takes the oldest entry of die v's queue; ordered tasks stay
(notes/assumptions 47: DEDUCED), and so do strands that wait for event bits, which wake in their own cluster alone (R279). -/
def execDieSteal (s : State) : Out1 :=
  let dst := BitVec.ofNat 3 s.ev.n
  let src := s.ev.v.setWidth 3
  happen s (match s.dieHead src (fun x => !x.ord && x.why != 3 && !x.wait.any (fun w => w.on.why == 3) && (s.cores x.part) &&& ((BitVec.ofNat 1024 (2 ^ 128 - 1)) <<< (128 * dst.toNat)) != 0) with
    | some x =>
      if dst = src ∨ s.core.isc < s.pkg.dieIdle.get dst.toFin + 4096 then .hold .other
      else .ok (s.modStrand x.id (fun y => { y with place := .dieQ dst }))
    | none => .hold .other)

/-- Whether the launch of a strand is being torn down. -/
def State.tornDown (s : State) (x : Strand) : Bool :=
  s.pkg.launches.any (fun l => l.lnch == x.lnch && l.part == x.part && l.phase == .torn)

/-- Whether an entry has waited 2^14 wall cycles below level 3, not pre-empted, single-stepped or torn down (R27, R353). -/
def State.aged (s : State) (x : Strand) : Bool :=
  x.state == .ready && x.place != .off && x.level != 3 && decide (x.since + 16384 ≤ s.core.cyc)
    && !(s.part x.part).any (fun p => p.preempted) && !x.stepping && !s.tornDown x

/-- AGING_PROMOTION (R27). -/
def execAgingPromotion (s : State) : Out1 :=
  s.event1 (s.pkg.strands.any s.aged) fun _ =>
    { s with pkg := { s.pkg with
      strands := s.pkg.strands.map (fun x => if s.aged x then { x with level := x.level + 1, since := s.core.cyc } else x) } }

/-- Whether an asynchronous event may be taken at the boundary: nothing annulled at PC, no AtomicOp and no save under way; in S only
with sie = 1 (R164, R344, R388). -/
def State.boundary (s : State) : Bool :=
  s.cur.annul == 0 && s.cur.hostOp.isNone && s.cur.saving.isNone && (s.cur.level == .u || s.cur.sc.sstatus.getLsbD 1)

/-- QUANTUM_EXPIRY (R355): a trap with qtrap, else the strand is saved and queued; a speculative task is saved in either case (R312,
R339; notes/assumptions 92: DEDUCED). -/
def execQuantumExpiry (s : State) : Out1 :=
  if s.cur.level == .u && s.cur.strand.any (fun x => x.state == .running) && s.cur.quantumSpent && s.boundary then
    if s.cur.sc.sstatus.getLsbD 4 && !s.curSpec then .next (s.asyncTrap ⟨cPreempt, 0⟩)
    else
      let ord := s.cur.strand.any (fun x => x.ord)
      happen s (.ok (s.saveCtx false .ready 10 (if ord then .cluQ s.cluster else .dieQ s.die)))
  else happen s (.hold .other)

/-! ## Waits (R28, R182, R278-R282, R321) -/

/-- A wait ends: its read acquires at a scope, d is delivered, a parked strand becomes READY. -/
def State.endWait (s : State) (x : Strand) (w : Wait) (r : Option (Word × Bool)) (acq : Option (BitVec 2)) : State :=
  let s1 := match acq with
    | some sc => s.acquired sc
    | none => s
  let s2 := s1.modStrand x.id (fun y => { y with wait := none })
  let s3 := match r with
    | some (v, poison) => s2.arrive
        { sid := x.id, tag := w.tag, dest := .s w.d, v := v.setWidth 2048, sel := BitVec.allOnes 256, poison := poison, due := .wall s.core.cyc }
    | none => s2
  if x.state == .parked then s3.makeReady x.id else s3

/-- A strand that waits and is READY, its core having left it before the first read, becomes PARKED where it stands: in a context, in a
save under way, or saved (R279). -/
def State.parkReady (s : State) (x : Strand) (why : BitVec 8) : State :=
  let p := fun (z : Strand) => if z.id == x.id then { z with state := StState.parked, why := why, since := s.core.cyc } else z
  let inCtx := fun (c : Ctx) => if c.strand.any (fun z => z.id == x.id) then
      { c.modStrand p with saving := c.saving.map (fun v => if v.1 == StState.ready then (StState.parked, why, Place.off) else v) }
    else c
  let s1 : State := { s with
    cur := inCtx s.cur
    oth := inCtx s.oth
    pkg := { s.pkg with strands := s.pkg.strands.map (fun z => if z.id == x.id then { p z with place := .off } else z) } }
  match s1.pkg.strands.find? (fun z => z.id == x.id) with
  | some z => s1.touchRecord z
  | none => s1

/-- Whether a strand that waits does not park yet: repetitions of its bundle are still to issue, or bundles to be annulled (R164, R192). -/
def Ctx.holdsPark (c : Ctx) : Bool := c.repEnd.isSome || c.repN.isSome || c.annul != 0

/-- A wait that its first read does not settle: it is watched from now on, and the strand parks (R279), which State.issue sees to where
that has to wait. -/
def State.watch (s : State) (x : Strand) (w : Wait) : State :=
  let s1 := s.modStrand x.id (fun (z : Strand) => { z with wait := some { w with asked := true } })
  if s.cur.strand.any (fun z => z.id == x.id) && x.state == .running then (if s.cur.holdsPark then s1 else s1.suspend .parked w.on.why)
  else if x.state == .ready then s1.parkReady x w.on.why
  else s1

/-- Whether a wait writes a register. -/
def WaitOn.writes : WaitOn → Bool
  | .barrier _ _ => true
  | .word _ _ => true
  | .events _ => true
  | .seam _ => true
  | _ => false

/-- A wait settles with what it found. -/
def State.settleAs (s : State) (x : Strand) (w : Wait) (r : Word × Bool × Option (BitVec 2)) : State :=
  s.endWait x w (if w.on.writes then some (r.1, r.2.1) else none) r.2.2

/-- Whether a wait's place may be read in program order: earlier requests of the strand to its bytes, or to the event bits it waits
for, are performed, and its earlier acquires; with ord = 3 all of them (R117, R119, R280, R282). A change of a die memory holds it (R377). -/
def State.waitReady (s : State) (x : Strand) (w : Wait) : Bool :=
  let mine := s.pkg.reqs.filter (fun q => q.sid == x.id && decide (q.tag < w.tag) && q.op != .ack)
  (match w.on.watches with
    | some (p, n) => !mine.any (fun q => (s.touches q).any (fun t => meets t.1 t.2 (s.homeLoc p).key0 n))
    | none => true)
    && (match w.on with
      | .events _ => !mine.any (fun q => match q.op with
        | .event _ _ => true
        | _ => false)
      | _ => true)
    && !mine.any (fun q => q.acq.isSome) && (!w.full || !s.releaseWaits x.id w.tag w.sc) && !w.on.watches.any (fun y => s.memHeld (s.homeLoc y.1) y.2)

/-- Whether a wait's request may be taken at its home now. -/
def State.waitDue (s : State) (x : Strand) (w : Wait) : Bool := decide (w.due ≤ s.core.cyc) && !w.asked && s.waitReady x w

/-- A wait whose home refuses it delivers POISONED, and ends a SUSP; the requester logs it (R375, R413; notes/assumptions 21:
DEDUCED). -/
def State.waitRefused (s : State) (x : Strand) (w : Wait) : State :=
  let s1 := match w.on.watches with
    | some (p, n) => s.logRefusal
        { sid := x.id, tag := w.tag, op := .load n .none, loc := p, va := w.va, due := 0, limit := 0, dom := some (x.part ++ x.lnch) }
    | none => s
  s1.settleAs x w (Config.freeWord s.choice, true, none)

/-- WAIT_REQUEST (R278-R282): the first read of the wait of strand id is taken at its home; a home that refuses it delivers POISONED
(R375), and ends a SUSP (notes/assumptions 21: DEDUCED). -/
def execWaitRequest (s : State) : Out1 :=
  happen s (match s.strandOf s.ev.id with
    | none => .hold .other
    | some x => match x.wait with
      | none => .hold .other
      | some w =>
        if !s.waitDue x w then .hold .other
        else match s.resolveWait w with
          | none => .ok (s.waitRefused x w)
          | some w1 =>
            let s1 := s.waitView w1
            match w1.on with
            | .susp p none => .ok (s1.watch x { w1 with on := .susp p (some (s1.waitWord p)) })
            | _ => match s1.waitRead x w1 with
              | some r => .ok (s1.settleAs x w1 r)
              | none => .ok (s1.watch x w1))

/-- Whether the condition of a wait under watch holds: its result has been noted, the word has changed since, or it holds
now. -/
def State.wakes (s : State) (x : Strand) (w : Wait) : Bool :=
  w.asked && (w.res.isSome || w.hit || (match w.on with
    | .barrier _ _ => false
    | .word p _ => decide (p.tt = 5) && (s.waitRead x w).isSome
    | .susp p _ => decide (p.tt = 5) && (s.waitRead x w).isSome
    | _ => (s.waitRead x w).isSome))

/-- WAKE (R28): the strand id becomes READY; a WAITA whose word equals the operand again parks again (R280). -/
def execWake (s : State) : Out1 :=
  happen s (match s.strandOf s.ev.id with
    | none => .hold .other
    | some x => match x.wait with
      | none => .hold .other
      | some w =>
        if !s.wakes x w then .hold .other
        else match w.on, w.res with
          | .barrier p _, some r => .ok (s.settleAs x w (r, false, if r = 3 then none else some (s.objScope p)))
          | .events _, some r => .ok (s.settleAs x w (r, false, some w.sc))
          | .susp _ _, _ => .ok (s.settleAs x w (0, false, if w.acq then some w.sc else none))
          | _, _ =>
            let s1 := s.waitView w
            match s1.waitRead x w with
            | some r => .ok (s1.settleAs x w r)
            | none => .ok (s1.modStrand x.id (fun y => { y with wait := some { w with hit := false } })))

/-- Whether the time of a wait has passed (R279). -/
def State.waitOver (s : State) (w : Wait) : Bool := w.deadline.any (fun t => decide (t ≤ s.ptime.toNat))

/-- A wait ends as timed out, which recordings keep (R416). -/
def State.timeOut (s : State) (x : Strand) (w : Wait) : State :=
  (s.settleAs x w w.timedOut).traced x.launched 4 [] (leBytes 8 w.timedOut.1.toNat)

/-- WAIT_TIMEOUT (R278-R282): the place is read once more, where program order lets it be; a wait that does not settle then ends
as timed out. -/
def execWaitTimeout (s : State) : Out1 :=
  happen s (match s.strandOf s.ev.id with
    | none => .hold .other
    | some x => match x.wait with
      | none => .hold .other
      | some w =>
        if !s.waitOver w || w.res.isSome then .hold .other
        else if !w.asked && !s.waitReady x w then .ok (s.timeOut x w)
        else match s.resolveWait w with
          | none => .ok (s.waitRefused x w)
          | some w1 =>
            let s1 := s.waitView w1
            match s1.waitRead x w1 with
            | some r => .ok (s1.settleAs x w1 r)
            | none => .ok (s1.timeOut x w1))

/-! ## Requests at their homes (R92, R130, R265, R276) -/

/-- The n-th request is performed, if it is of a kind and may be: its time has come and what precedes it is done. A host
target waits for the host's own answer. -/
def State.performNth (s : State) (kind : ReqOp → Bool) : Out1 :=
  happen s (match s.reqAt s.ev.n with
    | none => .hold .other
    | some (q, earlier) =>
      if kind q.op && !s.viaHost q && decide (q.due ≤ s.core.cyc) && s.reqReady q earlier then .ok (s.performReq q (s.ev.w.getLsbD 0) false)
      else .hold .other)

/-- OBJECT_ARRIVAL (R276). -/
def execObjectArrival (s : State) : Out1 :=
  s.performNth fun o => match o with
    | .arrive _ _ => true
    | _ => false

/-- ATOMIC_PERFORM (R265, R268). -/
def execAtomicPerform (s : State) : Out1 :=
  s.performNth fun o => match o with
    | .atomic _ _ _ _ _ => true
    | .vamo _ _ _ _ _ _ => true
    | _ => false

/-- ACCESS_AT_HOME (R92, R256, R260, R281): a load, a store, a described row, an event bit. -/
def execAccessAtHome (s : State) : Out1 :=
  s.performNth fun o => match o with
    | .load _ _ => true
    | .store _ => true
    | .ldrd _ _ _ _ _ => true
    | .strd _ _ _ _ => true
    | .note _ _ => true
    | .event _ _ => true
    | _ => false

/-- WRITE_ACKNOWLEDGEMENT (R130): the n-th request, a write already performed, is acknowledged. -/
def execWriteAcknowledgement (s : State) : Out1 :=
  happen s (match s.reqAt s.ev.n with
    | none => .hold .other
    | some (q, _) =>
      if q.op == .ack && decide (q.due ≤ s.core.cyc) then
        .ok (({ s with pkg := { s.pkg with reqs := s.pkg.reqs.eraseIdx s.ev.n } } : State).answered q.tag).pruneFences
      else .hold .other)

/-! ## The tile protocol, leases, write-back (R94, R98-R106) -/

/-- Whether a window covers a tile of the core's scratchpad. -/
def Window.covers (w : Window) (t : BitVec 21) : Bool :=
  decide (w.base.toNat ≤ t.toNat) && decide (t.toNat < w.base.toNat + w.tiles * 0x4000)

/-- The open window that covers a tile offset of the core's scratchpad. -/
def State.windowOf (s : State) (t : BitVec 21) : Option Window := s.core.wins.find? (fun w => w.covers t)

/-- The panels of a cluster after core `c` has read or written panel `no`: a writer is the one holder left, and the modifier
(R101). -/
def panelStep (l : List Panel) (no c : BitVec 3) (wr : Bool) : List Panel :=
  let old := (l.find? (fun p => p.no == no)).getD { no := no, holders := 0 }
  let me : BitVec 8 := 1 <<< c.toNat
  let p : Panel := if wr then { no := no, holders := me, modifier := some c } else { old with holders := old.holders ||| me }
  p :: l.filter (fun q => q.no != no)

/-- Bytes written over what a copy holds newer. -/
def newerStep (l new : List (BitVec 14 × Byte)) : List (BitVec 14 × Byte) := new ++ l.filter (fun x => !new.any (fun y => y.1 == x.1))

/-- The directory after core `core` has read panel `no` of a tile, or has written `new` into it (R100, R101): what a modified copy
holds newer moves to the writer with the tile, and stays with its owner at a read. What it holds newer has reached the home by the
wall cycle `due` (R30). -/
def dirStep (l : List DirEntry) (tile : BitVec 21) (core : BitVec 10) (no : BitVec 3) (wr : Bool) (new : List (BitVec 14 × Byte)) (due : Nat) :
    List DirEntry :=
  let q := seg core 3 7
  let c := seg core 0 3
  let others := l.filter (fun e => e.tile != tile)
  let mine := l.filter (fun e => e.tile == tile)
  let own := mine.find? (fun e => e.clu == q)
  let panels := panelStep ((own.map DirEntry.panels).getD []) no c wr
  let moved := ((mine.filter (fun e => e.clu != q)).map DirEntry.newer).flatten
  let panelsW := moved.foldl (fun l x => panelStep l (x.1.extractLsb' 11 3) c true) panels
  let first := (mine.filterMap DirEntry.due).foldl min due
  if wr then { tile := tile, clu := q, st := .m, panels := panelsW, newer := newerStep (mine.map DirEntry.newer).flatten new, due := some first } :: others
  else match own with
    | some e => { e with panels := panels } :: (mine.filter (fun e => e.clu != q) ++ others)
    | none => { tile := tile, clu := q, st := if mine.isEmpty then .e else .s, panels := panels } :: (mine.map (fun e => match e.st with
        | .e => { e with st := .s }
        | .m => { e with st := .o }
        | _ => e) ++ others)

/-- A core's copy of a tile is evicted (R99, R101): it holds no panel of it any more, what it has modified goes to the backing, and a
cluster with no panel left has no copy. -/
def State.evictCopy (s : State) (tile : BitVec 21) (core : BitVec 10) : State :=
  let q := seg core 3 7
  let c := seg core 0 3
  match s.core.dir.find? (fun e => e.tile == tile && e.clu == q) with
  | none => s
  | some e =>
    let its := fun (x : BitVec 14 × Byte) => e.panels.any (fun p => p.no == x.1.extractLsb' 11 3 && p.modifier == some c)
    let panels := (e.panels.map (fun p =>
      { p with holders := p.holders &&& ~~~((1 : BitVec 8) <<< c.toNat), modifier := if p.modifier == some c then none else p.modifier })).filter
        (fun p => p.holders != 0)
    let left := if panels.isEmpty then [] else e.newer.filter (fun x => !its x)
    let s1 := s.mergeTile tile (if panels.isEmpty then e.newer else e.newer.filter its)
    let e1 : DirEntry := { e with
      panels := panels
      newer := left
      due := if left.isEmpty then none else e.due
      st := if (e.st == .m || e.st == .o) && left.isEmpty then .s else e.st }
    let rest := s1.core.dir.filter (fun x => !(x.tile == tile && x.clu == q))
    { s1 with core := { s1.core with dir := if panels.isEmpty then rest else e1 :: rest } }

/-- A core of the package asks for a panel of a window tile of this core (R98, R100, R101): inside the window's instance under the tile
protocol, otherwise, or while the window closes, directly at the home. What a wait watches comes to the home at once (R28). -/
def State.tileRequest (s : State) (w : Window) (t : BitVec 21) (core : BitVec 10) (wr : Bool) (data : List Byte) : State :=
  let off := seg s.ev.v 0 14
  let p := (rowLoc (s.ownTile t) 0).plus off.toNat
  let bs := data.take (2048 - off.toNat % 2048)
  let inside := decide (2 ≤ w.sc.toNat) || seg core 7 3 == s.die
  if w.closing.isSome || !inside then
    if wr then ((s.homeTouch p true).writeAt p bs).dropCopies [p] else s.homeTouch p false
  else
    let new := (List.range bs.length).map (fun i => (off + BitVec.ofNat 14 i, bs[i]?.getD 0))
    let (due, s0) := s.dueSoon
    let s1 : State := { s0 with core := { s0.core with dir := dirStep s.core.dir t core (off.extractLsb' 11 3) wr (if wr then new else []) due } }
    let s2 := if wr then s1.noteWritten t else s1
    if wr && s2.waitedOn p bs.length then s2.homeTouch p false else s2

/-- A probe of the copy that this core holds under the tile protocol of a tile of another core's scratchpad (R100, R101): a write by
core `core` of this cluster takes a panel, a write by any other takes the copy, a read by its home the data; modified rows go
home. -/
def State.probe (s : State) (p : Phys) (core : BitVec 10) (wr : Bool) (data : List Byte) : State :=
  match (s.copyOf p).filter (fun r => r.lease.isNone) with
  | none => s
  | some r =>
    let home := core == seg p.pa 21 10
    let s1 := s.copyHome r
    let clean := r.clean
    let panel := p.pa.toNat / 2048 % 8
    if wr then
      let left : Replica := { clean with data := r.data.filter (fun d => d.1 / 8 != panel) }
      (s1.modCopies (fun l => if seg core 3 7 == s.cluster && !home then l.map (fun x => if x.tile == r.tile then left else x)
        else l.filter (fun x => x.tile != r.tile))).writeAt p data
    else if home then s1.modCopies (fun l => l.map (fun x => if x.tile == r.tile then clean else x))
    else s

/-- TILE_REQUEST (R98-R101): core n of the package reads the panel of the window tile at offset v of this core's scratchpad, or, with w[0],
writes `data` there; w[1] says that it evicts its copy; w[2] that this is a probe of this core's copy of the tile at address v. -/
def execTileRequest (s : State) : Out1 :=
  let core := BitVec.ofNat 10 s.ev.n
  let wr := s.ev.w.getLsbD 0
  if s.ev.w.getLsbD 2 then happen s (.ok (s.probe { tt := 2, pa := s.ev.v.setWidth 52 } core wr s.ev.data))
  else
    let t : BitVec 21 := (seg s.ev.v 14 7) ++ (0 : BitVec 14)
    happen s (match s.windowOf t with
      | none => .hold .other
      | some w =>
        if core == s.core.core then .hold .other
        else if s.ev.w.getLsbD 1 then .ok (s.evictCopy t core)
        else .ok (s.tileRequest w t core wr s.ev.data))

/-- The ladder of lease lengths in units (R104). -/
def leaseLen (step : Nat) : Nat := if step ≤ 10 then 32 * 2 ^ step else 62500

/-- The pod-scope releases that may be waiting: the strand, and the place in program order before which its writes are awaited
(R106). -/
def State.podReleases (s : State) : List (BitVec 40 × Nat) :=
  (s.pkg.fences.filter (fun f => f.sc == 3 && f.ord != 0)).map (fun f => (f.sid, f.tag))
    ++ (s.pkg.reqs.filter (fun q => s.releaseScope q == some 3)).map (fun q => (q.sid, q.tag))
    ++ (s.core.ops.filter (fun o => o.ended && o.desc.scope == 3)).map (fun o => (o.sid, o.tag + 1))
    ++ (s.core.calls.filter (fun m => m.ended && seg m.fl 0 2 == 3)).map (fun m => (m.sid, m.tag + 1))
    ++ s.waiters.flatMap (fun x => (x.wait.toList.filter (fun w => w.full && w.sc == 3 && !w.asked)).map (fun w => (x.id, w.tag)))

/-- Whether a release waits for the leases on a tile, so that its home grants none meanwhile: of a strand that has written it, of one
that has ended, or a request that is to be visible everywhere at once (R106, R131). -/
def State.tileAwaited (s : State) (tile : BitVec 52) : Bool :=
  s.pkg.podWrites.any (fun w => w.tile == tile
      && (s.podReleases.any (fun r => r.1 == w.sid && decide (w.tag < r.2)) || (s.strandOf w.sid).isNone))
    || s.pkg.reqs.any (fun q => q.atOnce && q.places.any (fun x => (s.homeLoc x.1).tt == 2 && (s.homeLoc x.1).tileNo == tile))

/-- Whether the package list has an entry for a device's lease on a tile: its own, a new one, or that of a lease that has passed
(R104). -/
def State.listHas (s : State) (t : BitVec 21) (dev : BitVec 17) : Bool :=
  s.core.leases.any (fun l => l.tile == t && l.dev == dev) || decide (s.core.leases.length < 4096) || s.core.leases.any (fun l => !s.leaseOut l)

/-- The home grants the replica of core `core` of device `dev` a lease on a tile: 32 units first and after a write, else the next step,
whichever panel it comes with (notes/assumptions 84: DESIGN CHOICE); the list keeps the latest expiry granted to any core of the device
(R103, R104). The second result is the expiry of this grant. -/
def State.grant (s : State) (t : BitVec 21) (dev : BitVec 17) (core : BitVec 10) : State × BitVec 32 :=
  let old := s.core.leases.find? (fun l => l.tile == t && l.dev == dev)
  let steps := (old.map Lease.steps).getD []
  let step := match steps.find? (fun x => x.1 == core) with
    | some x => min 11 (x.2 + 1)
    | none => 0
  let e : BitVec 32 := s.leaseNow + BitVec.ofNat 32 (leaseLen step)
  let last := match old.filter s.leaseOut with
    | some l => if leasePassed l.expiry e then l.expiry else e
    | none => e
  let l : Lease := { tile := t, dev := dev, expiry := last, steps := (core, step) :: steps.filter (fun x => x.1 != core) }
  let rest := s.core.leases.filter (fun x => !(x.tile == t && x.dev == dev))
  let free := if rest.length < 4096 then none else rest.find? (fun x => !s.leaseOut x)
  ({ s with core := { s.core with leases := l :: rest.filter (fun x => some x != free) } }, e)

/-- Whether a copy has a fill in flight (R99). -/
def State.filling (s : State) (r : Replica) : Bool := s.core.asks.any (fun x => x.1 == r.tile)

/-- The lines of a tile that a panel's marks name, of those that a test admits. -/
def panelBad (panel : Nat) (bad : BitVec 32) (f : Nat → Bool) : List Nat :=
  ((List.range 32).filter (fun i => bad.getLsbD i)).map (32 * panel + ·) |>.filter f

/-- A panel of a tile of another scratchpad comes into the replica area, under a lease or under the tile protocol; the least recently
used copy without a fill in flight makes room, its modified rows going home (R99, R105). Rows the core has modified stay. A copy
keeps one lease, the first that covers its rows; a new one, once that is not valid, covers the panel that came with it. `bad` names the
lines of the panel that come poisoned (R410). -/
def State.install (s : State) (tile : BitVec 52) (panel : Nat) (data : List Byte) (bad : BitVec 32) (lease : Option (BitVec 32)) : State :=
  let cap := (seg s.core.rpln 0 7).toNat
  let old := s.core.replicas.find? (fun r => r.tile == tile)
  let keeps := old.filter (fun r => match r.lease, lease with
    | none, none => true
    | some e, some _ => s.pkg.ptimeOk && leaseValid s.leaseNow e
    | _, _ => false)
  let modified := (keeps.map Replica.modified).getD []
  let new := (List.range 8).map (fun i => (8 * panel + i, rowOf (data.drop (256 * i))))
  let rows := new.filter (fun d => !modified.elem d.1)
    ++ ((keeps.map Replica.data).getD []).filter (fun d => d.1 / 8 != panel || modified.elem d.1)
  let kept := fun (l : Nat) => l / 32 != panel || modified.elem (l / 4)
  let r : Replica := { tile := tile, data := rows, lease := (keeps.map Replica.lease).getD lease, modified := modified, used := s.core.cyc
                       due := keeps.bind Replica.due
                       bad := panelBad panel bad (fun l => !kept l) ++ ((keeps.map Replica.bad).getD []).filter kept }
  let others := s.core.replicas.filter (fun x => x.tile != tile)
  if old.isSome || decide (others.length < cap) then s.modCopies (fun _ => r :: others)
  else match minBy (fun (a b : Replica) => decide (a.used < b.used)) (others.filter (fun x => !s.filling x)) with
    | some v => (if v.lease.isNone then s.copyHome v else s).modCopies (fun _ => r :: others.filter (fun x => x.tile != v.tile))
    | none => s

/-- What the home of a tile has sent of a panel is what the model's memory holds of it, so that an access at the home finds it (R117). -/
def State.homeSays (s : State) (tile : BitVec 52) (panel : Nat) (data : List Byte) (bad : BitVec 32) : State :=
  let p := rowLoc tile (8 * panel)
  let s1 := (linesOf p.key0 2048).foldl State.clearPoison (s.pokeAt p (data.take 2048))
  ((List.range 32).filter (fun l => bad.getLsbD l)).foldl (fun s l => s.setPoison (p.key0 / 64 + l)) s1

/-- The home of a tile has answered with a panel that was asked for (R99, R104-R106): with a copy it comes into the replica area; data
alone serves what read it, and brings a copy held up to date. -/
def State.panelCame (s0 : State) (tile : BitVec 52) (panel : Nat) (data : List Byte) (bad : BitVec 32) (kind : Option (Option (BitVec 32))) :
    State :=
  let s := s0.homeSays tile panel data bad
  let s1 : State := { s with core := { s.core with asks := s.core.asks.erase (tile, panel) } }
  match kind with
  | some lease => if seg s.core.rpln 0 7 = 0 then s1 else s1.install tile panel data bad lease
  | none => s1.modCopies (fun l => l.map (fun r => if r.tile == tile && r.lease.isSome then
      { r with
        data := r.data.map (fun d => if d.1 / 8 == panel then (d.1, rowOf (data.drop (256 * (d.1 % 8)))) else d)
        bad := r.bad.filter (fun l => l / 32 != panel) ++ panelBad panel bad (fun l => r.data.any (fun d => d.1 == l / 4)) } else r))

/-- LEASE_RENEWAL (R99, R103-R106, R409): of core n of a remote device, this home answers with the panel of the window tile at offset v,
and grants a lease if it may; of this device, the home of tile v has answered with panel n, its poisoned lines marked in `word`: w[32]
says with the lease w[31:0], w[33] with a copy under the tile protocol. A lease that comes while pod time is out of bound is kept, and is
not valid until it is back. -/
def execLeaseRenewal (s : State) : Out1 :=
  happen s (if s.ev.dev = s.core.device then
      let tile := s.ev.v.setWidth 52
      let panel := s.ev.n % 8
      if !s.core.asks.elem (tile, panel) then .hold .other
      else .ok (s.panelCame tile panel s.ev.data s.ev.word
        (if s.ev.w.getLsbD 33 then some none else if s.ev.w.getLsbD 32 then some (some (seg s.ev.w 0 32)) else none))
    else
      let t : BitVec 21 := (seg s.ev.v 14 7) ++ (0 : BitVec 14)
      let p := (rowLoc (s.ownTile t) 0).plus ((seg s.ev.v 11 3).toNat * 2048)
      match s.windowOf t with
      | none => .hold .other
      | some w =>
        let s1 := s.homeTouch p false
        let data := s1.readAt p 2048
        let bad : BitVec 32 := BitVec.ofNat 32 (packLanes 1 ((List.range 32).map (fun l => BitVec.ofBool (s1.badAt (p.plus (64 * l)) 64))))
        if w.sc ≠ 3 ∨ w.closing.isSome ∨ !s.pkg.ptimeOk ∨ s.tileAwaited (s.ownTile t) ∨ !s.listHas t s.ev.dev then
          .ok (s1.emit (.tileReply s.ev.dev data bad none))
        else
          let (s2, e) := s1.grant t s.ev.dev (BitVec.ofNat 10 s.ev.n)
          .ok (s2.emit (.tileReply s.ev.dev data bad (some e))))

/-- Whether a request still to be performed touches a window: its home's accesses perform in program order (R117), and are
long-latency until it has closed. -/
def State.windowUsed (s : State) (w : Window) : Bool :=
  s.pkg.reqs.any (fun q => q.locs.any (fun p => s.ownSpad p
    && decide (w.base.toNat ≤ (seg p.pa 0 21).toNat) && decide ((seg p.pa 0 21).toNat < w.base.toNat + w.tiles * 0x4000)))

/-- Whether a closing window has nothing left to wait for. -/
def State.windowOver (s : State) (w : Window) : Bool :=
  w.closing.isSome && !s.core.leases.any (fun l => w.covers l.tile && s.leaseOut l) && !s.windowUsed w

/-- Whether the lease timer has something to do (R102, R106). -/
def State.leaseDue (s : State) : Bool :=
  s.core.leases.any (fun l => !l.gone && !s.leaseOut l) || s.core.wins.any s.windowOver

/-- LEASE_EXPIRY (R102, R106): leases that have passed are noted; a closing window without one closes, and d := 0 arrives. -/
def execLeaseExpiry (s : State) : Out1 :=
  let done := s.core.wins.filter s.windowOver
  s.event1 s.leaseDue fun _ =>
    let s1 : State := { s with core := { s.core with
      leases := s.core.leases.map (fun l => if s.leaseOut l then l else { l with gone := true })
      wins := s.core.wins.filter (fun w => !s.windowOver w) } }
    let s2 := done.foldl (fun (s : State) w => match w.closing with
      | some (sid, tag, d) => s.arrive
          { sid := sid, tag := tag, dest := .s d, v := 0, sel := BitVec.allOnes 256, poison := false, due := .wall s.core.cyc }
      | none => s) s1
    s2.pruneFences

/-- LINE_WRITEBACK (R94): the modified line n of this package, under key id w, is written back to its memory; a line of pooled memory
that another package, of device `dev`, writes back takes `data` there (R96). With w[63] the modified rows of this core's copy of tile v
go to their home, with w[62] what copies of the own tile at offset v hold newer comes to the backing (R30, R96, R99, R100). -/
def execLineWriteback (s : State) : Out1 :=
  let key := s.ev.w.setWidth 8
  happen s (if s.ev.w.getLsbD 63 then
      match s.core.replicas.find? (fun r => decide (r.tile.toNat = s.ev.v.toNat) && r.due.isSome) with
      | some r => .ok ((s.copyHome r).modCopies (fun l => l.map (fun x => if x.tile == r.tile then x.clean else x)))
      | none => .hold .other
    else if s.ev.w.getLsbD 62 then
      let t := seg s.ev.v 0 21
      if s.core.dir.any (fun e => e.tile == t && e.due.isSome) then .ok (s.homeTouch (rowLoc (s.ownTile t) 0) false) else .hold .other
    else if s.ev.dev = s.core.device then
      if s.isDirty s.ev.n then .ok (s.cleanLines (fun l => l == s.ev.n))
      else match (findLine s.pkg.lines key s.ev.n).filter (fun x => x.due.isSome) with
        | some x => .ok (s.writeBack x)
        | none => .hold .other
    else if s.ev.n < 2 ^ 46 then .ok (s.writeAt { tt := 0, pa := BitVec.ofNat 52 (64 * s.ev.n), key := key } (lineBytes (lineOf s.ev.data)))
    else .hold .other)

/-! ## Arrival handlers (R113, R114, R421) -/

/-- The address of an arrival frame. -/
def State.frameAt (s : State) (f : Nat) : Word := sext64 56 (s.core.arrf &&& 0x00FFFFFFFFFFF000) + w64 (f * 0x58000)

/-- Whether a frame can be taken: its pages translate with R and W, to POOL or NEAR. -/
def State.frameOk (s : State) (satp : Word) (f : Nat) : Bool :=
  match s.checkRange .s satp .load (s.frameAt f) 0x58000, s.checkRange .s satp .store (s.frameAt f) 0x58000 with
  | .ok l, .ok _ => l.all (fun x => decide (x.1.tt.toNat < 2))
  | _, _ => false

/-- The lowest free frame of the core. -/
def State.freeFrame (s : State) (satp : Word) : Option Nat :=
  (List.range (min 64 (seg s.core.arrf 0 7).toNat)).find? (fun f => !s.core.frames.elem f && s.frameOk satp f)

/-- The handler strand of an entry (R113). -/
def State.handlerOf (s : State) (a : Arrival) (f : Nat) (id : BitVec 40) : Strand :=
  let n := s.seq a.pc
  { id := id
    recAddr := s.frameAt f
    img := s.frameAt f + 256
    lnch := a.lnch
    part := a.part
    ver := a.ver
    prio := 3
    root := true
    parCore := 0
    parSeq := 0
    state := .ready
    why := 0
    handler := true
    frame := some f
    fill := .initial
    pc := a.pc
    npc := n
    nnpc := s.seq n
    level := 3
    place := .cluQ s.cluster
    since := s.core.cyc
    arr := s.pkg.arrNo }

/-- Whether the head entry's handler can be created: a frame and an id are free. -/
def State.handlerReady (s : State) : Bool :=
  match s.core.arrivals with
  | [] => false
  | a :: _ => (s.freeFrame (s.partSatp a.part)).isSome && (s.findSeq 8192 s.core.seq).isSome

/-- The handler entry of another core's operation, in 64 bytes: handler PC, destination, bytes, argument, launch parameter block,
launch id, partition, version. -/
def arrivalOf (b : List Byte) : Arrival :=
  { pc := wordAt b 0, dst := wordAt b 8, bytes := wordAt b 16, arg := wordAt b 24, s28 := wordAt b 32, lnch := half32At b 40
    part := seg (wordAt b 40) 32 4, ver := seg (wordAt b 40) 40 2 }

/-- ARRIVAL_HANDLER_CREATE (R113, R114): the entry at the head of the queue gets its handler; with 64 bytes of `data` it is another
core's operation whose entry joins the queue. -/
def execArrivalHandlerCreate (s : State) : Out1 :=
  if s.ev.data.length = 64 then happen s (if s.core.arrivals.length < 64 then .ok (s.addArrival (arrivalOf s.ev.data)) else .hold .other)
  else
  happen s (match s.core.arrivals with
    | [] => .hold .other
    | a :: t =>
      match s.freeFrame (s.partSatp a.part), s.newId with
      | some f, some (id, s1) =>
        let x := s.handlerOf a f id
        let s2 := s1.writeRecord x x.pc x.npc x.nnpc 0
        let s3 := s2.vwrite (s2.partSatp a.part) x.img (initialImage a.dst a.bytes a.arg a.s28 0)
        let s4 := s3.traced x.launched 2 [] (leBytes 8 a.pc.toNat ++ leBytes 8 s.pkg.arrNo)
        .ok { s4 with
          core := { s4.core with arrivals := t, frames := f :: s4.core.frames }
          pkg := { s4.pkg with strands := s4.pkg.strands ++ [x], arrNo := s4.pkg.arrNo + 1 } }
      | _, _ => .hold .other)

/-! ## The seam (R312-R314) -/

/-- The domains of the device: launches with ordered tasks, or whose seam is known. -/
def State.domains (s : State) : List (BitVec 36) :=
  ((s.strands.filter (fun x => x.ord)).map Strand.dom ++ s.pkg.seam.map (fun x => x.1)).foldl
    (fun l x => if l.elem x then l else l ++ [x]) []

/-- SEAM_PULSE (R313, R314): each domain commits its DONE tasks in key order, and its seam is taken anew. -/
def execSeamPulse (s : State) : Out1 :=
  s.event1 (decide (s.pkg.pulses < s.core.cyc / 64)) fun _ =>
    let s1 := s.domains.foldl (fun (s : State) l => (s.commitDomain l s.strands.length).moveSeam l) s
    { s1 with pkg := { s1.pkg with pulses := s.core.cyc / 64 } }

/-- A FAULTED task with a deferred trap that is now the oldest, its save complete (R312). -/
def State.faultedOldest (s : State) : Option Strand :=
  s.pkg.strands.find? (fun x => x.state == .faulted && x.dfp && s.isOldest x)

/-- FAULTED_TASK_REQUEUE (R312): dfp is cleared and the task queued READY; its bundle issues again. -/
def execFaultedTaskRequeue (s : State) : Out1 :=
  happen s (match s.faultedOldest with
    | some x => .ok ((s.modStrand x.id (fun y => { y with dfp := false, dcause := 0, fill := .image })).makeReady x.id)
    | none => .hold .other)

/-! ## Errors (R319, R396, R397, R410, R413) -/

/-- The register an error struck: kind, number and row (R40). -/
def destOfCode (w : Word) : Dest := Dest.of (seg w 0 3).toNat (seg w 3 5).toNat (seg w 8 6).toNat

/-- A line of scratchpad, line cache or die memory takes the mark: of a pooled line the copy in the line caches, or, in die memory,
in the memory-side caches. -/
def State.poisonFound (s : State) (arr : BitVec 8) (line : Nat) : State :=
  let mark := fun (l : List CLine) => l.map (fun x => if x.line == line then { x with poison := true } else x)
  if line < 2 ^ 46 then
    { s with pkg := if arr == 2 then { s.pkg with lines := mark s.pkg.lines } else { s.pkg with msc := mark s.pkg.msc } }
  else s.setPoison line

/-- An error in the array or a staging buffer of the matrix unit (R249), reported at once: w[6] staging, w[7] of B, row w[5:0]. -/
def State.arrayError (s : State) (w : Word) : State :=
  match s.core.calls with
  | [] => s
  | m :: t =>
    let r := seg w 0 6
    let mark := fun (x : Staged) => { x with poisoned := x.poisoned.set r.toNat true }
    let put := fun (s : State) (m : MCall) => ({ s with core := { s.core with calls := m :: t } } : State)
    if w.getLsbD 6 then
      match (if w.getLsbD 7 then m.b else m.a) with
      | none => s
      | some x =>
        let y := mark x
        let m1 := m.report 2 7 (some x.m) (some r.toNat)
        (put s (if w.getLsbD 7 then { m1 with b := some y } else { m1 with a := some y })).orTsw m y.poi
    else
      let m1 : MCall := { m with acc := m.acc.set r.toNat { m.acc.get r.toFin with poison := true } r.isLt }
      (put s (m1.report 2 7 none none)).orTsw m 0x10

/-- An uncorrectable error where it is found (R249, R396): a line of scratchpad, line cache or die memory takes the mark, at
the target type w[2:0] and address v; a register becomes POISONED; in the matrix unit, the rows it strikes are poisoned; a
version's task is retried; anything else is a machine check. -/
def State.uncorrectable (s : State) (arr : BitVec 8) (addr : Word) (syn : BitVec 16) (w : Word) : State :=
  match arr.toNat with
  | 1 | 2 | 6 =>
    let line := ((seg w 0 3).toNat * 2 ^ 52 + (seg addr 0 52).toNat) / 64
    ((s.logError arr 2 syn addr 0).1).poisonFound arr line
  | 3 =>
    let d := destOfCode w
    let s1 := (s.logError arr 2 syn addr 0).1
    match d with
    | .s _ | .row _ _ => s1.modCur (fun c => c.put s.core.cyc d (c.destVal d) 0 true)
    | _ => s.raiseCheck arr syn addr
  | 7 => ((s.logError arr 2 syn addr 0).1).arrayError w
  | 8 =>
    let s1 := (s.logError arr 3 syn addr 0).1
    match s1.pkg.versions.find? (fun v => v.stitch == ((seg w 0 3).toNat * 2 ^ 52 + (seg addr 0 52).toNat) / 256) with
    | some v => match s1.strandOf v.tid with
      | some x => if x.task.any (fun t => t.irrev) then s.raiseCheck arr syn addr else s1.retryTask x
      | none => s1
    | none => s1
  | 9 | 10 | 11 | 12 => (s.logError arr 3 syn addr s.ev.dev).1
  | _ => s.raiseCheck arr syn addr

/-- An injected error of an array is done (R415). -/
def State.injected (s : State) (arr : BitVec 8) : State :=
  if s.core.einj.getLsbD 8 && seg s.core.einj 0 8 == arr then { s with core := { s.core with einj := s.core.einj &&& ~~~0x100 } } else s

/-- UNCORRECTABLE_ERROR (R396): in array n, at address v, with its syndrome. -/
def execUncorrectableError (s : State) : Out1 :=
  let arr := BitVec.ofNat 8 s.ev.n
  happen s (.ok ((s.uncorrectable arr s.ev.v (s.ev.word.setWidth 16) s.ev.w).injected arr))

/-- CORRECTED_ERROR (R413): logged with class 1. -/
def execCorrectedError (s : State) : Out1 :=
  let arr := BitVec.ofNat 8 s.ev.n
  happen s (.ok (((s.logError arr 1 (s.ev.word.setWidth 16) s.ev.v s.ev.dev).1).injected arr))

/-- Whether a machine check or the report of a task may enter S at the boundary: nothing annulled at PC, no AtomicOp under way, no save of
the context under way, in a core of a partition (R164, R340, R418). -/
def State.checkable (s : State) : Bool :=
  s.cur.annul == 0 && s.cur.hostOp.isNone && s.cur.saving.isNone && s.core.inPart.isSome

/-- A speculative task that an asynchronous event for S finds in the context is saved first, as any strand is, and keeps its slot; S code
then runs in the empty context (R312, R339; notes/assumptions 92: DEDUCED). -/
def State.clearSpec (s : State) : State := if s.curSpec then s.saveCtx false .ready 10 (.cluQ s.cluster) else s

/-- MACHINE_CHECK (R396): the oldest pending check is taken at the boundary; bit 0 of the value says that the registers cannot be
trusted. -/
def execMachineCheck (s : State) : Out1 :=
  match s.core.mchecks with
  | [] => happen s (.hold .other)
  | v :: t =>
    if !s.checkable then happen s (.hold .other)
    else .next (({ s with core := { s.core with mchecks := t } } : State).takeCheck (v ||| (s.ev.w &&& 1)))

/-- RETRY_EXHAUSTED (R397). -/
def execRetryExhausted (s : State) : Out1 :=
  match s.core.retriesDue with
  | [] => happen s (.hold .other)
  | a :: t =>
    if !s.checkable then happen s (.hold .other)
    else
      let s1 := s.clearSpec
      if s1.cur.saving.isSome then happen s (.ok s1)
      else .next (({ s1 with core := { s1.core with retriesDue := t } } : State).asyncTrap ⟨cRetryExhausted, a⟩)

/-! ## Debug stops (R398-R401) -/

/-- STEP_STOP (R399): a trap with sdel, else, and of a speculative task, the strand is saved and firmware handles the stop
(notes/assumptions 41: DEDUCED). -/
def execStepStop (s : State) : Out1 :=
  if s.cur.stepDue && s.boundary && s.cur.strand.isSome then
    let n := (s.cur.strand.map (fun x => x.steps)).getD 0
    let s1 := s.modCur (fun c => { c.modStrand (fun x => { x with steps := 0 }) with stepDue := false })
    if s.core.dbgctl.getLsbD 1 && !s.curSpec then .next (s1.asyncTrap ⟨cStep, w64 n⟩)
    else
      let id := s.cur.sid
      happen s (.ok ((s1.saveCtx false .parked 9 .off).firmwareStep id n))
  else happen s (.hold .other)

/-- Whether the bundle at PC stands at the armed break address (R398, R399). -/
def State.atBreak (s : State) : Bool :=
  s.core.dbgctl.getLsbD 0 && s.cur.level == .u && s.cur.strand.isSome && !s.cur.noBreak && s.cur.annul == 0
    && seg s.cur.pc 2 54 == seg s.core.dbgctl 10 54

/-- ADDRESS_BREAK (R399) (notes/assumptions 44: DEDUCED). -/
def execAddressBreak (s : State) : Out1 :=
  if s.atBreak then
    let s1 := s.modCur (fun c => { c.modStrand (fun x => { x with steps := 0 }) with stepDue := false })
    if s.core.dbgctl.getLsbD 1 then
      let t : TrapInfo := ⟨cBreak, 1⟩
      if s.curSpec then .next (s.trapHere t) else .next (s1.asyncTrap t)
    else
      let id := s.cur.sid
      happen s (.ok ((s1.saveCtx false .parked 9 .off).firmwareBreak id s.cur.pc))
  else happen s (.hold .other)

/-! ## Deadlock (R31, R367, R368) -/

/-- Whether a strand can do nothing by itself: PARKED or REPLY without a time-out, or its bundle blocked, on a slot of the engines too
(where none of them can end, which State.stuckNow asks besides); a task whose event wait is not satisfied, and a DONE one that waits for
the seam behind it (R316); a launch root for which no id is free (R11). -/
def State.strandStuck (s : State) (x : Strand) : Bool :=
  let blockedIn := fun (c : Ctx) =>
    c.strand.any (fun y => y.id == x.id) && c.level == .u && (c.why == .blocked || c.why == .slot) && c.stuck != 0
  ((x.state == .parked || x.state == .reply) && !x.wait.any (fun w => w.deadline.isSome)) || blockedIn s.cur || blockedIn s.oth
    || (x.state == .new && !s.waitMet x) || (x.state == .done && !s.isOldest x)
    || (x.state == .ready && !x.hasId && (s.findSeq 8192 s.core.seq).isNone)

/-- The condition of R367 for the partition of the core: it has a strand, every one is stuck, and nothing is pending that
could change that (notes/assumptions 30: DEDUCED). -/
def State.stuckNow (s : State) : Bool :=
  match s.core.inPart with
  | none => false
  | some p =>
    let mine := s.strands.filter (fun x => x.part == p && x.state != .exited)
    !mine.isEmpty && mine.all s.strandStuck && s.cur.level == .u && s.oth.level == .u
      && s.pkg.reqs.isEmpty && s.pkg.dlvs.isEmpty && s.core.solves.isEmpty && s.core.calls.isEmpty && s.core.mloads.isEmpty
      && s.core.ops.all (fun o => o.ended && decide (64 ≤ s.core.arrivals.length)) && !s.handlerReady
      && !s.core.wins.any (fun w => w.closing.isSome)
      && !mine.any (fun x => x.wait.any (fun w => !w.asked || s.wakes x w))

/-- The report's bytes (R368). -/
def State.deadReport (s : State) (p : BitVec 4) (since : Nat) : List Byte :=
  let mine := s.strands.filter (fun x => x.part == p && x.state != .exited)
  let l := mine.take 254
  leBytes 8 (l.length + bit (254 < mine.length) * 256) ++ leBytes 8 since
    ++ (l.map (fun x => leBytes 8 x.recAddr.toNat ++ leBytes 8 (x.state.code + x.why.toNat * 16))).flatten

/-- Whether the core is the lowest-numbered of its partition. -/
def State.lowestCore (s : State) : Bool :=
  match s.core.inPart with
  | none => false
  | some p => !(List.range s.core.core.toNat).any (fun i => (s.cores p).getLsbD i)

/-- Context 0 of the core comes to the front. -/
def State.toContext0 (s : State) : State :=
  if s.core.curNo then { s.swapped with core := { s.core with curNo := false } } else s

/-- The entry of a deadlock report into context 0, or its wait for SRET there (R344, R367). -/
def State.enterDeadlock (s : State) (v : Word) : State :=
  let s1 := s.toContext0
  if s1.cur.level == .s && !s1.cur.sc.sstatus.getLsbD 1 then { s with core := { s.core with dlkDue := some v } }
  else
    let s2 : State := ({ s1 with core := { s1.core with dlkDue := none, switching := 0 } } : State).clearSpec
    if s2.cur.saving.isSome then { s2 with core := { s2.core with dlkDue := some v } }
    else match s2.cur.strand with
    | some _ => s2.enterS ⟨cDeadlock, v⟩ s2.cur.pc s2.cur.npc s2.cur.nnpc
    | none => s2.enterS ⟨cDeadlock, v⟩ 0 0 0

/-- DEADLOCK (R367, R368): after 100 µs the report is written, if there is a buffer, and context 0 of the partition's
lowest-numbered core enters S. -/
def execDeadlock (s : State) : Out1 :=
  match s.core.dlkDue with
  | some v =>
    let s1 := s.enterDeadlock v
    if s1.core.dlkDue.isSome && s1.cur.saving.isSome == s.cur.saving.isSome then happen s (.hold .other) else .next { s1 with iss := { s1.iss with verdict := .issued } }
  | none =>
    match s.core.inPart, s.core.stuckSince with
    | some p, some t =>
      if s.stuckNow && s.lowestCore && !s.core.reported && decide (t + 100000 ≤ s.ptime.toNat) && s.cur.annul == 0 then
        let s1 := if s.core.dlkp = 0 then s else s.vwrite (s.partSatp p) s.core.dlkp (s.deadReport p t)
        let s2 : State := { s1 with core := { s1.core with reported := true } }
        let s3 := s2.enterDeadlock s.core.dlkp
        .next { s3 with iss := { s3.iss with verdict := .issued } }
      else happen s (.hold .other)
    | _, _ => happen s (.hold .other)

end Sys2Proof.Machine
end

