-- ==== Sys2Proof/Machine/Device.lean ====
section
/-! DEFINITION. Device registers, the peer aperture from the target's side, the host's accesses and answers (19 R343, R421; 20
R374-R377, R383-R386; 23 R415). -/

namespace Sys2Proof.Machine

/-! ## Writes of registers that take effect by themselves (R343, R374, R376, R377, R415, R421) -/

/-- The RPLN of another core, of device `dev`, has become N (R89, R343). -/
def State.otherRplnSet (s : State) (dev : BitVec 17) (core : BitVec 10) (n : Nat) : State :=
  { s with pkg := { s.pkg with rplns := (dev, core, n) :: s.pkg.rplns.filter (fun x => !(x.1 == dev && x.2.1 == core)) } }

/-- RPLN_WRITE (R343): a value above 64, or an open window, leaves RPLN; else the copies are evicted, modified ones going home, and N
taken. w[0] says that another core, n of device `dev`, has taken it. -/
def execRplnWrite (s : State) : Out1 :=
  let n := seg s.ev.v 0 7
  happen s (.ok (if 64 < n.toNat then s
    else if s.ev.w.getLsbD 0 then s.otherRplnSet s.ev.dev (BitVec.ofNat 10 s.ev.n) n.toNat
    else if !s.core.wins.isEmpty then s
    else
      let s1 := (s.core.replicas.filter (fun r => r.lease.isNone)).foldl State.copyHome s
      { s1 with core := { s1.core with rpln := n.setWidth 64, replicas := [] } }))

/-- ARRF_WRITE (R421): more than 64 frames, another base while a handler holds a frame, or fewer frames than one held needs,
leave ARRF (notes/assumptions 32: DEDUCED). -/
def execArrfWrite (s : State) : Out1 :=
  let n := (seg s.ev.v 0 7).toNat
  let new := s.ev.v &&& 0x00FFFFFFFFFFF07F
  let moved := seg new 12 44 != seg s.core.arrf 12 44 && !s.core.frames.isEmpty
  happen s (.ok (if 64 < n ∨ moved ∨ s.core.frames.any (fun f => decide (n ≤ f)) then s
    else { s with core := { s.core with arrf := new } }))

/-- The bytes of near memory of a die at offsets in a range are gone (R377.3) (notes/assumptions 34: DESIGN CHOICE). -/
def dropNear (m : Mem) (die : BitVec 3) (lo hi : Nat) : Mem :=
  m.filter (fun c => !(decide (2 ^ 52 + die.toNat * 2 ^ 30 + lo ≤ c.1) && decide (c.1 < 2 ^ 52 + die.toNat * 2 ^ 30 + hi)))

/-- DMCFG_WRITE (R377): the change of die n that is in progress takes effect. -/
def execDmcfgWrite (s : State) : Out1 :=
  let die := BitVec.ofNat 3 s.ev.n
  happen s (match s.pkg.dmBusy.find? (fun x => x.1 == die) with
    | none => .hold .other
    | some (_, near, due) =>
      if s.core.cyc < due then .hold .other
      else .ok { s with
        mem := dropNear s.mem die (near.toNat * 2 ^ 26) (s.nearSize die)
        pkg := { s.pkg with
          msc := s.pkg.msc.filter (fun x => homeDie x.line != die)
          dmcfg := s.pkg.dmcfg.set die.toNat (near.setWidth 64) die.isLt
          dmBusy := s.pkg.dmBusy.filter (fun x => x.1 != die) } })

/-- DESCRIBED_RANGE_WRITE (R376): dlo, dhi or shb at address v takes the word w; every shadow entry becomes unknown. -/
def execDescribedRangeWrite (s : State) : Out1 :=
  let p : Pkg := { s.pkg with shadowKnown := [] }
  let p1 : Option Pkg := match s.ev.v with
    | 0x10100 => some { p with dlo := s.ev.w &&& 0x00000FFFFFFF0000 }
    | 0x10108 => some { p with dhi := s.ev.w &&& 0x00000FFFFFFF0000 }
    | 0x10110 => some { p with shb := s.ev.w &&& 0x000FFFFFFFFFF000 }
    | _ => none
  happen s (match p1 with
    | some p => .ok { s with pkg := p }
    | none => .hold .other)

/-- EINJ_WRITE (R415): bits [11:10] read 0. -/
def execEinjWrite (s : State) : Out1 := happen s (.ok { s with core := { s.core with einj := s.ev.v &&& 0xFFFFFFFFFFFFF3FF } })

/-- REGISTER_WRITE (R374): the device register at address v takes the word w; the 32 PAPT registers. -/
def execRegisterWrite (s : State) : Out1 :=
  let a := s.ev.v.toNat
  happen s (if 0x10000 ≤ a ∧ a < 0x10100 ∧ a % 8 = 0 then
      .ok { s with pkg := { s.pkg with papt := s.pkg.papt.set! ((a - 0x10000) / 8) (s.ev.w &&& 0x000FFFFFC000FF3F) } }
    else .hold .other)

/-! ## A peer's access (R375) -/

/-- The place of this device that a message names by target type and address: in a scratchpad of it, or through its aperture, which
permits reads or writes (R86, R374, R375). -/
def State.peerPlace (s : State) (tt : BitVec 3) (pa : BitVec 52) (n : Nat) (rd wr : Bool) : Option Phys :=
  let p := if tt = 2 then (if seg pa 31 17 = s.core.device then some { tt := 2, pa := pa } else none) else s.papt (seg pa 0 35) rd wr
  p.filter (fun q => decide (q.tt ≠ 2) || s.spadOk q n)

/-- An atomic of a peer: the state, and the old value or none where it is refused or reads poison. A recording takes the order of
floating adds (R416). -/
def State.peerAtomic (s : State) (tt : BitVec 3) (pa : BitVec 52) (fn : BitVec 5) (wide : Bool) (b c : Word) : State × Option Word :=
  match s.peerPlace tt pa 16 false true with
  | none => (s, none)
  | some p =>
    let (s1, r) := (s.atHome p 16).atomicAt p.atHome fn wide b c
    (if fn = 15 then s1.traced (fun _ => true) 1 (leBytes 8 (s.homeLoc p).key0) (leBytes 8 b.toNat) else s1, r)

/-- The response of a peer's access to the place (tt, pa): its data and poison, and the state after it. A refused access is answered
POISONED with no data, and stores nothing. -/
def State.servePeer (s0 : State) (tt : BitVec 3) (pa : BitVec 52) (op : PeerOp) : State × List Byte × Bool :=
  let s := s0.acting 0 0
  let word := fun (r : Option Word) => leBytes 8 (r.getD (Config.freeWord s.choice)).toNat
  match op with
  | .read n =>
    match s.peerPlace tt pa n true false with
    | none => (s, [], true)
    | some p =>
      let s1 := (s.recallCopy p false).homeTouch p false
      (s1, s1.readAt p n, s1.badAt p n)
  | .write data =>
    match s.peerPlace tt pa data.length false true with
    | none => (s, [], true)
    | some p => ((((s.recallCopy p true).homeTouch p true).writeAt p data).dropCopies [p], [], false)
  | .atomic fn sz b c =>
    let (s1, r) := s.peerAtomic tt pa fn (sz == 1) b c
    (s1, if (s.peerPlace tt pa 16 false true).isNone then [] else word r, r.isNone)
  | .vamo op lanes =>
    lanes.foldl (fun (acc : State × List Byte × Bool) l =>
      let (s1, r) := acc.1.peerAtomic l.1 l.2.1 (vamoFn op) true l.2.2 0
      (s1, acc.2.1 ++ word r, acc.2.2 || r.isNone)) (s, [], false)
  | .arrive status =>
    match s.peerPlace tt pa 32 false true with
    | none => (s, [], true)
    | some p =>
      let s1 := s.atHome p 32
      if s1.badAt p.atHome 32 then (s1, s.freeBytes 8, true)
      else
        let (s2, token) := s1.arriveAt p.atHome status
        (s2, leBytes 8 token.toNat, false)

/-- Whether a peer's access is to be visible to every package at once and meets a tile of this core on which a lease stands, or reaches a
place that is held: it waits (R131, R377, R384; notes/assumptions 67: DEDUCED). -/
def State.peerWaits (s : State) (tt : BitVec 3) (pa : BitVec 52) (op : PeerOp) : Bool :=
  let held := fun (tt : BitVec 3) (pa : BitVec 52) (atomic : Bool) => (s.peerPlace tt pa 1 false false).any (fun p =>
    s.dmHeld p || (atomic && decide (p.tt = 2) && s.leasedOut p.tileNo))
  match op with
  | .read _ => held tt pa false
  | .write _ => held tt pa false
  | .vamo _ lanes => lanes.any (fun l => held l.1 l.2.1 true)
  | _ => held tt pa true

/-- A request that a message carries is performed, its response kept and sent (R404). -/
def State.performMsg (s : State) (src : BitVec 17) (msn : BitVec 32) (tt : BitVec 3) (pa : BitVec 52) (op : PeerOp) : State :=
  let (s1, data, poison) := s.servePeer tt pa op
  let done : Performed := { src := src, msn := msn, reply := data, poison := poison }
  let mine := s1.pkg.performed.filter (fun x => x.src == src)
  let keep := if mine.length < 4096 then s1.pkg.performed
    else s1.pkg.performed.filter (fun x => !(mine.head?.any (fun y => y == x)))
  ({ s1 with pkg := { s1.pkg with performed := keep ++ [done] } } : State).post src { msn := msn, body := .response data poison }

/-- The launch that a management message names. -/
def State.launchNamed (s : State) (dom : BitVec 36) : Option Launch := s.pkg.launches.find? (fun l => l.part ++ l.lnch == dom)

/-- Whether a management message may be taken now: the launch it concerns stands here in the phase it belongs to. One of a teardown stays
while the launch does. -/
def State.manageReady (s : State) (m : Manage) : Bool :=
  let open_ := fun (dom : BitVec 36) => (s.launchNamed dom).any (fun l => l.phase == .barrier || l.phase == .waiting)
  match m with
  | .replica _ => decide (7 ≤ s.pkg.bringUp)
  | .entered dom _ _ => open_ dom
  | .refused dom _ => open_ dom
  | .aborted dom => open_ dom
  | .ended dom => (s.launchNamed dom).any (fun l => l.phase == .live)
  | .teardown _ => true

/-- A management message is taken (R22, R23, R359, R365, R408): the event it brings about comes next. A teardown goes on as far as it
can; `rest` is the state without the message. -/
def State.managed (s : State) (src : BitVec 17) (m : Manage) (rest : State) : Res :=
  match m with
  | .replica b => .ok (rest.soon .launchReplica { dev := src, data := b })
  | .entered dom gen inc =>
    .ok (rest.soon .startBarrier { dev := src, w := dom.setWidth 64, v := (inc ++ (0 : BitVec 4) ++ gen).setWidth 64 })
  | .refused dom st =>
    .ok (rest.soon .startBarrier { dev := src, w := dom.setWidth 64, v := (seg st 8 8 ++ (2 : BitVec 8) ++ (0 : BitVec 32)).setWidth 64, word := seg st 32 32 })
  | .aborted dom => .ok (rest.soon .startTimeout { w := dom.setWidth 64, n := 1 })
  | .ended dom => .ok (rest.soon .launchEnd { dev := src, w := dom.setWidth 64 })
  | .teardown dom => if (s.launchNamed dom).isNone then .ok rest else s.tear (seg dom 32 4) (fun l => l.part ++ l.lnch == dom) (fun _ t => t)

/-- PEER_REQUEST (R375, R412): device `dev` accesses aperture offset v, or with w[1] the scratchpad address v, by `op`; not before it has
answered this device's REJOIN. With w[0] the n-th request that has waited comes to its turn. -/
def execPeerRequest (s : State) : Out1 :=
  happen s (if s.ev.w.getLsbD 0 then
      match s.pkg.inbox[s.ev.n]? with
      | some (src, { msn := msn, body := .request tt pa op }) =>
        if s.peerWaits tt pa op then .hold .other
        else .ok (({ s with pkg := { s.pkg with inbox := s.pkg.inbox.eraseIdx s.ev.n } } : State).performMsg src msn tt pa op)
      | some (src, { msn := _, body := .manage m }) =>
        if s.manageReady m then s.managed src m { s with pkg := { s.pkg with inbox := s.pkg.inbox.eraseIdx s.ev.n } } else .hold .other
      | _ => .hold .other
    else
      let tt : BitVec 3 := if s.ev.w.getLsbD 1 then 2 else 4
      let pa : BitVec 52 := s.ev.v.setWidth 52
      if s.pkg.rejoining.elem s.ev.dev || s.peerWaits tt pa s.ev.op then .hold .other
      else
        let (s1, data, poison) := s.servePeer tt pa s.ev.op
        .ok (s1.emit (.peerReply s.ev.dev data poison)))

/-! ## The host's accesses to the HDM window (R360, R383) -/

/-- The lines of a window range. -/
def State.winLines (s : State) (off n : Nat) : List Nat :=
  ((winPieces (n / 4096 + 2) off n).map (fun x => match s.windowAt x.1 with
    | some p => linesOf p.key0 x.2
    | none => [])).flatten

/-- The window's own numbers of the lines of a range. -/
def winNumbers (off n : Nat) : List Nat := linesOf off n

/-- HOST_READ (R383, R384): n bytes at window offset v. In device bias a modified copy is written back first and the host keeps no
copy; in host bias it may. -/
def execHostRead (s : State) : Out1 :=
  let off := s.ev.v.toNat
  happen s (match s.winRead off s.ev.n with
    | none => .hold .other
    | some b =>
      let ls := s.winLines off s.ev.n
      if (winNumbers off s.ev.n).any s.hostHeld then .hold .other
      else if (winNumbers off s.ev.n).all s.hostRule then
        .ok (({ s with pkg := { s.pkg with hostLines := ls.foldl insertAsc s.pkg.hostLines } } : State).emit (.hostData b false))
      else
        .ok ((s.cleanLines (fun l => ls.elem l)).emit (.hostData b true)))

/-- The slots of the command area that firmware owns. -/
def State.ownedSlots (s : State) : List Nat :=
  (List.range 64).filter (fun i => (s.winRead (slotOff i) 128).any slotOwned)

/-- Whether a window range meets such a slot. -/
def State.meetsOwned (s : State) (off n : Nat) : Bool := s.ownedSlots.any (fun i => meets off n (slotOff i) 128)

/-- The pieces of a host write that fall outside the slots firmware owns; what falls into them is ignored (R360). -/
def State.hostPieces (s : State) : Nat → Nat → List Byte → List (Nat × List Byte)
  | 0, _, _ => []
  | _, _, [] => []
  | fuel + 1, off, bs =>
    let k := (off - 0x1000) / 128
    let m := 128 - off % 128
    if decide (0x1000 ≤ off) && s.ownedSlots.elem k then s.hostPieces fuel (off + m) (bs.drop m)
    else (off, bs.take m) :: s.hostPieces fuel (off + m) (bs.drop m)

/-- HOST_WRITE (R360, R383, R384, R416): the data at window offset v; in device bias every device copy is invalidated first. Recordings
take every host write: what of the window a launch maps is not told apart (notes/assumptions 27: DEDUCED). With w[0] it is an AtomicOp,
which is answered Unsupported Request (R381). -/
def execHostWrite (s : State) : Out1 :=
  let off := s.ev.v.toNat
  let n := s.ev.data.length
  happen s (if s.ev.w.getLsbD 0 then .ok (s.emit .hostUnsupported)
    else if s.windowSize < off + n ∨ (winNumbers off n).any s.hostHeld then .hold .other
    else
      let s1 := (s.hostPieces (n / 128 + 2) off s.ev.data).foldl (fun (s : State) x =>
        (s.winWrite x.1 x.2).traced (fun _ => true) 0 (leBytes 8 x.1) x.2) s
      let ls := s.winLines off n
      .ok ((s1.cleanLines (fun l => ls.elem l)).emit .hostWriteDone))

/-- HOST_SNOOP (R381, R385): the host snoops the HOST line at address v: SnpInv with w = 0, SnpData with 1, SnpCur with 2. The package's
copies are recalled first; what the host-line cache keeps after it is nothing, the line shared, or the line as it was. -/
def execHostSnoop (s : State) : Out1 :=
  let p : Phys := { tt := 3, pa := (seg s.ev.v 6 46) ++ (0 : BitVec 6), c := true }
  let l := p.key0 / 64
  let left := match s.ev.w with
    | 0 => s.pkg.hcache.filter (fun x => x.1 != l)
    | 1 => s.pkg.hcache.map (fun x => if x.1 = l then (l, false) else x)
    | _ => s.pkg.hcache
  happen s (.ok (({ s with pkg := { s.pkg with hcache := left } } : State).cleanLines (fun x => x == l)
    |>.emit (.snoopReply (s.isDirty l) (s.readAt p 64))))

/-! ## The host's answers (R270, R385, R386) -/

/-- A request leaves the list. -/
def State.dropReq (s : State) (q : Req) : State :=
  { s with pkg := { s.pkg with reqs := s.pkg.reqs.filter (fun r => r.tag != q.tag || r.sid != q.sid) } }

/-- A line that the host has granted comes into the host-line cache; where its set of 16 is full, a free choice of them is given back,
modified or clean (R385) (notes/assumptions 94: DEDUCED). -/
def State.granted (s : State) (p : Phys) (owned : Bool) : State :=
  let l := p.key0 / 64
  let others := s.pkg.hcache.filter (fun x => x.1 != l)
  let set := others.filter (fun x => x.1 % 4096 == l % 4096)
  let put := fun (s : State) (t : List (Nat × Bool)) => ({ s with pkg := { s.pkg with hcache := (l, owned) :: t } } : State)
  match (if set.length < 16 then none else set[Config.free s.choice % set.length]?) with
  | none => put s others
  | some v =>
    put ((s.cleanLines (fun x => x == v.1)).emit (.cxl (if s.isDirty v.1 then .dirtyEvict else .cleanEvict) v.1)) (others.filter (fun x => x.1 != v.1))

/-- The host's answer to what a request has asked for its lines (R383, R385): grants of HOST lines; of lines in host bias the modified
data, 64 bytes each after the line's number of 8, and the copies of an access that writes gone. -/
def State.hostAnswers (s : State) (q : Req) : State :=
  let s1 := (q.locs.filter (fun p => decide (p.tt = 3) && p.c)).foldl (fun (s : State) p => s.granted p q.op.stores) s
  let lines := (q.locs.filter s.inHostBias).map (fun p => p.key0 / 64)
  let given := (List.range (s.ev.data.length / 72)).map (fun i => ((wordAt s.ev.data (72 * i)).toNat, (s.ev.data.drop (72 * i + 8)).take 64))
  let s2 := (given.filter (fun x => lines.elem x.1 && s.pkg.hostLines.elem x.1)).foldl (fun (s : State) x =>
    s.pokeAt { tt := 1, pa := BitVec.ofNat 52 (64 * x.1) } x.2) s1
  if q.op.stores then { s2 with pkg := { s2.pkg with hostLines := s2.pkg.hostLines.filter (fun l => !lines.elem l) } } else s2

/-- The host answers the snoop that an access which is no request has sent for line v: its modified data, if it has any, is written, and it
keeps no copy (R383) (notes/assumptions 93: DESIGN CHOICE). -/
def State.hostGivesUp (s : State) : Res :=
  let l := s.ev.v.toNat
  if !s.pkg.hostLines.elem l then .hold .other
  else
    let s1 := if s.ev.data.length = 64 then s.pokeAt { tt := 1, pa := BitVec.ofNat 52 (64 * l) } s.ev.data else s
    .ok { s1 with pkg := { s1.pkg with hostLines := s1.pkg.hostLines.filter (fun x => x != l) } }

/-- The completion of a zero-length read on the host port: every posted CXL.io write performed before it is acknowledged (R385). -/
def State.portRead (s : State) : State :=
  let hit := fun (q : Req) => q.op == .ack && decide (q.loc.tt = 3) && !q.loc.c
  ({ s with pkg := { s.pkg with reqs := s.pkg.reqs.filter (fun q => !hit q) } } : State).pruneFences

/-- HOST_RESPONSE (R383, R385, R386): the host answers the n-th request, by a grant, a BIRsp or a completion. An AtomicOp answered
Unsupported Request raises HOST_ATOMIC at its bundle; a Completer Abort delivers POISONED and is logged. w[0]: it answers a snoop of line
v by an access that is no request; w[1]: a zero-length read completes. -/
def execHostResponse (s : State) : Out1 :=
  happen s (if s.ev.w.getLsbD 0 then s.hostGivesUp
    else if s.ev.w.getLsbD 1 then .ok s.portRead
    else match s.reqAt s.ev.n with
    | none => .hold .other
    | some (q, earlier) =>
      if !s.viaHost q || decide (s.core.cyc < q.due) || q.op == .ack || !s.reqReady q earlier then .hold .other
      else match s.ev.resp with
        | .ok => .ok ((s.hostAnswers q).performReq q false false)
        | .unsupported =>
          if q.host then .ok ((s.dropReq q).answerHost q.sid .unsupported).pruneFences
          else .ok ((s.dropReq q).performRefused q).pruneFences
        | .abort =>
          if q.host then .ok (((s.dropReq q).logRefusal q).answerHost q.sid .aborted).pruneFences
          else .ok ((s.dropReq q).performRefused q).pruneFences)

end Sys2Proof.Machine
end

