-- ==== Sys2Proof/Machine/Fabric.lean ====
section
/-! DEFINITION. Evmatal frames and messages, link retry and keys, lost peers, recovery and rejoin, pod time, bring-up, power
and management (23 R402-R419). -/

namespace Sys2Proof.Machine

/-! ## Lost peers (R405) -/

/-- A request to a device that is lost ends: reads POISONED, writes acknowledged and logged. -/
def State.loseReq (s : State) (q : Req) : State := (s.dropReq q).performRefused q

/-- An engine operation with rows on a lost device ends with class 3, PEER_LOST. -/
def State.loseOp (s : State) (o : EngOp) (dev : BitVec 17) : State :=
  let far := fun (va : Word) => match s.xlate o.satp va with
    | .ok (e, b) => s.otherDevice (physOf e b va) == some dev
    | .error _ => false
  if o.kind != .note && !o.ended && (far o.desc.src || far o.desc.dst) then
    s.engPost { o with status := w64 (3 + 0x77 * 2 ^ 8 + dev.toNat * 2 ^ 32) }
  else s

/-- A wait on a place of the lost device is delivered POISONED. -/
def State.loseWait (s : State) (dev : BitVec 17) (x : Strand) : State :=
  match x.wait with
  | none => s
  | some w => match w.on.watches with
    | some (p, _) => if s.otherDevice p == some dev then s.settleAs x w (Config.freeWord s.choice, true, none) else s
    | none => s

/-- The device is lost to this one (R405). A REJOIN sent to it stays to be answered (R412). -/
def State.lose (s : State) (dev : BitVec 17) : State :=
  let s1 : State := { s with pkg := { s.pkg with
    lost := dev :: s.pkg.lost.filter (fun d => d != dev)
    sent := s.pkg.sent.filter (fun x => x.dst != dev || !isResent x.body) } }
  let mine := s1.pkg.reqs.filter (fun q => (s1.peersOf q).any (fun x => x.1 == dev))
  let s2 := mine.foldl State.loseReq s1
  let s3 := s2.core.ops.foldl (fun (s : State) o => s.loseOp o dev) s2
  let s4 : State := { s3 with core := { s3.core with
    leases := s3.core.leases.filter (fun l => l.dev != dev)
    replicas := s3.core.replicas.map (fun r => if (seg r.tile 17 17) = dev then { r with lease := r.lease.map (fun _ => s3.leaseNow) } else r)
    asks := s3.core.asks.filter (fun x => seg x.1 17 17 != dev) } }
  (s4.waiters.foldl (fun (s : State) x => s.loseWait dev x) s4).pruneFences

/-! ## Receiving (R402, R404, R406, R407, R411) -/

/-- The wraps that the nonce of a received frame counts, by the frames received in order before it (R407). -/
def Link.wrapsAt (k : Link) (lseq : BitVec 24) : BitVec 71 :=
  if (lseq - k.rx).toNat < 2 ^ 23 then (if lseq.toNat < k.rx.toNat then k.rxWraps + 1 else k.rxWraps)
  else if k.rx.toNat < lseq.toNat then k.rxWraps - 1 else k.rxWraps

/-- A frame on a port that the receiver drops. Its tag verifies where it is intact and was sealed under the key its kidx names here and
its own nonce; one that names a cleared key fails (R402, R407). -/
def State.frameBad (s : State) (p : Fin 32) (f : Frame) : Bool :=
  let k := s.pkg.links.get p
  !f.fcsOk || f.etherType != 0x88B5 || f.rsv != 0 || f.dst != s.core.device || !f.tagOk || !k.peerHas.getLsbD f.kidx.toNat
    || f.key != (if f.kidx = 0 then k.peerKey0 else k.peerKey1)
    || f.nonce != nonceOf (!Config.linkDir p.val) f.lseq (k.wrapsAt f.lseq)

/-- A drop is counted and logged (R402, R411). -/
def State.countDrop (s : State) (dev : BitVec 17) : State :=
  ((({ s with pkg := { s.pkg with dropped := s.pkg.dropped + 1 } } : State).acting 0 0).logError 9 1 0 0 dev).1

/-- The old value that an atomic's response gives: a queue operation's result does not (R263, R264). -/
def oldOf (fn : BitVec 5) (wide : Bool) (v : Word) : Option (List Byte) :=
  if 10 ≤ fn.toNat ∧ fn.toNat ≤ 14 then none else some (leBytes (if wide then 8 else 4) (v.toNat % 2 ^ (if wide then 64 else 32)))

/-- An atomic that a peer has performed is performed on what the model holds of the peer's memory, which the response corrects first, so
that a later access finds its result (R117). -/
def State.mirrorAtomic (s : State) (p : Phys) (fn : BitVec 5) (wide : Bool) (b c v : Word) : State :=
  (((oldOf fn wide v).elim s (fun bs => s.pokeAt p bs)).atomicAt p fn wide b c).1

/-- Lanes of a VAMO that a device has answered, in the order of the message: their old values, and the state with their effects. -/
def State.mirrorLanes (s : State) (op : BitVec 3) : List VamoLane → List Byte → State × List (Nat × Word)
  | [], _ => (s, [])
  | l :: t, bs =>
    let (s1, got) := (s.mirrorAtomic l.loc (vamoFn op) true l.b 0 (wordAt bs 0)).mirrorLanes op t (bs.drop 8)
    (s1, (l.lane, wordAt bs 0) :: got)

/-- The answer of a device to a request: refused with no data; else the result, and what the model holds of the device's memory as the
answer says it stands (R117, R375, R404). A VAMO waits for the answers of all its devices. -/
def State.peerAnswer (s : State) (q : Req) (src : BitVec 17) (data : List Byte) (poison : Bool) : State :=
  let s1 := s.dropReq q
  let all := BitVec.allOnes 256
  if poison && data.isEmpty then s1.performRefused q
  else match q.op with
  | .load _ dst => ((if poison then s1 else s1.pokeAt q.loc data).acquired (q.acq.getD 0)).replyLoad q dst data poison
  | .store bs => s1.storeServed q q.loc bs
  | .note bs slot => (s1.storeServed q q.loc bs).noteDone q.loc slot
  | .atomic fn wide b c d =>
    let s2 := if poison then s1 else (s1.mirrorAtomic q.loc fn wide b c (wordAt data 0)).faddTraced q
    (s2.notePodWrite q.sid q.tag q.loc).reply q (.s d) ((wordAt data 0).setWidth 2048) all poison 0
  | .vamo op lanes t r bad got =>
    let far := fun (l : VamoLane) => s.otherDevice l.loc == some src
    let mine := lanes.filter far
    let rest := lanes.filter (fun l => !far l)
    let (s2, new) := if poison then (s1, mine.map (fun l => (l.lane, Config.freeWord s.choice))) else s1.mirrorLanes op mine data
    let q1 : Req := { q with op := .vamo op rest t r (bad || poison) (got ++ new), loc := (rest.head?.map VamoLane.loc).getD q.loc }
    if rest.isEmpty then s2.reply q (.row t r) (BitVec.ofNat 2048 (vamoGot (got ++ new))) (vamoGotSel (got ++ new)) (bad || poison) 0
    else { s2 with pkg := { s2.pkg with reqs := s2.pkg.reqs ++ [q1] } }
  | .arrive status d =>
    let s2 := if poison then s1 else ((s1.pokeAt q.loc (data.take 4)).arriveAt q.loc status).1
    (s2.notePodWrite q.sid q.tag q.loc).reply q (.s d) ((half32At data 0).setWidth 2048) all poison 0
  | _ => s1

/-- A response reaches the message it answers: the request, or a REJOIN, whose peer has then answered (R404, R412). -/
def State.response (s : State) (src : BitVec 17) (msn : BitVec 32) (data : List Byte) (poison : Bool) : State :=
  match s.pkg.sent.find? (fun x => x.dst == src && x.msn == msn) with
  | none => s
  | some x =>
    let s1 : State := { s with pkg := { s.pkg with sent := s.pkg.sent.erase x } }
    match x.body with
    | .rejoin => { s1 with pkg := { s1.pkg with rejoining := s1.pkg.rejoining.filter (fun d => d != src) } }
    | _ => match s1.pkg.reqs.find? (fun q => q.tag == x.tag) with
      | none => s1
      | some q => (s1.peerAnswer q src data poison).pruneFences

/-- A message is performed once; a duplicate gets the stored response, or waits with the first (R404). A management message is
acknowledged, and taken when its launch allows (R408). A recovered device serves no peer that has not answered its REJOIN (R412). -/
def State.receiveMsg (s : State) (src : BitVec 17) (inc : BitVec 4) (m : Msg) : State :=
  let wait := { s with pkg := { s.pkg with inbox := s.pkg.inbox ++ [(src, m)] } }
  match m.body with
  | .response data poison => s.response src m.msn data poison
  | .rejoin => s.soon .rejoin { dev := src, v := inc.setWidth 64, n := m.msn.toNat }
  | .manage _ => if s.pkg.rejoining.elem src then s else State.post wait src { msn := m.msn, body := .response [] false }
  | .request tt pa op =>
    if s.pkg.rejoining.elem src then s
    else match s.pkg.performed.find? (fun x => x.src == src && x.msn == m.msn) with
    | some x => s.post src { msn := m.msn, body := .response x.reply x.poison }
    | none =>
      if s.pkg.inbox.any (fun x => x.1 == src && x.2.msn == m.msn) then s
      else if s.peerWaits tt pa op then wait
      else s.performMsg src m.msn tt pa op

/-- Change a link. -/
def State.modLink (s : State) (p : Fin 32) (f : Link → Link) : State :=
  { s with pkg := { s.pkg with links := s.pkg.links.set p.val (f (s.pkg.links.get p)) p.isLt } }

/-- A frame acknowledged up to `lack` leaves the replay buffer; an old key whose last frame is acknowledged is cleared
(R406, R407). -/
def Link.acked (k : Link) (lack : BitVec 24) : Link :=
  let past := fun (q : BitVec 24) => decide ((lack - q).toNat < 2 ^ 23)
  let k1 : Link := { k with replay := k.replay.filter (fun f => !past f.lseq) }
  match k.oldUntil with
  | some q =>
    if past q then
      if k.kidx = 0 then { k1 with key1 := 0, oldUntil := none } else { k1 with key0 := 0, oldUntil := none }
    else k1
  | none => k1

/-- FRAME_RECEIVE (R402, R404, R406, R411): a frame comes in on port n. A bad frame or a gap asks for a retry; a frame received
before is dropped; of an incarnation that is not the recorded one every message but a REJOIN is dropped and counted (notes/assumptions 42:
DEDUCED). What its lack acknowledges makes room for messages that wait. -/
def execFrameReceive (s : State) : Out1 :=
  let p : Fin 32 := Fin.ofNat 32 s.ev.n
  let k := s.pkg.links.get p
  happen s (match s.ev.frame with
    | none => .hold .other
    | some f =>
      let retry := fun (s : State) => s.emit (.retryRequest (BitVec.ofNat 5 p.val) (k.rx + 1))
      if s.frameBad p f then .ok (retry (s.countDrop f.src))
      else
        let s1 := (s.modLink p (fun k => k.acked f.lack)).flush
        if f.lseq ≠ k.rx + 1 then
          .ok (if (f.lseq - (k.rx + 1)).toNat < 2 ^ 23 then retry s1 else s1)
        else
          let s2 := s1.modLink p (fun k => { k with rx := f.lseq, rxWraps := k.wrapsAt f.lseq })
          let known := decide (f.inc = s.incOf f.src)
          let taken := f.msgs.filter (fun m => known || m.body == .rejoin)
          let s3 := if taken.length < f.msgs.length then s2.countDrop f.src else s2
          .ok (taken.foldl (fun (s : State) m => s.receiveMsg f.src f.inc m) s3))

/-- A link is taken down: what its replay buffer holds goes out on other paths (R406). -/
def State.linkDown (s : State) (p : Fin 32) : State :=
  let k := s.pkg.links.get p
  let s1 := s.modLink p (fun k => { k with up := false, sameReplay := 0, replay := [] })
  (k.replay.map (fun f => f.msgs.map (fun m => (f.dst, m)))).flatten.foldl (fun (s : State) x => s.place x.1 x.2) s1

/-- LINK_RETRY (R406): the frames from lseq v on are sent again, unchanged; at the 16th replay from the same frame the link is
taken down. -/
def execLinkRetry (s : State) : Out1 :=
  let p : Fin 32 := Fin.ofNat 32 s.ev.n
  let q := s.ev.v.setWidth 24
  let k := s.pkg.links.get p
  happen s (if !k.up || !k.replay.any (fun f => f.lseq == q) then .hold .other
    else
      let n := if k.lastReplay = q then k.sameReplay + 1 else 1
      if 16 ≤ n then .ok (((s.linkDown p).acting 0 0).logError 9 3 16 0 0).1
      else
        let s1 := s.modLink p (fun k => { k with lastReplay := q, sameReplay := n })
        .ok ((k.replay.filter (fun f => decide ((f.lseq - q).toNat < 2 ^ 23))).foldl
          (fun (s : State) f => s.emit (.frame (BitVec.ofNat 5 p.val) f)) s1))

/-- LINK_RETRAINED (R406): the link of port n is back in service, and takes what waits. -/
def execLinkRetrained (s : State) : Out1 :=
  let p : Fin 32 := Fin.ofNat 32 s.ev.n
  happen s (if (s.pkg.links.get p).up then .hold .other else .ok ((s.modLink p (fun k => { k with up := true, sameReplay := 0 })).flush))

/-- The key of a slot of the other direction (R407), or none. -/
def Link.peerKey (k : Link) (slot : Bool) (key : Option (BitVec 256)) : Link :=
  let v := key.getD 0
  { k with
    peerKey0 := if slot then k.peerKey0 else v
    peerKey1 := if slot then v else k.peerKey1
    peerHas := if key.isSome then k.peerHas ||| (if slot then 2 else 1) else k.peerHas &&& (if slot then 1 else 2) }

/-- KEY_ROTATION (R407): the new key goes into the unused slot and new frames use it; the old one stays until its last frame
is acknowledged. w[0] says that the other direction's slot v[0] takes the key, or with w[1] loses it. -/
def execKeyRotation (s : State) : Out1 :=
  let p : Fin 32 := Fin.ofNat 32 s.ev.n
  let k := s.pkg.links.get p
  happen s (if s.ev.w.getLsbD 0 then
      .ok (s.modLink p (fun k => k.peerKey (s.ev.v.getLsbD 0) (if s.ev.w.getLsbD 1 then none else some s.ev.key)))
    else if k.oldUntil.isSome then .hold .other
    else .ok (s.modLink p (fun k =>
      if k.kidx = 0 then { k with key1 := s.ev.key, kidx := 1, oldUntil := some k.tx }
      else { k with key0 := s.ev.key, kidx := 0, oldUntil := some k.tx })))

/-- A message whose response is overdue by 100 µs. -/
def State.overdue (s : State) : Option Sent := s.pkg.sent.find? (fun x => isResent x.body && decide (x.sentAt + 100000 ≤ s.ptime.toNat))

/-- MESSAGE_RESEND (R404, R405): an overdue message is sent again with its number; after eight resends its device is lost. -/
def execMessageResend (s : State) : Out1 :=
  happen s (match s.overdue with
    | none => .hold .other
    | some x =>
      if 8 ≤ x.resends then .ok (s.lose x.dst)
      else
        let s1 : State := { s with pkg := { s.pkg with
          sent := s.pkg.sent.map (fun y => if y = x then { y with resends := y.resends + 1, sentAt := s.ptime.toNat } else y) } }
        .ok (s1.post x.dst { msn := x.msn, body := x.body }))

/-! ## Recovery and rejoin (R411, R412) -/

/-- The other devices of the pod. -/
def State.podDevices (s : State) : List (BitVec 17) :=
  ((List.range 64).map (fun i => podOf s.core.device ++ BitVec.ofNat 6 i)).filter (fun d => d != s.core.device)

/-- DEVICE_RECOVERY (R411, R412): with no launch left, the next incarnation is taken, copies are discarded, and REJOIN goes to
every device of the pod (notes/assumptions 33: DEDUCED). -/
def execDeviceRecovery (s : State) : Out1 :=
  happen s (if !s.pkg.launches.isEmpty then .hold .other
    else
      let s1 : State := { s with
        core := { s.core with replicas := [], asks := [] }
        pkg := { s.pkg with
          inc := s.pkg.inc + 1
          lines := []
          msc := []
          hcache := []
          inbox := []
          dirty := s.pkg.dirty.filter (fun x => decide (x.1 / 2 ^ 46 = 1))
          rejoining := s.podDevices
          rejoinAt := s.ptime.toNat } }
      .ok (s.podDevices.foldl (fun (s : State) d => s.sendKept d .rejoin 0) s1))

/-- REJOIN (R412): device `dev` has incarnation v[3:0]: the record, what was held under the old one, the refusal, the answer to its
message n. The numbers of the messages performed for it stay (R404). -/
def execRejoin (s : State) : Out1 :=
  let d := s.ev.dev
  let s1 : State := { s with
    core := { s.core with leases := s.core.leases.filter (fun l => l.dev != d) }
    pkg := { s.pkg with
      incs := (d, s.ev.v.setWidth 4) :: s.pkg.incs.filter (fun x => x.1 != d)
      lost := s.pkg.lost.filter (fun x => x != d) } }
  happen s (.ok (s1.post d { msn := BitVec.ofNat 32 s.ev.n, body := .response [] false }))

/-- REJOIN_TIMEOUT (R412): a peer that has not answered within 10 ms is lost; it is served only once it has answered. -/
def execRejoinTimeout (s : State) : Out1 :=
  happen s (if s.pkg.rejoining.elem s.ev.dev && !s.pkg.lost.elem s.ev.dev && decide (s.pkg.rejoinAt + 10000000 ≤ s.ptime.toNat) then .ok (s.lose s.ev.dev) else .hold .other)

/-! ## Pod time (R409) -/

/-- PTIME_OUT_OF_BOUND (R409): no lease is granted or used until the estimate is back; logged. -/
def execPtimeOutOfBound (s : State) : Out1 :=
  happen s (if !s.pkg.ptimeOk then .hold .other
    else .ok (({ s with pkg := { s.pkg with ptimeOk := false } } : State).logError 9 1 0 s.ptime 0).1)

/-- PTIME_WITHIN_BOUND (R409). -/
def execPtimeWithinBound (s : State) : Out1 :=
  happen s (if s.pkg.ptimeOk then .hold .other else .ok { s with pkg := { s.pkg with ptimeOk := true } })

/-! ## Bring-up, power, management (R418, R419) -/

/-- The carve-outs and the numbers that bring-up names: 16 bytes each, the die in bits [34:32] and the offset in [29:0] of the
first word, the size in the second. -/
def carveOf : Nat → List Byte → List (BitVec 3 × Nat × Nat)
  | 0, _ => []
  | n + 1, b => (seg (wordAt b 0) 32 3, (seg (wordAt b 0) 0 30).toNat, (wordAt b 8).toNat) :: carveOf n (b.drop 16)

/-- DMCFG as bring-up writes it: the units that hold the carve-outs of each die (R377). -/
def dmcfgOf (l : List (BitVec 3 × Nat × Nat)) : Vector Word 8 :=
  Vector.ofFn (fun (i : Fin 8) => w64 (min 12 ((l.filter (fun x => x.1.toNat == i.val)).foldl (fun a x => max a ((x.2.1 + x.2.2 + 2 ^ 26 - 1) / 2 ^ 26)) 0)))

/-- What keeps its contents without power: the memory beyond the package (notes/assumptions 35: DESIGN CHOICE). -/
def keptMem (m : Mem) : Mem := m.filter (fun c => decide (c.1 < 2 ^ 52) || decide (3 * 2 ^ 52 ≤ c.1))

/-- POWER_UP (R418): the next bring-up step runs; bit 0 of w says that it fails, with no effect but that bring-up halts. From power loss,
step 1 runs on a reset device. Step 1 takes the device number `dev` and the core number n, step 5 the carve-outs in `data`, which fail it
beyond 4 GiB (R383); step 7 makes the default partition of what step 6 loaded (notes/assumptions 36: DESIGN CHOICE). -/
def execPowerUp (s0 : State) : Out1 :=
  let l := carveOf (s0.ev.data.length / 16) s0.ev.data
  let big := s0.pkg.bringUp = 4 && decide (2 ^ 32 < l.foldl (fun a x => a + x.2.2) 0)
  let put := fun (s : State) (n : Nat) => if s0.ev.w.getLsbD 0 || (n == 5 && big) then
      let b : State := if s0.pkg.powered then s0 else s
      { b with pkg := { b.pkg with failed := true, bringUp := n - 1 } }
    else { s with pkg := { s.pkg with bringUp := n } }
  let s := s0
  happen s (if !s.pkg.powered then
      let s0 : State := { State.reset with mem := keptMem s.mem, choice := s.choice, agenda := s.agenda }
      .ok (put { s0 with core := { s0.core with device := s.ev.dev, core := BitVec.ofNat 10 s.ev.n } } 1)
    else if s.pkg.failed then .hold .other
    else match s.pkg.bringUp with
      | 0 => .ok (put { s with core := { s.core with device := s.ev.dev, core := BitVec.ofNat 10 s.ev.n } } 1)
      | 1 => .ok (put s 2)
      | 2 => .ok (put s 3)
      | 3 => .ok (put s 4)
      | 4 =>
        .ok (put { s with pkg := { s.pkg with
          carve := l
          dmcfg := dmcfgOf l
          ptimeBase := s.ev.v.toNat
          links := s.pkg.links.map (fun k => { k with up := true }) } } 5)
      | 6 =>
        .ok (match s.part 0 with
          | some p => put (s.setPart 0 (BitVec.allOnes 1024) p.satp p.stvec p.ver) 7
          | none => s)
      | _ => .hold .other)

/-- SUPERVISOR_IMAGE_LOAD (R362, R418): bring-up's step 6; it waits until the magic of the descriptor at window offset 0
matches. -/
def execSupervisorImageLoad (s : State) : Out1 :=
  happen s (if s.pkg.bringUp ≠ 5 ∨ s.pkg.failed then .hold .other
    else match s.winRead 0 64 with
      | none => .hold .other
      | some b =>
        if seg (wordAt b 0) 0 32 ≠ 0x53444331 then .hold .other
        else match s.loadImage 0 (wordAt b 32) with
          | .error _ => .ok { s with pkg := { s.pkg with failed := true } }
          | .ok (s1, stvec, ver) =>
            let s2 := s1.setPart 0 0 (wordAt b 32) stvec ver
            .ok { s2 with pkg := { s2.pkg with bringUp := 6 } })

/-- PLDM_REQUEST (R419): a management request of type n is answered from step 1 of bring-up on: of type 2 sensor w, of which 0 is the
bring-up step, 1 the error-log count, the others temperatures and currents, free values; of type 5, firmware update, whose effect the spec
does not give, a free word. Other types are not carried (notes/assumptions 37: DESIGN CHOICE). -/
def execPldmRequest (s : State) : Out1 :=
  let v : Word := match s.ev.n, s.ev.w with
    | 2, 0 => w64 (s.pkg.bringUp + bit s.pkg.failed)
    | 2, 1 => w64 (s.core.errs.foldl (fun a e => a + e.count.toNat) 0)
    | _, _ => Config.freeWord s.choice
  happen s (if (s.ev.n ≠ 2 ∧ s.ev.n ≠ 5) ∨ (s.pkg.bringUp = 0 ∧ !s.pkg.failed) then .hold .other
    else .ok (({ s with choice := s.choice + 1 } : State).emit (.pldm (BitVec.ofNat 6 s.ev.n) v)))

/-- POWER_LOSS (R419): the device is silent until step 1 of bring-up. -/
def execPowerLoss (s : State) : Out1 := happen s (.ok { s with pkg := { s.pkg with powered := false } })

end Sys2Proof.Machine
end

