-- ==== Sys2Proof/Machine/Due.lean ====
section
/-! DEFINITION. Which of the machine's own events may come now, between two issue cycles, with their operands, in the order in
which they are tried: the asynchronous events of a boundary first (21 R388), then refresh, what has reached its home or its
strand, the engines, scheduling and firmware. -/

namespace Sys2Proof.Machine

/-- An event with its operands. -/
abbrev Event := EvArgs × Instr

/-- An event with no operands, if its condition holds. -/
def evIf (b : Bool) (i : Instr) : List Event := if b then [({}, i)] else []

/-- The asynchronous events that may be taken at a boundary, in the order of R388. -/
def State.dueAsync (s : State) : List Event :=
  evIf (!s.core.mchecks.isEmpty) .machineCheck
    ++ evIf (s.core.dlkDue.isSome || (s.core.stuckSince.isSome && !s.core.reported)) .deadlock
    ++ evIf (!s.core.retriesDue.isEmpty) .retryExhausted
    ++ (if s.core.preemptDue then s.pkg.parts.filterMap (fun p => p.pslot.map (fun x => (({ n := x.toNat } : EvArgs), Instr.preempt))) else [])
    ++ evIf s.cur.stepDue .stepStop
    ++ evIf s.cur.quantumSpent .quantumExpiry

/-- The event that serves a request at its home, or the host's answer before it. -/
def State.serves (s : State) (q : Req) : Instr :=
  if s.viaHost q then .hostResponse
  else match q.op with
  | .ack => .writeAcknowledgement
  | .atomic _ _ _ _ _ => .atomicPerform
  | .vamo _ _ _ _ _ _ => .atomicPerform
  | .arrive _ _ => .objectArrival
  | _ => .accessAtHome

/-- Items of a list with their places. -/
def numbered {α : Type} (n : Nat) : List α → List (Nat × α)
  | [] => []
  | x :: t => (n, x) :: numbered (n + 1) t

/-- The requests whose time has come (R92, R256), those of peers that have waited, and lines that the host gives up (R383). -/
def State.dueReqs (s : State) : List Event :=
  ((numbered 0 s.pkg.reqs).filter (fun x => decide (x.2.due ≤ s.core.cyc))).map (fun x => (({ n := x.1 } : EvArgs), s.serves x.2))
    ++ (numbered 0 s.pkg.inbox).map (fun x => (({ n := x.1, w := 1 } : EvArgs), Instr.peerRequest))
    ++ s.pkg.hostLines.map (fun l => (({ v := w64 l, w := 1 } : EvArgs), Instr.hostResponse))

/-- The deliveries whose time has come (R15, R219, R390). -/
def State.dueDlvs (s : State) : List Event :=
  ((numbered 0 s.pkg.dlvs).filter (fun x => s.isDue x.2.due)).map (fun x => (({ n := x.1 } : EvArgs), Instr.longLatencyDelivery))
    ++ evIf (!s.core.solves.isEmpty) .solveDelivery

/-- The waits that may be asked, woken or timed out (R278-R282). -/
def State.dueWaits (s : State) : List Event :=
  (s.strands.map (fun x => match x.wait with
    | none => []
    | some w =>
      let e : EvArgs := { id := x.id }
      (if s.waitDue x w then [(e, Instr.waitRequest)] else []) ++ (if s.wakes x w then [(e, Instr.wake)] else [])
        ++ (if s.waitOver w then [(e, Instr.waitTimeout)] else []))).flatten

/-- Whether an engine operation goes by itself: not a collective that needs what other members contribute (R290, R291, R294). -/
def State.alone (s : State) (o : EngOp) : Bool :=
  o.kind != .coll || o.ended || s.collEnds o || decide ((s.groupOf o o.desc.grp).length < 2)

/-- The engines: streams, copies of steps, engine operations, the matrix unit (R109, R231, R245, R285). -/
def State.dueEngines (s : State) : List Event :=
  ((List.finRange 4).filter (fun k => s.mayPrefetch k && decide ((s.cur.streams.get k).due ≤ s.core.cyc))).map
      (fun k => (({ n := k.val } : EvArgs), Instr.streamPrefetch))
    ++ ((List.finRange 4).filter (fun k => s.swapped.mayPrefetch k && decide ((s.oth.streams.get k).due ≤ s.core.cyc))).map
      (fun k => (({ n := 4 + k.val } : EvArgs), Instr.streamPrefetch))
    ++ evIf (s.core.mloads.head?.any (fun m => decide (m.due ≤ s.core.cyc))) .mloadpCopy
    ++ (s.core.ops.filter (fun o => decide (o.due ≤ s.core.cyc) && s.alone o)).map (fun o => (({ n := o.slot } : EvArgs), Instr.engineCompletion))
    ++ evIf (s.ending.any (fun m => decide (m.due ≤ s.core.cyc))) .matrixCallEnd
    ++ (match s.core.calls with
      | [] => []
      | m :: _ =>
        if decide (s.core.cyc < m.due) || (s.callEnd m).isSome then []
        else if !m.started then [({}, .matrixCallStart)]
        else match s.stepWord m m.step with
          | some i => [({}, i)]
          | none => [])

/-- The suspensions of a bundle that has been held (R11, R310, R322); a blocked one suspends where it is found blocked again
(R41, State.holdAs). -/
def State.dueSuspends (s : State) : List Event :=
  evIf (s.stuckFor .irrevocable || (s.cur.why == .version && s.cur.level == .u && s.cur.strand.isSome)) .irrevocableSuspend
    ++ evIf (s.stuckFor .tserial) .tserialSuspend
    ++ evIf (s.stuckFor .idless) .tspawnIdSuspend

/-- Whether some strand of the device is an ordered task, or a seam is known: the seam pulse has something to do. -/
def State.anyDomain (s : State) : Bool := s.strands.any (fun x => x.ord) || !s.pkg.seam.isEmpty

/-- Whether a die may steal (R352): its queue empty of work for our core, another die's queue not. -/
def State.dueSteals (s : State) : List Event :=
  if s.pkg.strands.isEmpty ∨ s.transferable.isSome then []
  else if s.core.inPart.isSome && s.cur.idle && s.oth.idle then
    (List.range 8).map (fun d => (({ n := s.die.toNat, v := w64 d } : EvArgs), Instr.dieSteal))
  else []

/-- Whether a release at pod scope waits, or that of a launch's end, so that the modified pooled lines go home at once (R95, R359). -/
def State.podPressing (s : State) : Bool := !s.podReleases.isEmpty || s.pkg.launches.any s.launchIdle

/-- The modified lines that are written back now (R94, R95), and the tiles whose modified rows go home (R30, R96). -/
def State.dueLines (s : State) : List Event :=
  let ev := fun (n : Nat) (key : BitVec 8) => (({ n := n, w := key.setWidth 64, dev := s.core.device } : EvArgs), Instr.lineWriteback)
  let pressing := s.podPressing
  (s.pkg.lines.filter (fun x => x.due.any (fun t => pressing || decide (t ≤ s.core.cyc)))).map (fun x => ev x.line x.key)
    ++ (s.pkg.dirty.filter (fun x => decide (x.2 ≤ s.core.cyc))).map (fun x => ev x.1 0)
    ++ (s.core.replicas.filter (fun r => r.due.any (fun t => decide (t ≤ s.core.cyc)))).map
      (fun r => (({ v := r.tile.setWidth 64, w := 1 <<< 63 } : EvArgs), Instr.lineWriteback))
    ++ (s.core.dir.filter (fun e => e.due.any (fun t => decide (t ≤ s.core.cyc)))).map
      (fun e => (({ v := e.tile.setWidth 64, w := 1 <<< 62 } : EvArgs), Instr.lineWriteback))

/-- Timers of the core and of scheduling (R14, R27, R48, R49, R94, R106, R312, R313, R377). -/
def State.dueTimers (s : State) : List Event :=
  evIf (decide (s.core.refreshed < s.core.isc / 1024)) .refresh
    ++ evIf (s.cur.expires s.core.cyc || s.oth.expires s.core.cyc) .rowExpiry
    ++ evIf (s.anyDomain && decide (s.pkg.pulses < s.core.cyc / 64)) .seamPulse
    ++ evIf s.faultedOldest.isSome .faultedTaskRequeue
    ++ evIf (s.pkg.strands.any s.aged) .agingPromotion
    ++ evIf s.leaseDue .leaseExpiry
    ++ s.dueLines
    ++ evIf (s.saveDue s.cur || s.saveDue s.oth) .contextSave
    ++ (s.pkg.dmBusy.filter (fun x => decide (x.2.2 ≤ s.core.cyc))).map (fun x => (({ n := x.1.toNat } : EvArgs), Instr.dmcfgWrite))
    ++ evIf s.handlerReady .arrivalHandlerCreate
    ++ evIf s.transferable.isSome .queueTransfer
    ++ s.dueSteals

/-- The event of a command by its op (R361). -/
def commandOf (op : Nat) : Instr :=
  match op with
  | 1 => .launch
  | 2 => .preempt
  | 3 => .resume
  | 4 => .teardown
  | 5 => .resetq
  | 6 => .query
  | 7 => .step
  | 8 => .break_
  | 9 => .record
  | 10 => .replay
  | 11 => .partition
  | 12 => .keyload
  | 13 => .bias
  | 14 => .errlog
  | _ => .unknownCommand

/-- The host writes that replays feed at their places (R417). -/
def State.dueFeeds (s : State) : List Event :=
  (s.pkg.launches.filter (fun l => l.phase == .live)).filterMap (fun l => match l.feed with
    | (0, b) :: _ =>
      if s.meetsOwned (wordAt b 0).toNat (b.length - 8) then none
      else some (({ v := wordAt b 0, data := b.drop 8 } : EvArgs), Instr.hostWrite)
    | _ => none)

/-- Firmware and fabric by themselves: commands handed over, launches that time out or end, overdue messages and peers
(R22, R359, R361, R404, R412). -/
def State.dueFirmware (s : State) : List Event :=
  (if s.pkg.carve.isEmpty then [] else s.waitingCmds.map (fun x => (({ n := x.1 } : EvArgs), commandOf (slotOp x.2))))
    ++ (s.pkg.launches.filter (fun l => s.launchOver l && !l.ended.elem s.core.device)).map
      (fun l => (({ w := l.word, dev := s.core.device } : EvArgs), Instr.launchEnd))
    ++ (s.pkg.launches.filter (fun l => l.phase != .live && decide (l.since + 10000000 ≤ s.ptime.toNat))).map
      (fun l => (({ w := l.word } : EvArgs), Instr.startTimeout))
    ++ s.pkg.bias.toList.map (fun j => (({ n := j.slot.toNat } : EvArgs), Instr.bias))
    ++ s.dueFeeds
    ++ evIf s.overdue.isSome .messageResend
    ++ (if s.pkg.rejoinAt + 10000000 ≤ s.ptime.toNat then s.pkg.rejoining.map (fun d => (({ dev := d } : EvArgs), Instr.rejoinTimeout)) else [])

/-- Every event that may come by itself now (notes/assumptions 6: DESIGN CHOICE). -/
def State.dueEvents (s : State) : List Event :=
  s.dueAsync ++ s.dueTimers ++ s.dueReqs ++ s.dueDlvs ++ s.dueWaits ++ s.dueEngines ++ s.dueSuspends ++ s.dueFirmware

end Sys2Proof.Machine
end

