-- ==== Sys2Proof/Machine/Scalar.lean ====
section
/-! DEFINITION. Scalar arithmetic, immediates and constants: SALU, SIMM, MOVI, MOVL (07 R166-R173, 03 R75). -/

namespace Sys2Proof.Machine

/-- A Bool as a 64-bit word. -/
def boolWord (b : Bool) : Word := if b then 1 else 0

/-- A 32-bit result, sign-extended. -/
def sextW (x : BitVec 32) : Word := x.signExtend 64

/-- Leading zeros of a word: 64 for 0. -/
def clzW (a : Word) : Nat := 64 - (if a = 0 then 0 else Nat.log2 a.toNat + 1)

/-- Trailing zeros of a word: 64 for 0. -/
def ctzW (a : Word) : Nat := ((List.range 64).find? (fun i => a.getLsbD i)).getD 64

/-- The count of 1 bits of a word. -/
def popcW (a : Word) : Nat := countTrue ((List.range 64).map a.getLsbD)

/-- The bytes of a word in reverse order. -/
def bswapW (a : Word) : Word := w64 (ofBytes (leBytes 8 a.toNat).reverse)

/-- A word that reads its destination as a third source: an EMPTY one blocks (R169, R172, R173). -/
def State.scalarMod (s : State) (d : BitVec 5) (srcs : List Src) (f : Word → Word) : Res :=
  s.withSrcs (srcs ++ [.s d false]) fun _ => .ok (s.pushS 1 d (f (s.rs d)))

/-- A division: the destination marked EMPTY, the value delivered at an issue cycle from c + 4 to c + 68 (R170). -/
def State.divide (s : State) (d a b : BitVec 5) (wa wb : BitVec 1) (f : Word → Word → Word) : Res :=
  s.withSrcs [.s a (wa == 1), .s b (wb == 1)] fun _ =>
    let (n, s1) := s.draw
    .ok (s1.producer d (fun tag s2 => s2.deliverS tag d (f (s.rs a) (s.rs b)) (.issue (s.core.isc + 4 + n % 65))))

/-- Quotient, rounded toward zero; -1 by 0; the most negative by -1 is itself (R75). -/
def divW (a b : Word) : Word := if b = 0 then BitVec.allOnes 64 else BitVec.ofInt 64 (a.toInt.tdiv b.toInt)

/-- Unsigned quotient; all ones by 0 (R75). -/
def divuW (a b : Word) : Word := if b = 0 then BitVec.allOnes 64 else w64 (a.toNat / b.toNat)

/-- Remainder with the sign of the dividend; the dividend by 0 (R75). -/
def remW (a b : Word) : Word := if b = 0 then a else BitVec.ofInt 64 (a.toInt.tmod b.toInt)

/-- Unsigned remainder; the dividend by 0 (R75). -/
def remuW (a b : Word) : Word := if b = 0 then a else w64 (a.toNat % b.toNat)

/-- ADD (R167). -/
def execAdd (d a b : BitVec 5) (wa wb : BitVec 1) (s : State) : Out1 :=
  finish s (s.scalar2 1 d a b wa wb (fun a b => a + b))

/-- SUB (R167). -/
def execSub (d a b : BitVec 5) (wa wb : BitVec 1) (s : State) : Out1 :=
  finish s (s.scalar2 1 d a b wa wb (fun a b => a - b))

/-- AND (R167). -/
def execAnd (d a b : BitVec 5) (wa wb : BitVec 1) (s : State) : Out1 :=
  finish s (s.scalar2 1 d a b wa wb (fun a b => a &&& b))

/-- OR (R167). -/
def execOr (d a b : BitVec 5) (wa wb : BitVec 1) (s : State) : Out1 :=
  finish s (s.scalar2 1 d a b wa wb (fun a b => a ||| b))

/-- XOR (R167). -/
def execXor (d a b : BitVec 5) (wa wb : BitVec 1) (s : State) : Out1 :=
  finish s (s.scalar2 1 d a b wa wb (fun a b => a ^^^ b))

/-- ANDN (R167). -/
def execAndn (d a b : BitVec 5) (wa wb : BitVec 1) (s : State) : Out1 :=
  finish s (s.scalar2 1 d a b wa wb (fun a b => a &&& ~~~b))

/-- ORN (R167). -/
def execOrn (d a b : BitVec 5) (wa wb : BitVec 1) (s : State) : Out1 :=
  finish s (s.scalar2 1 d a b wa wb (fun a b => a ||| ~~~b))

/-- SHL (R167). -/
def execShl (d a b : BitVec 5) (wa wb : BitVec 1) (s : State) : Out1 :=
  finish s (s.scalar2 1 d a b wa wb (fun a b => a <<< (b.toNat % 64)))

/-- SHR (R167). -/
def execShr (d a b : BitVec 5) (wa wb : BitVec 1) (s : State) : Out1 :=
  finish s (s.scalar2 1 d a b wa wb (fun a b => a >>> (b.toNat % 64)))

/-- SRA (R167). -/
def execSra (d a b : BitVec 5) (wa wb : BitVec 1) (s : State) : Out1 :=
  finish s (s.scalar2 1 d a b wa wb (fun a b => a.sshiftRight (b.toNat % 64)))

/-- ROR (R167). -/
def execRor (d a b : BitVec 5) (wa wb : BitVec 1) (s : State) : Out1 :=
  finish s (s.scalar2 1 d a b wa wb (fun a b => a.rotateRight (b.toNat % 64)))

/-- MUL (R167). -/
def execMul (d a b : BitVec 5) (wa wb : BitVec 1) (s : State) : Out1 :=
  finish s (s.scalar2 3 d a b wa wb (fun a b => a * b))

/-- MULH (R167). -/
def execMulh (d a b : BitVec 5) (wa wb : BitVec 1) (s : State) : Out1 :=
  finish s (s.scalar2 3 d a b wa wb (fun a b => BitVec.ofInt 64 (a.toInt * b.toInt / 2 ^ 64)))

/-- MULHU (R167). -/
def execMulhu (d a b : BitVec 5) (wa wb : BitVec 1) (s : State) : Out1 :=
  finish s (s.scalar2 3 d a b wa wb (fun a b => w64 (a.toNat * b.toNat / 2 ^ 64)))

/-- MIN (R167). -/
def execMin (d a b : BitVec 5) (wa wb : BitVec 1) (s : State) : Out1 :=
  finish s (s.scalar2 1 d a b wa wb (fun a b => if b.slt a then b else a))

/-- MAX (R167). -/
def execMax (d a b : BitVec 5) (wa wb : BitVec 1) (s : State) : Out1 :=
  finish s (s.scalar2 1 d a b wa wb (fun a b => if a.slt b then b else a))

/-- MINU (R167). -/
def execMinu (d a b : BitVec 5) (wa wb : BitVec 1) (s : State) : Out1 :=
  finish s (s.scalar2 1 d a b wa wb (fun a b => if b.ult a then b else a))

/-- MAXU (R167). -/
def execMaxu (d a b : BitVec 5) (wa wb : BitVec 1) (s : State) : Out1 :=
  finish s (s.scalar2 1 d a b wa wb (fun a b => if a.ult b then b else a))

/-- SLT (R167). -/
def execSlt (d a b : BitVec 5) (wa wb : BitVec 1) (s : State) : Out1 :=
  finish s (s.scalar2 1 d a b wa wb (fun a b => boolWord (a.slt b)))

/-- SLTU (R167). -/
def execSltu (d a b : BitVec 5) (wa wb : BitVec 1) (s : State) : Out1 :=
  finish s (s.scalar2 1 d a b wa wb (fun a b => boolWord (a.ult b)))

/-- SEQ (R167). -/
def execSeq (d a b : BitVec 5) (wa wb : BitVec 1) (s : State) : Out1 :=
  finish s (s.scalar2 1 d a b wa wb (fun a b => boolWord (a == b)))

/-- SNE (R167). -/
def execSne (d a b : BitVec 5) (wa wb : BitVec 1) (s : State) : Out1 :=
  finish s (s.scalar2 1 d a b wa wb (fun a b => boolWord (a != b)))

/-- ADDW (R167). -/
def execAddw (d a b : BitVec 5) (wa wb : BitVec 1) (s : State) : Out1 :=
  finish s (s.scalar2 1 d a b wa wb (fun a b => sextW (a.setWidth 32 + b.setWidth 32)))

/-- SUBW (R167). -/
def execSubw (d a b : BitVec 5) (wa wb : BitVec 1) (s : State) : Out1 :=
  finish s (s.scalar2 1 d a b wa wb (fun a b => sextW (a.setWidth 32 - b.setWidth 32)))

/-- MULW (R167). -/
def execMulw (d a b : BitVec 5) (wa wb : BitVec 1) (s : State) : Out1 :=
  finish s (s.scalar2 3 d a b wa wb (fun a b => sextW (a.setWidth 32 * b.setWidth 32)))

/-- SHLW (R167). -/
def execShlw (d a b : BitVec 5) (wa wb : BitVec 1) (s : State) : Out1 :=
  finish s (s.scalar2 1 d a b wa wb (fun a b => sextW (a.setWidth 32 <<< (b.toNat % 32))))

/-- SHRW (R167). -/
def execShrw (d a b : BitVec 5) (wa wb : BitVec 1) (s : State) : Out1 :=
  finish s (s.scalar2 1 d a b wa wb (fun a b => sextW (a.setWidth 32 >>> (b.toNat % 32))))

/-- SRAW (R167). -/
def execSraw (d a b : BitVec 5) (wa wb : BitVec 1) (s : State) : Out1 :=
  finish s (s.scalar2 1 d a b wa wb (fun a b => sextW ((a.setWidth 32).sshiftRight (b.toNat % 32))))

/-- DIV (R75, R170). -/
def execDiv (d a b : BitVec 5) (wa wb : BitVec 1) (s : State) : Out1 :=
  finish s (s.divide d a b wa wb divW)

/-- DIVU (R75, R170). -/
def execDivu (d a b : BitVec 5) (wa wb : BitVec 1) (s : State) : Out1 :=
  finish s (s.divide d a b wa wb divuW)

/-- REM (R75, R170). -/
def execRem (d a b : BitVec 5) (wa wb : BitVec 1) (s : State) : Out1 :=
  finish s (s.divide d a b wa wb remW)

/-- REMU (R75, R170). -/
def execRemu (d a b : BitVec 5) (wa wb : BitVec 1) (s : State) : Out1 :=
  finish s (s.divide d a b wa wb remuW)

/-- CLZ (R167). -/
def execClz (d a : BitVec 5) (wa : BitVec 1) (s : State) : Out1 :=
  finish s (s.scalar1 1 d a wa (fun a => w64 (clzW a)))

/-- CTZ (R167). -/
def execCtz (d a : BitVec 5) (wa : BitVec 1) (s : State) : Out1 :=
  finish s (s.scalar1 1 d a wa (fun a => w64 (ctzW a)))

/-- POPC (R167). -/
def execPopc (d a : BitVec 5) (wa : BitVec 1) (s : State) : Out1 :=
  finish s (s.scalar1 1 d a wa (fun a => w64 (popcW a)))

/-- BSWAP (R167). -/
def execBswap (d a : BitVec 5) (wa : BitVec 1) (s : State) : Out1 :=
  finish s (s.scalar1 1 d a wa (fun a => bswapW a))

/-- The width that sub names for SEXT and ZEXT (R147, R167). -/
def extBits (sb : BitVec 3) : Nat := if sb = 0 then 8 else if sb = 1 then 16 else 32

/-- SEXT (R167). -/
def execSext (d a : BitVec 5) (wa : BitVec 1) (sb : BitVec 3) (s : State) : Out1 :=
  finish s (s.scalar1 1 d a wa (sext64 (extBits sb)))

/-- ZEXT (R167). -/
def execZext (d a : BitVec 5) (wa : BitVec 1) (sb : BitVec 3) (s : State) : Out1 :=
  finish s (s.scalar1 1 d a wa (zext64 (extBits sb)))

/-- LEA (R167): a + (b << sub). -/
def execLea (d a b : BitVec 5) (wa wb : BitVec 1) (sb : BitVec 3) (s : State) : Out1 :=
  finish s (s.scalar2 1 d a b wa wb (fun a b => a + (b <<< sb.toNat)))

/-- CMOVZ (R167, R169): d is read and always written. -/
def execCmovz (d a b : BitVec 5) (wa wb : BitVec 1) (s : State) : Out1 :=
  finish s (s.scalarMod d [.s a (wa == 1), .s b (wb == 1)] (fun old => if s.rs b = 0 then s.rs a else old))

/-- CMOVNZ (R167, R169). -/
def execCmovnz (d a b : BitVec 5) (wa wb : BitVec 1) (s : State) : Out1 :=
  finish s (s.scalarMod d [.s a (wa == 1), .s b (wb == 1)] (fun old => if s.rs b ≠ 0 then s.rs a else old))

/-! ## SIMM (R171) -/

/-- ADDI (R171). -/
def execAddi (d a : BitVec 5) (imm : BitVec 13) (s : State) : Out1 :=
  finish s (s.scalar1 1 d a 0 (fun a => a + imm.signExtend 64))

/-- ANDI (R171). -/
def execAndi (d a : BitVec 5) (imm : BitVec 13) (s : State) : Out1 :=
  finish s (s.scalar1 1 d a 0 (fun a => a &&& imm.signExtend 64))

/-- ORI (R171). -/
def execOri (d a : BitVec 5) (imm : BitVec 13) (s : State) : Out1 :=
  finish s (s.scalar1 1 d a 0 (fun a => a ||| imm.signExtend 64))

/-- XORI (R171). -/
def execXori (d a : BitVec 5) (imm : BitVec 13) (s : State) : Out1 :=
  finish s (s.scalar1 1 d a 0 (fun a => a ^^^ imm.signExtend 64))

/-- SLTI (R171). -/
def execSlti (d a : BitVec 5) (imm : BitVec 13) (s : State) : Out1 :=
  finish s (s.scalar1 1 d a 0 (fun a => boolWord (a.slt (imm.signExtend 64))))

/-- SLTIU (R171). -/
def execSltiu (d a : BitVec 5) (imm : BitVec 13) (s : State) : Out1 :=
  finish s (s.scalar1 1 d a 0 (fun a => boolWord (a.ult (imm.signExtend 64))))

/-- SHLI (R171). -/
def execShli (d a : BitVec 5) (n : BitVec 6) (s : State) : Out1 :=
  finish s (s.scalar1 1 d a 0 (fun a => a <<< n.toNat))

/-- SHRI (R171). -/
def execShri (d a : BitVec 5) (n : BitVec 6) (s : State) : Out1 :=
  finish s (s.scalar1 1 d a 0 (fun a => a >>> n.toNat))

/-- SRAI (R171). -/
def execSrai (d a : BitVec 5) (n : BitVec 6) (s : State) : Out1 :=
  finish s (s.scalar1 1 d a 0 (fun a => a.sshiftRight n.toNat))

/-! ## MOVI and MOVL (R172, R173) -/

/-- MOVZ (R172). -/
def execMovz (d : BitVec 5) (hw : BitVec 2) (imm : BitVec 16) (s : State) : Out1 :=
  finish s (.ok (s.pushS 1 d (imm.setWidth 64 <<< (16 * hw.toNat))))

/-- MOVK (R172): 16 bits of d replaced; an EMPTY d blocks. -/
def execMovk (d : BitVec 5) (hw : BitVec 2) (imm : BitVec 16) (s : State) : Out1 :=
  finish s (s.scalarMod d [] (fun old => setSeg old (16 * hw.toNat) imm))

/-- MOVN (R172). -/
def execMovn (d : BitVec 5) (hw : BitVec 2) (imm : BitVec 16) (s : State) : Out1 :=
  finish s (.ok (s.pushS 1 d (~~~(imm.setWidth 64 <<< (16 * hw.toNat)))))

/-- MOVL (R173): the literal, zero-extended. -/
def execMovl (d : BitVec 5) (x : BitVec 32) (s : State) : Out1 := finish s (.ok (s.pushS 1 d (x.setWidth 64)))

/-- MOVL.S (R173): the literal, sign-extended. -/
def execMovlS (d : BitVec 5) (x : BitVec 32) (s : State) : Out1 := finish s (.ok (s.pushS 1 d (x.signExtend 64)))

/-- MOVLH (R173): the literal ORed into bits [63:32]; an EMPTY d blocks. -/
def execMovlh (d : BitVec 5) (x : BitVec 32) (s : State) : Out1 :=
  finish s (s.scalarMod d [] (fun old => old ||| (x.setWidth 64 <<< 32)))

end Sys2Proof.Machine
end

