-- ==== Sys2Proof/Machine/Task.lean ====
section
/-! DEFINITION. TASK and EXIT: TSPAWN, TEND, TABORT, TWAIT, TSERIAL, TINFO, and the end of a strand or of a task's run (13
R298-R303, R315, R320-R323; 07 R183). -/

namespace Sys2Proof.Machine

/-- TS_ORDER with a kind (R301). -/
def tsOrder (kind : Nat) : TrapInfo := ⟨cTsOrder, w64 kind⟩

/-! ## TSPAWN (R299-R303) -/

/-- A task record of 128 bytes: the record of R9 and both masks (R16). -/
structure TaskRec where
  v : RecView
  waitMask : Mask
  setMask : Mask

/-- The template at its 128 bytes. -/
def taskRec (b : List Byte) : TaskRec :=
  { v := recView (b.take 64)
    waitMask := BitVec.ofNat 256 (ofBytes ((b.drop 64).take 32))
    setMask := BitVec.ofNat 256 (ofBytes ((b.drop 96).take 32)) }

/-- The checks of a set descriptor (R300, R301): its alignment, its pages, the base of every used range; the bundle is held until
its 128 bytes have been read. One that is read poisoned or refused has no range to check. -/
def State.setCheck (s : State) (a : Word) (rest : Bool → State → Res) : Res :=
  if a = 0 then rest false s
  else if a.toNat % 64 ≠ 0 then .trap ⟨cMisaligned, a⟩
  else orTrap (s.checkRange s.cur.level s.cur.sc.satp .load a 128) fun l =>
    match s.readPieces l with
    | none => .hold .other
    | some (b, bad, s1) =>
      match (List.range 8).find? (fun i => half32At b (16 * i + 8) != 0 && decide ((wordAt b (16 * i)).toNat % 16384 ≠ 0)) with
      | some i => if bad then rest true s1 else .trap ⟨cMisaligned, wordAt b (16 * i)⟩
      | none => rest bad s1

/-- The checks of an ordered TSPAWN against the spawner (R297, R301). -/
def State.orderCheck (s : State) (t : Word) : Except TrapInfo TaskInfo :=
  match s.cur.strand with
  | none => .error (tsOrder 1)
  | some x => match x.ord, x.task with
    | true, some k =>
      if t.toNat < x.ts.toNat then .error (tsOrder 0)
      else if 256 ≤ k.tb.length ∨ 65536 ≤ k.spawned then .error (tsOrder 2)
      else .ok k
    | _, _ => .error (tsOrder 1)

/-- The template's page: readable and writable, 128-byte aligned (R301). -/
def State.templateAt (s : State) (r : Word) : Except TrapInfo Unit :=
  match s.check .load 128 128 r with
  | .error t => .error t
  | .ok _ => match s.check .store 128 128 r with
    | .error t => .error t
    | .ok _ => .ok ()

/-- Whether an access of the strand is not yet performed at its home. -/
def State.unperformed (s : State) : Bool :=
  s.pkg.reqs.any (fun q => q.sid == s.cur.sid && (match q.op with
    | .ack => false
    | _ => true))

/-- The new task (R299, R302). -/
def State.newTask (s : State) (r t arg : Word) (x : TaskRec) (id : BitVec 40) (parent : Option TaskInfo) : Strand :=
  let w5 := x.v.w5
  let ord := w5.getLsbD 17
  let ts : Word := if ord then t else 0
  { id := id
    recAddr := r
    img := x.v.img
    lnch := (s.cur.strand.map Strand.lnch).getD 0
    part := (s.cur.strand.map Strand.part).getD (s.core.inPart.getD 0)
    ver := seg w5 6 2
    prio := seg w5 4 2
    root := false
    parCore := seg s.cur.sid 13 10
    parSeq := seg s.cur.sid 0 13
    state := if (s.pkg.events &&& x.waitMask) == x.waitMask then .ready else .new
    why := 0
    stepping := w5.getLsbD 18
    isTask := true
    ord := ord
    ts := ts
    rset := x.v.rset
    wset := x.v.wset
    waitMask := x.waitMask
    setMask := x.setMask
    fill := .initial
    pc := x.v.pc
    npc := x.v.npc
    nnpc := x.v.nnpc
    level := seg w5 4 2
    place := .cluQ s.cluster
    since := s.core.cyc
    arr := s.pkg.arrNo
    task := parent.map (fun k =>
      { ts := ts
        tb := k.tb ++ [k.spawned]
        parent := some s.cur.sid
        spawn :=
          { pc := x.v.pc
            npcOff := wordOff x.v.npc x.v.pc
            nnpcOff := wordOff x.v.nnpc x.v.pc
            s1 := arg
            s2 := r
            s3 := ts
            s28 := s.cur.sv 28
            rm := s.cur.u.rm } }) }

/-- The task is made: its record, its initial image, its place in the cluster's queues; an ordered child is counted. -/
def State.spawn (s : State) (t arg : Word) (x : Strand) : State :=
  let s1 := s.writeRecord x x.pc x.npc x.nnpc 0
  let s2 := s1.vwrite (s.partSatp x.part) x.img (initialImage arg x.recAddr (if x.ord then t else 0) (s.cur.sv 28) s.cur.u.rm)
  let s3 := if x.ord then
      s2.modCur (fun c => c.modStrand (fun y => { y with task := y.task.map (fun k => { k with spawned := k.spawned + 1 }) }))
    else s2
  { s3 with pkg := { s3.pkg with strands := s3.pkg.strands ++ [x], arrNo := s3.pkg.arrNo + 1 } }

/-- The word makes no task, and its result lands POISONED: its template or a descriptor was read poisoned or refused (R375, R410)
(notes/assumptions 72: DESIGN CHOICE). -/
def State.noTask (s : State) (d : BitVec 5) : State :=
  s.push 2 (.write (.s d) ((Config.freeWord s.choice).setWidth 2048) (BitVec.allOnes 256) true)

/-- TSPAWN (R301): held while the template or a descriptor is being read, or an earlier access of the spawner is on its way, or no
id is free. What it reads is no access of the spawner's sets (notes/assumptions 69: DEDUCED). -/
def execTspawn (d a b c : BitVec 5) (s : State) : Out1 :=
  finish s (s.withSrcs [.s a false, .s b false, .s c false] fun _ =>
    let r := s.rs a
    let t := s.rs b
    orTrap (s.templateAt r) fun _ => orTrap (s.check .load 128 128 r) fun p => s.readPlace p 128 r fun bytes bad s0 =>
      let x := taskRec bytes
      if bad then .ok (s0.noTask d)
      else if !x.v.w5.getLsbD 16 || x.v.live != 0 then .trap (tsOrder 6)
      else
        let ord := x.v.w5.getLsbD 17
        let go := fun (s1 : State) (parent : Option TaskInfo) =>
          orTrap (s1.checkRange s1.cur.level s1.cur.sc.satp .store x.v.img 768) fun _ =>
            if s1.unperformed then .hold .other
            else match s1.newId with
              | none => .hold .idless
              | some (id, s2) => .ok ((s2.spawn t (s.rs c) (s2.newTask r t (s.rs c) x id parent)).pushS 2 d (id.setWidth 64))
        if ord then
          orTrap (s0.orderCheck t) fun k =>
            s0.setCheck x.v.rset fun bad1 s1 => s1.setCheck x.v.wset fun bad2 s2 =>
              if bad1 || bad2 then .ok (s2.noTask d) else go s2 (some k)
        else s0.irrevocable fun s1 => go s1 none)

/-! ## The end of a run (R183, R315) -/

/-- An ordered task is DONE: its registers are dropped, its versions kept; what it still has on its way is performed before it
commits (R136). -/
def State.taskDone (s : State) (x : Strand) : State :=
  let x1 : Strand := { x with
    state := .done, why := 8, place := .off, fill := .initial, pc := s.cur.pc, npc := s.cur.npc, nnpc := s.cur.nnpc, wait := none }
  let s1 := (s.writeRecord x1 x1.pc x1.npc x1.nnpc 0).leave x.id
  s1.modStrand x.id (fun _ => x1)

/-- The run of the current strand ends: an ordered task is DONE; an unordered one sets its events and ends; a strand ends
(R183, R315). -/
def State.endRun (s : State) : State :=
  match s.cur.strand with
  | none => s.modCur Ctx.vacated
  | some x =>
    if x.ord then s.taskDone x
    else (if x.isTask then s.orEvents x.setMask else s).exitStrand x s.cur 6

/-- An unordered task's events are a release at die scope: its end waits for what the release waits for (R120, R315). -/
def State.endHeld (s : State) : Bool :=
  s.cur.strand.any (fun x => x.isTask && !x.ord && x.setMask != 0 && s.releaseWaits x.id s.pkg.tag 1)

/-- TEND (R315). -/
def execTend (s : State) : Out1 :=
  finishEnd .tend 0 s (if s.endHeld then .hold .other else .ok s.bundleDone.endRun)

/-- EXIT (R183): in a task it acts as TEND. -/
def execExit (s : State) : Out1 :=
  finishEnd .exit 0 s (if s.endHeld then .hold .other else .ok s.bundleDone.endRun)

/-- TABORT (R320). -/
def execTabort (a : BitVec 5) (s : State) : Out1 :=
  finishEnd (.tabort a) (s.endSrc a) s (s.withEndSrc a false fun v =>
    match s.cur.strand with
    | none => .trap (tsOrder 4)
    | some x => match x.ord, x.task with
      | true, some k =>
        if k.irrev then .trap (tsOrder 5)
        else
          let mark := fun (s : State) (f : TaskInfo → TaskInfo) => s.modStrand x.id (fun y => { y with task := y.task.map f })
          if v.getLsbD 0 then .ok (mark s.bundleDone (fun t => { t with drop := true })).endRun
          else .ok ((mark s.bundleDone (fun t => { t with onlyOldest := true })).abort [x.id])
      | _, _ => .trap (tsOrder 4))

/-! ## TWAIT, TSERIAL, TINFO (R321-R323) -/

/-- TWAIT (R321). -/
def execTwait (d a : BitVec 5) (s : State) : Out1 :=
  finish s (s.withSrcs [.s a false] fun _ =>
    let v := s.rs a
    if s.cur.strand.any (fun x => x.ord && decide (x.ts.toNat ≤ v.toNat)) then .trap (tsOrder 3)
    else if s.accessHeld false 0 then .hold .other
    else s.wait (.seam v) d true false 2)

/-- TSERIAL (R322). -/
def execTserial (s : State) : Out1 := finish s (if s.curSpec then .hold .tserial else .ok s)

/-- The word TINFO gives for a selector (R323). -/
def State.tinfo (s : State) (sel : Nat) : Word :=
  let own : Option (Strand × TaskInfo) := match s.cur.strand with
    | some x => if x.ord then x.task.map (fun t => (x, t)) else none
    | none => none
  match sel, own with
  | 0, some (x, t) =>
    w64 (1 + bit (s.speculative x) * 2 + bit t.irrev * 4 + (t.tb.length - 1) % 256 * 2 ^ 8 + t.spawned % 65536 * 2 ^ 16
      + t.aborts % 256 * 2 ^ 32 + x.retry.toNat * 2 ^ 40)
  | 1, some (x, _) => x.ts
  | 2, some (_, t) => w64 (t.tb.headD 0 % 65536 + t.tb.getLastD 0 % 65536 * 2 ^ 16)
  | 3, _ => w64 (s.slotsUsed % 512 + s.pkg.versions.length % 8192 * 2 ^ 16)
  | _, _ => 0

/-- TINFO (R323). -/
def execTinfo (d a : BitVec 5) (s : State) : Out1 :=
  finish s (s.withSrcs [.s a false] fun _ => .ok (s.pushS 2 d (s.tinfo (seg (s.rs a) 0 3).toNat)))

end Sys2Proof.Machine
end

