-- ==== Sys2Proof/Machine/Dispatch.lean ====
section
/-! DEFINITION. The dispatch: one arm per operation, each one call of its meaning. -/

namespace Sys2Proof.Machine

/-- What an operation does to the machine. -/
def exec (i : Instr) (s : State) : Host.Outcome State Fault Refusal :=
  match i with
  | .add d a b wa wb => Sys2Proof.Machine.execAdd d a b wa wb s
  | .sub d a b wa wb => Sys2Proof.Machine.execSub d a b wa wb s
  | .and_ d a b wa wb => Sys2Proof.Machine.execAnd d a b wa wb s
  | .or_ d a b wa wb => Sys2Proof.Machine.execOr d a b wa wb s
  | .xor_ d a b wa wb => Sys2Proof.Machine.execXor d a b wa wb s
  | .andn d a b wa wb => Sys2Proof.Machine.execAndn d a b wa wb s
  | .orn d a b wa wb => Sys2Proof.Machine.execOrn d a b wa wb s
  | .shl d a b wa wb => Sys2Proof.Machine.execShl d a b wa wb s
  | .shr d a b wa wb => Sys2Proof.Machine.execShr d a b wa wb s
  | .sra d a b wa wb => Sys2Proof.Machine.execSra d a b wa wb s
  | .ror d a b wa wb => Sys2Proof.Machine.execRor d a b wa wb s
  | .mul d a b wa wb => Sys2Proof.Machine.execMul d a b wa wb s
  | .mulh d a b wa wb => Sys2Proof.Machine.execMulh d a b wa wb s
  | .mulhu d a b wa wb => Sys2Proof.Machine.execMulhu d a b wa wb s
  | .div d a b wa wb => Sys2Proof.Machine.execDiv d a b wa wb s
  | .divu d a b wa wb => Sys2Proof.Machine.execDivu d a b wa wb s
  | .rem d a b wa wb => Sys2Proof.Machine.execRem d a b wa wb s
  | .remu d a b wa wb => Sys2Proof.Machine.execRemu d a b wa wb s
  | .min d a b wa wb => Sys2Proof.Machine.execMin d a b wa wb s
  | .max d a b wa wb => Sys2Proof.Machine.execMax d a b wa wb s
  | .minu d a b wa wb => Sys2Proof.Machine.execMinu d a b wa wb s
  | .maxu d a b wa wb => Sys2Proof.Machine.execMaxu d a b wa wb s
  | .slt d a b wa wb => Sys2Proof.Machine.execSlt d a b wa wb s
  | .sltu d a b wa wb => Sys2Proof.Machine.execSltu d a b wa wb s
  | .seq d a b wa wb => Sys2Proof.Machine.execSeq d a b wa wb s
  | .sne d a b wa wb => Sys2Proof.Machine.execSne d a b wa wb s
  | .clz d a wa => Sys2Proof.Machine.execClz d a wa s
  | .ctz d a wa => Sys2Proof.Machine.execCtz d a wa s
  | .popc d a wa => Sys2Proof.Machine.execPopc d a wa s
  | .sext d a wa sb => Sys2Proof.Machine.execSext d a wa sb s
  | .zext d a wa sb => Sys2Proof.Machine.execZext d a wa sb s
  | .cmovz d a b wa wb => Sys2Proof.Machine.execCmovz d a b wa wb s
  | .cmovnz d a b wa wb => Sys2Proof.Machine.execCmovnz d a b wa wb s
  | .lea d a b wa wb sb => Sys2Proof.Machine.execLea d a b wa wb sb s
  | .addw d a b wa wb => Sys2Proof.Machine.execAddw d a b wa wb s
  | .subw d a b wa wb => Sys2Proof.Machine.execSubw d a b wa wb s
  | .mulw d a b wa wb => Sys2Proof.Machine.execMulw d a b wa wb s
  | .shlw d a b wa wb => Sys2Proof.Machine.execShlw d a b wa wb s
  | .shrw d a b wa wb => Sys2Proof.Machine.execShrw d a b wa wb s
  | .sraw d a b wa wb => Sys2Proof.Machine.execSraw d a b wa wb s
  | .bswap d a wa => Sys2Proof.Machine.execBswap d a wa s
  | .addi d a imm => Sys2Proof.Machine.execAddi d a imm s
  | .andi d a imm => Sys2Proof.Machine.execAndi d a imm s
  | .ori d a imm => Sys2Proof.Machine.execOri d a imm s
  | .xori d a imm => Sys2Proof.Machine.execXori d a imm s
  | .slti d a imm => Sys2Proof.Machine.execSlti d a imm s
  | .sltiu d a imm => Sys2Proof.Machine.execSltiu d a imm s
  | .shli d a n => Sys2Proof.Machine.execShli d a n s
  | .shri d a n => Sys2Proof.Machine.execShri d a n s
  | .srai d a n => Sys2Proof.Machine.execSrai d a n s
  | .movz d hw imm => Sys2Proof.Machine.execMovz d hw imm s
  | .movk d hw imm => Sys2Proof.Machine.execMovk d hw imm s
  | .movn d hw imm => Sys2Proof.Machine.execMovn d hw imm s
  | .movl d x => Sys2Proof.Machine.execMovl d x s
  | .movlS d x => Sys2Proof.Machine.execMovlS d x s
  | .movlh d x => Sys2Proof.Machine.execMovlh d x s
  | .beqz an a disp => Sys2Proof.Machine.execBeqz an a disp s
  | .bnez an a disp => Sys2Proof.Machine.execBnez an a disp s
  | .bltz an a disp => Sys2Proof.Machine.execBltz an a disp s
  | .bgez an a disp => Sys2Proof.Machine.execBgez an a disp s
  | .bgtz an a disp => Sys2Proof.Machine.execBgtz an a disp s
  | .blez an a disp => Sys2Proof.Machine.execBlez an a disp s
  | .bbs an a disp => Sys2Proof.Machine.execBbs an a disp s
  | .bbc an a disp => Sys2Proof.Machine.execBbc an a disp s
  | .jmp disp => Sys2Proof.Machine.execJmp disp s
  | .jal disp => Sys2Proof.Machine.execJal disp s
  | .jalr d a wa => Sys2Proof.Machine.execJalr d a wa s
  | .trap b sb => Sys2Proof.Machine.execTrap b sb s
  | .susp a sb => Sys2Proof.Machine.execSusp a sb s
  | .csrr d n => Sys2Proof.Machine.execCsrr d n s
  | .csrw d n => Sys2Proof.Machine.execCsrw d n s
  | .csrx d n => Sys2Proof.Machine.execCsrx d n s
  | .rep cnt creg stp stride ke k => Sys2Proof.Machine.execRep cnt creg stp stride ke k s
  | .ld d base sz zx off => Sys2Proof.Machine.execLd d base sz zx off s
  | .ldAcq d base sz zx sc off => Sys2Proof.Machine.execLdAcq d base sz zx sc off s
  | .st d base sz off => Sys2Proof.Machine.execSt d base sz off s
  | .stRel d base sz sc off => Sys2Proof.Machine.execStRel d base sz sc off s
  | .ldr t row base off => Sys2Proof.Machine.execLdr t row base off s
  | .str t row base off => Sys2Proof.Machine.execStr t row base off s
  | .ldrd t row base off => Sys2Proof.Machine.execLdrd t row base off s
  | .strd t row base off => Sys2Proof.Machine.execStrd t row base off s
  | .ldrb t row base off => Sys2Proof.Machine.execLdrb t row base off s
  | .pft base off => Sys2Proof.Machine.execPft base off s
  | .aadd d a b sz => Sys2Proof.Machine.execAadd d a b sz s
  | .aand d a b sz => Sys2Proof.Machine.execAand d a b sz s
  | .aor d a b sz => Sys2Proof.Machine.execAor d a b sz s
  | .axor d a b sz => Sys2Proof.Machine.execAxor d a b sz s
  | .amin d a b sz => Sys2Proof.Machine.execAmin d a b sz s
  | .amax d a b sz => Sys2Proof.Machine.execAmax d a b sz s
  | .aminu d a b sz => Sys2Proof.Machine.execAminu d a b sz s
  | .amaxu d a b sz => Sys2Proof.Machine.execAmaxu d a b sz s
  | .aswap d a b sz => Sys2Proof.Machine.execAswap d a b sz s
  | .acas d a b c sz => Sys2Proof.Machine.execAcas d a b c sz s
  | .aqinc d a b sz => Sys2Proof.Machine.execAqinc d a b sz s
  | .aqwrap d a b sz => Sys2Proof.Machine.execAqwrap d a b sz s
  | .aqdec d a sz => Sys2Proof.Machine.execAqdec d a sz s
  | .aqaddl d a b => Sys2Proof.Machine.execAqaddl d a b s
  | .aqchunk d a b => Sys2Proof.Machine.execAqchunk d a b s
  | .afadd d a b sz => Sys2Proof.Machine.execAfadd d a b sz s
  | .vamo op td ta tb row => Sys2Proof.Machine.execVamo op td ta tb row s
  | .fence ord sc => Sys2Proof.Machine.execFence ord sc s
  | .relt a b sc => Sys2Proof.Machine.execRelt a b sc s
  | .acqt a b sc => Sys2Proof.Machine.execAcqt a b sc s
  | .arrb d a => Sys2Proof.Machine.execArrb d a s
  | .waitb d a b => Sys2Proof.Machine.execWaitb d a b s
  | .waita d a b ord sc => Sys2Proof.Machine.execWaita d a b ord sc s
  | .evset a ord sc => Sys2Proof.Machine.execEvset a ord sc s
  | .evclr a ord sc => Sys2Proof.Machine.execEvclr a ord sc s
  | .evwait d a ord sc => Sys2Proof.Machine.execEvwait d a ord sc s
  | .swin d a b sc => Sys2Proof.Machine.execSwin d a b sc s
  | .swclose d a => Sys2Proof.Machine.execSwclose d a s
  | .acopy d a => Sys2Proof.Machine.execAcopy d a s
  | .agather d a b => Sys2Proof.Machine.execAgather d a b s
  | .ascatter d a b => Sys2Proof.Machine.execAscatter d a b s
  | .acoll d a b => Sys2Proof.Machine.execAcoll d a b s
  | .sbind d a => Sys2Proof.Machine.execSbind d a s
  | .sunb d a => Sys2Proof.Machine.execSunb d a s
  | .anote d a b c => Sys2Proof.Machine.execAnote d a b c s
  | .acancel d => Sys2Proof.Machine.execAcancel d s
  | .tspawn d a b c => Sys2Proof.Machine.execTspawn d a b c s
  | .tabort a => Sys2Proof.Machine.execTabort a s
  | .twait d a => Sys2Proof.Machine.execTwait d a s
  | .tinfo d a => Sys2Proof.Machine.execTinfo d a s
  | .vadd typ td ta tb row => Sys2Proof.Machine.execVadd typ td ta tb row s
  | .vsub typ td ta tb row => Sys2Proof.Machine.execVsub typ td ta tb row s
  | .vmul typ td ta tb row => Sys2Proof.Machine.execVmul typ td ta tb row s
  | .vfma typ td ta tb row => Sys2Proof.Machine.execVfma typ td ta tb row s
  | .vfms typ td ta tb row => Sys2Proof.Machine.execVfms typ td ta tb row s
  | .vfnma typ td ta tb row => Sys2Proof.Machine.execVfnma typ td ta tb row s
  | .vmin typ td ta tb row => Sys2Proof.Machine.execVmin typ td ta tb row s
  | .vmax typ td ta tb row => Sys2Proof.Machine.execVmax typ td ta tb row s
  | .vdiv typ td ta tb row => Sys2Proof.Machine.execVdiv typ td ta tb row s
  | .vand typ td ta tb row => Sys2Proof.Machine.execVand typ td ta tb row s
  | .vor typ td ta tb row => Sys2Proof.Machine.execVor typ td ta tb row s
  | .vxor typ td ta tb row => Sys2Proof.Machine.execVxor typ td ta tb row s
  | .vandn typ td ta tb row => Sys2Proof.Machine.execVandn typ td ta tb row s
  | .vshl typ td ta tb row => Sys2Proof.Machine.execVshl typ td ta tb row s
  | .vshr typ td ta tb row => Sys2Proof.Machine.execVshr typ td ta tb row s
  | .vsra typ td ta tb row => Sys2Proof.Machine.execVsra typ td ta tb row s
  | .vceq typ td ta tb row => Sys2Proof.Machine.execVceq typ td ta tb row s
  | .vclt typ td ta tb row => Sys2Proof.Machine.execVclt typ td ta tb row s
  | .vcle typ td ta tb row => Sys2Proof.Machine.execVcle typ td ta tb row s
  | .vcne typ td ta tb row => Sys2Proof.Machine.execVcne typ td ta tb row s
  | .vadds typ td ta tb row => Sys2Proof.Machine.execVadds typ td ta tb row s
  | .vsubs typ td ta tb row => Sys2Proof.Machine.execVsubs typ td ta tb row s
  | .vmulh typ td ta tb row => Sys2Proof.Machine.execVmulh typ td ta tb row s
  | .vabsd typ td ta tb row => Sys2Proof.Machine.execVabsd typ td ta tb row s
  | .vsel typ td ta tb row => Sys2Proof.Machine.execVsel typ td ta tb row s
  | .vcopysign typ td ta tb row => Sys2Proof.Machine.execVcopysign typ td ta tb row s
  | .vabs typ td ta row => Sys2Proof.Machine.execVabs typ td ta row s
  | .vneg typ td ta row => Sys2Proof.Machine.execVneg typ td ta row s
  | .vsqrt typ td ta row => Sys2Proof.Machine.execVsqrt typ td ta row s
  | .vrcp typ td ta row => Sys2Proof.Machine.execVrcp typ td ta row s
  | .vrsq typ td ta row => Sys2Proof.Machine.execVrsq typ td ta row s
  | .vexp2 typ td ta row => Sys2Proof.Machine.execVexp2 typ td ta row s
  | .vlog2 typ td ta row => Sys2Proof.Machine.execVlog2 typ td ta row s
  | .vtanh typ td ta row => Sys2Proof.Machine.execVtanh typ td ta row s
  | .vfloor typ td ta row => Sys2Proof.Machine.execVfloor typ td ta row s
  | .vceil typ td ta row => Sys2Proof.Machine.execVceil typ td ta row s
  | .vrint typ td ta row => Sys2Proof.Machine.execVrint typ td ta row s
  | .vcvt typ td ta tb row => Sys2Proof.Machine.execVcvt typ td ta tb row s
  | .vcvts typ td ta tb row => Sys2Proof.Machine.execVcvts typ td ta tb row s
  | .vclz typ td ta row => Sys2Proof.Machine.execVclz typ td ta row s
  | .vpopc typ td ta row => Sys2Proof.Machine.execVpopc typ td ta row s
  | .vnot typ td ta row => Sys2Proof.Machine.execVnot typ td ta row s
  | .vscan typ td ta row => Sys2Proof.Machine.execVscan typ td ta row s
  | .vscanmax typ td ta row => Sys2Proof.Machine.execVscanmax typ td ta row s
  | .vsegscan typ td ta row => Sys2Proof.Machine.execVsegscan typ td ta row s
  | .vclass typ td ta row => Sys2Proof.Machine.execVclass typ td ta row s
  | .vmov td rd ta ra => Sys2Proof.Machine.execVmov td rd ta ra s
  | .vswap td rd ta ra => Sys2Proof.Machine.execVswap td rd ta ra s
  | .trn8B td rd ta ra => Sys2Proof.Machine.execTrn8B td rd ta ra s
  | .trn8H td rd ta ra => Sys2Proof.Machine.execTrn8H td rd ta ra s
  | .trn8W td rd ta ra => Sys2Proof.Machine.execTrn8W td rd ta ra s
  | .vrev td rd ta ra => Sys2Proof.Machine.execVrev td rd ta ra s
  | .vzero td rd => Sys2Proof.Machine.execVzero td rd s
  | .tzero td => Sys2Proof.Machine.execTzero td s
  | .tmov td ta => Sys2Proof.Machine.execTmov td ta s
  | .vbcast typ t row x => Sys2Proof.Machine.execVbcast typ t row x s
  | .vextr typ t row x => Sys2Proof.Machine.execVextr typ t row x s
  | .vredadd typ t row x => Sys2Proof.Machine.execVredadd typ t row x s
  | .vredmax typ t row x => Sys2Proof.Machine.execVredmax typ t row x s
  | .vredmin typ t row x => Sys2Proof.Machine.execVredmin typ t row x s
  | .viota typ t row x => Sys2Proof.Machine.execViota typ t row x s
  | .kfromrow typ t row k => Sys2Proof.Machine.execKfromrow typ t row k s
  | .ktorow typ t row k => Sys2Proof.Machine.execKtorow typ t row k s
  | .kpopc typ x k => Sys2Proof.Machine.execKpopc typ x k s
  | .kfirst typ x k => Sys2Proof.Machine.execKfirst typ x k s
  | .kmovs q x k => Sys2Proof.Machine.execKmovs q x k s
  | .kmovd q x k => Sys2Proof.Machine.execKmovd q x k s
  | .kand kt ks k => Sys2Proof.Machine.execKand kt ks k s
  | .kor kt ks k => Sys2Proof.Machine.execKor kt ks k s
  | .kxor kt ks k => Sys2Proof.Machine.execKxor kt ks k s
  | .knot kt k => Sys2Proof.Machine.execKnot kt k s
  | .pload pd t row x => Sys2Proof.Machine.execPload pd t row x s
  | .pstore pa t row => Sys2Proof.Machine.execPstore pa t row s
  | .pgetr pa t row => Sys2Proof.Machine.execPgetr pa t row s
  | .psetr pd t row => Sys2Proof.Machine.execPsetr pd t row s
  | .pcomp pd pa pb => Sys2Proof.Machine.execPcomp pd pa pb s
  | .pinv pd pa => Sys2Proof.Machine.execPinv pd pa s
  | .prand pd x => Sys2Proof.Machine.execPrand pd x s
  | .pid pd => Sys2Proof.Machine.execPid pd s
  | .pmov pd pa => Sys2Proof.Machine.execPmov pd pa s
  | .pcyc pa x => Sys2Proof.Machine.execPcyc pa x s
  | .pfix pa x => Sys2Proof.Machine.execPfix pa x s
  | .pord pa x => Sys2Proof.Machine.execPord pa x s
  | .pclen pa x => Sys2Proof.Machine.execPclen pa x s
  | .peq pa pb x => Sys2Proof.Machine.execPeq pa pb x s
  | .papplyR pa td ta => Sys2Proof.Machine.execPapplyR pa td ta s
  | .papplyL pa td ta row => Sys2Proof.Machine.execPapplyL pa td ta row s
  | .mcall idx obj fl => Sys2Proof.Machine.execMcall idx obj fl s
  | .mpset ma x => Sys2Proof.Machine.execMpset ma x s
  | .mpget ma x => Sys2Proof.Machine.execMpget ma x s
  | .mtset t x a => Sys2Proof.Machine.execMtset t x a s
  | .mtget t x => Sys2Proof.Machine.execMtget t x s
  | .mtclr t => Sys2Proof.Machine.execMtclr t s
  | .mloadp x a => Sys2Proof.Machine.execMloadp x a s
  | .mbmap t => Sys2Proof.Machine.execMbmap t s
  | .pcsrr d n => Sys2Proof.Machine.execPcsrr d n s
  | .pcsrw d n => Sys2Proof.Machine.execPcsrw d n s
  | .tlbinv a b wa wb => Sys2Proof.Machine.execTlbinv a b wa wb s
  | .strstart d a wa => Sys2Proof.Machine.execStrstart d a wa s
  | .strstop a wa => Sys2Proof.Machine.execStrstop a wa s
  | .zero m keep => Sys2Proof.Machine.execZero m keep s
  | .lda m rf rc kb kn => Sys2Proof.Machine.execLda m rf rc kb kn s
  | .ldb m rf rc kb kn => Sys2Proof.Machine.execLdb m rf rc kb kn s
  | .mac sp kb kn => Sys2Proof.Machine.execMac sp kb kn s
  | .bmap a b => Sys2Proof.Machine.execBmap a b s
  | .loop c cnt back => Sys2Proof.Machine.execLoop c cnt back s
  | .adv m mode x => Sys2Proof.Machine.execAdv m mode x s
  | .perm p => Sys2Proof.Machine.execPerm p s
  | .out m fmt sat rnd rf rc osh => Sys2Proof.Machine.execOut m fmt sat rnd rf rc osh s
  | .sig stop msk => Sys2Proof.Machine.execSig stop msk s
  | .nop => Sys2Proof.Machine.execNop s
  | .brk => Sys2Proof.Machine.execBrk s
  | .yield => Sys2Proof.Machine.execYield s
  | .exit => Sys2Proof.Machine.execExit s
  | .quant => Sys2Proof.Machine.execQuant s
  | .ifence => Sys2Proof.Machine.execIfence s
  | .acancelAll => Sys2Proof.Machine.execAcancelAll s
  | .tend => Sys2Proof.Machine.execTend s
  | .tserial => Sys2Proof.Machine.execTserial s
  | .mfencep => Sys2Proof.Machine.execMfencep s
  | .sret => Sys2Proof.Machine.execSret s
  | .tlbsync => Sys2Proof.Machine.execTlbsync s
  | .ctxsave => Sys2Proof.Machine.execCtxsave s
  | .ctxload => Sys2Proof.Machine.execCtxload s
  | .wfi => Sys2Proof.Machine.execWfi s
  | .haltc => Sys2Proof.Machine.execHaltc s
  | .end_ => Sys2Proof.Machine.execEnd s
  | .dec => Sys2Proof.Machine.execDec s
  | .packetFetch => Sys2Proof.Machine.execPacketFetch s
  | .illegalOpcode => Sys2Proof.Machine.execIllegalOpcode s
  | .illegalBundle => Sys2Proof.Machine.execIllegalBundle s
  | .annulledBundle => Sys2Proof.Machine.execAnnulledBundle s
  | .repRepetition => Sys2Proof.Machine.execRepRepetition s
  | .resultLanding => Sys2Proof.Machine.execResultLanding s
  | .longLatencyDelivery => Sys2Proof.Machine.execLongLatencyDelivery s
  | .solveDelivery => Sys2Proof.Machine.execSolveDelivery s
  | .refresh => Sys2Proof.Machine.execRefresh s
  | .rowExpiry => Sys2Proof.Machine.execRowExpiry s
  | .blockSuspend => Sys2Proof.Machine.execBlockSuspend s
  | .irrevocableSuspend => Sys2Proof.Machine.execIrrevocableSuspend s
  | .tserialSuspend => Sys2Proof.Machine.execTserialSuspend s
  | .tspawnIdSuspend => Sys2Proof.Machine.execTspawnIdSuspend s
  | .dispatch => Sys2Proof.Machine.execDispatch s
  | .contextSave => Sys2Proof.Machine.execContextSave s
  | .queueTransfer => Sys2Proof.Machine.execQueueTransfer s
  | .dieSteal => Sys2Proof.Machine.execDieSteal s
  | .agingPromotion => Sys2Proof.Machine.execAgingPromotion s
  | .quantumExpiry => Sys2Proof.Machine.execQuantumExpiry s
  | .waitRequest => Sys2Proof.Machine.execWaitRequest s
  | .objectArrival => Sys2Proof.Machine.execObjectArrival s
  | .wake => Sys2Proof.Machine.execWake s
  | .waitTimeout => Sys2Proof.Machine.execWaitTimeout s
  | .atomicPerform => Sys2Proof.Machine.execAtomicPerform s
  | .tileRequest => Sys2Proof.Machine.execTileRequest s
  | .leaseRenewal => Sys2Proof.Machine.execLeaseRenewal s
  | .lineWriteback => Sys2Proof.Machine.execLineWriteback s
  | .streamPrefetch => Sys2Proof.Machine.execStreamPrefetch s
  | .mloadpCopy => Sys2Proof.Machine.execMloadpCopy s
  | .matrixCallStart => Sys2Proof.Machine.execMatrixCallStart s
  | .matrixCallEnd => Sys2Proof.Machine.execMatrixCallEnd s
  | .engineCompletion => Sys2Proof.Machine.execEngineCompletion s
  | .arrivalHandlerCreate => Sys2Proof.Machine.execArrivalHandlerCreate s
  | .seamPulse => Sys2Proof.Machine.execSeamPulse s
  | .faultedTaskRequeue => Sys2Proof.Machine.execFaultedTaskRequeue s
  | .uncorrectableError => Sys2Proof.Machine.execUncorrectableError s
  | .machineCheck => Sys2Proof.Machine.execMachineCheck s
  | .retryExhausted => Sys2Proof.Machine.execRetryExhausted s
  | .stepStop => Sys2Proof.Machine.execStepStop s
  | .addressBreak => Sys2Proof.Machine.execAddressBreak s
  | .deadlock => Sys2Proof.Machine.execDeadlock s
  | .launch => Sys2Proof.Machine.execLaunch s
  | .launchReplica => Sys2Proof.Machine.execLaunchReplica s
  | .startBarrier => Sys2Proof.Machine.execStartBarrier s
  | .startTimeout => Sys2Proof.Machine.execStartTimeout s
  | .launchEnd => Sys2Proof.Machine.execLaunchEnd s
  | .preempt => Sys2Proof.Machine.execPreempt s
  | .resume => Sys2Proof.Machine.execResume s
  | .teardown => Sys2Proof.Machine.execTeardown s
  | .resetq => Sys2Proof.Machine.execResetq s
  | .query => Sys2Proof.Machine.execQuery s
  | .step => Sys2Proof.Machine.execStep s
  | .break_ => Sys2Proof.Machine.execBreak s
  | .record => Sys2Proof.Machine.execRecord s
  | .replay => Sys2Proof.Machine.execReplay s
  | .partition => Sys2Proof.Machine.execPartition s
  | .keyload => Sys2Proof.Machine.execKeyload s
  | .bias => Sys2Proof.Machine.execBias s
  | .errlog => Sys2Proof.Machine.execErrlog s
  | .unknownCommand => Sys2Proof.Machine.execUnknownCommand s
  | .rplnWrite => Sys2Proof.Machine.execRplnWrite s
  | .arrfWrite => Sys2Proof.Machine.execArrfWrite s
  | .dmcfgWrite => Sys2Proof.Machine.execDmcfgWrite s
  | .describedRangeWrite => Sys2Proof.Machine.execDescribedRangeWrite s
  | .einjWrite => Sys2Proof.Machine.execEinjWrite s
  | .registerWrite => Sys2Proof.Machine.execRegisterWrite s
  | .peerRequest => Sys2Proof.Machine.execPeerRequest s
  | .hostRead => Sys2Proof.Machine.execHostRead s
  | .hostWrite => Sys2Proof.Machine.execHostWrite s
  | .hostSnoop => Sys2Proof.Machine.execHostSnoop s
  | .frameReceive => Sys2Proof.Machine.execFrameReceive s
  | .linkRetry => Sys2Proof.Machine.execLinkRetry s
  | .keyRotation => Sys2Proof.Machine.execKeyRotation s
  | .messageResend => Sys2Proof.Machine.execMessageResend s
  | .deviceRecovery => Sys2Proof.Machine.execDeviceRecovery s
  | .rejoin => Sys2Proof.Machine.execRejoin s
  | .ptimeOutOfBound => Sys2Proof.Machine.execPtimeOutOfBound s
  | .powerUp => Sys2Proof.Machine.execPowerUp s
  | .supervisorImageLoad => Sys2Proof.Machine.execSupervisorImageLoad s
  | .pldmRequest => Sys2Proof.Machine.execPldmRequest s
  | .leaseExpiry => Sys2Proof.Machine.execLeaseExpiry s
  | .accessAtHome => Sys2Proof.Machine.execAccessAtHome s
  | .writeAcknowledgement => Sys2Proof.Machine.execWriteAcknowledgement s
  | .hostResponse => Sys2Proof.Machine.execHostResponse s
  | .correctedError => Sys2Proof.Machine.execCorrectedError s
  | .rejoinTimeout => Sys2Proof.Machine.execRejoinTimeout s
  | .linkRetrained => Sys2Proof.Machine.execLinkRetrained s
  | .ptimeWithinBound => Sys2Proof.Machine.execPtimeWithinBound s
  | .powerLoss => Sys2Proof.Machine.execPowerLoss s

end Sys2Proof.Machine
end

