-- ==== Sys2Proof/Machine/Issue.lean ====
section
/-! DEFINITION. One issue cycle of the core: which context goes on, the fetch of the packet at PC, the decoder's checks in their
order, and the issue of a bundle with its REP, its VAMO and the word that ends it (01 R9, R13; 02 R40, R41, R51; 06 R139-R144,
R158; 07 R160-R193; 11 R268; 21 R387, R399). -/

namespace Sys2Proof.Machine

/-- Go on from a next state. -/
def andThen {α β : Type} (o : Host.Outcome α Fault Refusal) (k : α → Host.Outcome β Fault Refusal) : Host.Outcome β Fault Refusal :=
  match o with
  | .next x => k x
  | .fault f => .fault f
  | .refused r => .refused r

/-! ## The decoder (R141-R143, R189-R192) -/

/-- A word of a bundle: its position, its bits, the instruction it stands for. -/
structure BWord where
  pos : Nat
  w : BitVec 32
  i : Instr
  deriving DecidableEq, Repr

/-- What the decoder makes of a bundle: its words, the trap event it raises, or a SYS word in U. -/
inductive Decoded where
  | words (l : List BWord)
  | bad (e : EvArgs) (i : Instr)
  | sys (x : BWord)
  deriving DecidableEq, Repr

/-- The major of a word. -/
def majorOf (w : BitVec 32) : Nat := (w.extractLsb' 26 5).toNat

/-- Whether a word is a REP. -/
def isRep (w : BitVec 32) : Bool := majorOf w == 8

/-- Whether a word is a VAMO. -/
def isVamo (w : BitVec 32) : Bool := majorOf w == 12 && w.extractLsb' 21 5 == 31#5

/-- Whether a word is one of JALR, EXIT and TRAP, which no bundle with a REP holds (R192). -/
def notWithRep : Instr → Bool
  | .jalr _ _ _ => true
  | .exit => true
  | .trap _ _ => true
  | _ => false

/-- Whether a word takes no mask: any that is not of the V pipe, and of those TRN8, TZERO, TMOV, VEXTR and the mask words but KTOROW
(R190, R196). -/
def unmaskable (ver : BitVec 2) (w : BitVec 32) : Bool :=
  pipeOf w != 3 || (match decodeIn ver w 0 with
    | some (.trn8B _ _ _ _) => true
    | some (.trn8H _ _ _ _) => true
    | some (.trn8W _ _ _ _) => true
    | some (.tzero _) => true
    | some (.tmov _ _) => true
    | some (.vextr _ _ _ _) => true
    | some (.kfromrow _ _ _ _) => true
    | some (.kpopc _ _ _) => true
    | some (.kfirst _ _ _) => true
    | some (.kmovs _ _ _) => true
    | some (.kmovd _ _ _) => true
    | some (.kand _ _ _) => true
    | some (.kor _ _ _) => true
    | some (.kxor _ _ _) => true
    | some (.knot _ _) => true
    | _ => false)

/-- Whether a REP does not pair with its target: ke on a word that takes no mask, whatever its major; on a target that R141 permits,
a step bit in a column the target has not, a VAMO (R143, R189, R190, R196). -/
def repPairBad (ver : BitVec 2) (w tgt : BitVec 32) : Bool :=
  (w.getLsbD 12 && unmaskable ver tgt) || (repTargetOk tgt && (!stepAllowed tgt (w.extractLsb' 15 4) || isVamo tgt))

/-- The instructions of the words of a bundle, or the first word that is illegal (step 2 of R143). -/
def decodeWords (ver : BitVec 2) (rep : Bool) : List (Nat × BitVec 32 × BitVec 32) → Except (Nat × BitVec 32) (List BWord)
  | [] => .ok []
  | (p, w, ext) :: t =>
    match decodeIn ver w ext with
    | none => .error (p, w)
    | some i =>
      if (rep && notWithRep i) || (isRep w && (t.head?.any (fun x => repPairBad ver w x.2.1))) then .error (p, w)
      else match decodeWords ver rep t with
        | .error e => .error e
        | .ok l => .ok ({ pos := p, w := w, i := i } :: l)

/-- The first offending word of step 3 of R143: two words on one pipe (kind 2), or a REP without a permitted target
(kind 3) (notes/assumptions 48: DEDUCED). -/
def pipeFault (seen : List Nat) : List (Nat × BitVec 32 × BitVec 32) → Option (Nat × Nat)
  | [] => none
  | (p, w, _) :: t =>
    let pipe := pipeOf w
    if pipe != 0 && seen.elem pipe then some (2, p)
    else if isRep w && !(t.head?.any (fun x => repTargetOk x.2.1)) then some (3, p)
    else pipeFault (pipe :: seen) t

/-- The decoder's checks of a bundle, in the order of R143. -/
def decodeBundle (ver : BitVec 2) (lvl : Level) (b : Bundle) : Decoded :=
  match b.bad with
  | some (kind, pos) => .bad { n := kind.toNat, v := pos.setWidth 64 } .illegalBundle
  | none =>
    match decodeWords ver (b.words.any (fun x => isRep x.2.1)) b.words with
    | .error (p, w) => .bad { n := p, word := w } .illegalOpcode
    | .ok l =>
      match pipeFault [] b.words with
      | some (kind, p) => .bad { n := kind, v := w64 p } .illegalBundle
      | none =>
        match (if lvl == .u then l.find? (fun x => majorOf x.w == 22) else none) with
        | some x => .sys x
        | none => .words l

/-! ## Issue of the words of a bundle (R40, R41, R43, R51, R84) -/

/-- The state in which a word of the bundle issues; `later` says that one that ends the bundle is put off. -/
def State.atWord (s : State) (x : BWord) (later : Bool) : State :=
  { s with iss := { s.iss with pos := BitVec.ofNat 2 x.pos, chain := chains x.w, putOff := later, verdict := .issued } }

/-- A trap of a word of the bundle, with the word's position. -/
abbrev PosTrap := Nat × TrapInfo

/-- Of two traps the one the bundle takes: a register-state condition before any other fault (R143), then the word nearest the
start (R40). -/
def firstTrap (a b : Option PosTrap) : Option PosTrap :=
  match a, b with
  | none, _ => b
  | _, none => a
  | some x, some y =>
    if ofRegister x.2.cause ≠ ofRegister y.2.cause then (if ofRegister x.2.cause then a else b)
    else if y.1 < x.1 then b else a

/-- Of two held words the one whose reason counts: a blocked read before any other hold (R41). -/
def firstHeld (a b : Option (BWord × HoldWhy)) : Option (BWord × HoldWhy) :=
  match a, b with
  | none, _ => b
  | some x, some y => if x.2 != .blocked && y.2 == .blocked then b else a
  | _, none => a

/-- What the words of a bundle have come to: the state with the effects of those that issued queued; the trap it takes; the
word that holds it; the word that ends it. -/
structure Run where
  acc : State
  trap : Option PosTrap := none
  held : Option (BWord × HoldWhy) := none
  last : Option BWord := none

/-- The words of a bundle in their order: a trap of any decides; otherwise a held word holds the bundle; the word that ends
the bundle is put off until the others are in, its read taken at its place (R40, R115, R143). -/
def runWords : List BWord → Run → Host.Outcome Run Fault Refusal
  | [], r => .next r
  | x :: t, r =>
    andThen (exec x.i (r.acc.atWord x true)) fun o =>
      match o.iss.verdict with
      | .trapped c v => runWords t { r with trap := firstTrap r.trap (some (x.pos, ⟨c, v⟩)) }
      | .held w => runWords t { r with held := firstHeld r.held (some (x, w)) }
      | .ended => runWords t { r with last := some x, acc := if o.iss.susp.isSome then o else r.acc }
      | .issued => runWords t { r with acc := o }

/-- A cycle in which the bundle at PC is held for a reason (R41, R84). -/
def State.heldCycle (s : State) (w : HoldWhy) : State :=
  (s.modCur (fun c => { c with
    stuck := if c.why == w then c.stuck + 1 else 1
    why := w
    fpHold := match w, c.fpHold with
      | .fp l, none => some (l - 2)
      | _, f => f })).cycleEnd

/-- A bundle that is held: the cycle passes; one found blocked that has been so for 64 issue cycles suspends its strand (R41). -/
def State.holdAs (s : State) (w : HoldWhy) : Out1 :=
  if w == .blocked && s.stuckFor .blocked then exec .blockSuspend s else .next (s.heldCycle w)

/-- A held word: what it does while it waits stands, and the cycle passes. `back` undoes what its bundle had begun. -/
def State.holdWord (s : State) (x : BWord) (why : HoldWhy) (back : State → State) : Out1 :=
  andThen (exec x.i (s.atWord x true)) fun o =>
    match o.iss.verdict with
    | .held w => (back o).holdAs w
    | _ => (back s).holdAs why

/-- The end of the words of a bundle: a trap before issue, a hold, the limits of R51, or `fin`. -/
def settleWords (s : State) (back : State → State) (r : Run) (fin : Run → Out1) : Out1 :=
  match r.trap, r.held with
  | some t, _ => .next (s.trapHere t.2)
  | none, some x => s.holdWord x.1 x.2 back
  | none, none => if r.acc.cur.withinLimits then fin r else .next ((back s).heldCycle .other)

/-- The bundle has issued whole: the word that ends it acts last. -/
def Run.done (r : Run) : Out1 :=
  match r.last with
  | some x => exec x.i (r.acc.atWord x false)
  | none => .next r.acc.bundleDone

/-! ## What was put off until the last part of a bundle (R192, R193, R268) -/

/-- Whether a word ends its bundle with an effect that an interruption after repetition 0 does not drop (R192). -/
def endsBundle : Instr → Bool
  | .tend => true
  | .tabort _ => true
  | .sret => true
  | .ctxload => true
  | .strstop _ _ => true
  | .haltc => true
  | _ => false

/-- The other words of a resumed bundle at its end: its branch or jump acts as decided, and the word that ended it ends it; a SUSP whose
word has changed meanwhile parks no more (R182). A word that ends the bundle, other than one that only suspends, acts also where an
interruption has come between (R192; notes/assumptions 58: DEDUCED). -/
def State.lateEnd (s : State) (others : List BWord) (taken : Bool) : Out1 :=
  let s1 := others.foldl (fun s x => if majorOf x.w = 5 ∨ majorOf x.w = 6 then (s.atWord x false).heldControl x.w taken else s) s
  let at_ := fun (w : Option Wait) (v : Option Word) => { s1 with iss := { s1.iss with endVal := v, susp := w, repMore := false, putOff := false } }
  match s1.cur.repEnd with
  | some (i, _, some _) =>
    match s1.cur.strand.bind Strand.wait with
    | some w => exec i (at_ (some w) (some 0))
    | none => .next s1.bundleDone
  | some (i, v, none) => exec i (at_ none (some v))
  | none => match others.find? (fun x => endsBundle x.i) with
    | some x => exec x.i ((at_ none none).atWord x false)
    | none => .next s1.bundleDone

/-! ## VAMO (R268) -/

/-- VAP says that the other words have not issued (done), or that a branch among them was taken (tk). -/
def State.vapMark (s : State) (done tk : Bool) : State :=
  s.modCur (fun c => { c with u := { c.u with vap :=
    (if done then c.u.vap else c.u.vap &&& ~~~0x80) ||| (if tk then 0x100 else 0) } })

/-- A VAMO that starts anew writes VAP.v = 0. -/
def State.vapFresh (s : State) : State :=
  if s.vapResumes then s else s.modCur (fun c => { c with u := { c.u with vap := c.u.vap &&& ~~~0x40 } })

/-- Lanes are left: the bundle stays, and an issue cycle passes. -/
def State.vapStays (s : State) : State := (s.modCur (fun c => { c with stuck := 0, why := .none, fpHold := none })).cycleEnd

/-- A bundle with a VAMO and no REP (notes/assumptions 46: DEDUCED). -/
def State.issueVamo (s : State) (l : List BWord) : Out1 :=
  let resumed := s.vapResumes && s.cur.u.vap.getLsbD 7
  let tk := s.cur.u.vap.getLsbD 8
  let s1 := s.vapFresh
  andThen (runWords (if resumed then l.filter (fun x => isVamo x.w) else l) { acc := s1 }) fun r =>
    settleWords s1 (fun t => t) r fun r =>
      let taken := if resumed then tk else r.acc.iss.target.isSome
      if r.acc.iss.stays then .next (r.acc.vapMark true taken).vapStays
      else if resumed then r.acc.lateEnd (l.filter (fun x => !isVamo x.w)) taken
      else r.done

/-! ## REP (R187-R193) -/

/-- The target word of repetition `i` of a REP. -/
def repWord (rep : BWord) (tgt : BWord) (i : Nat) : BitVec 32 := stepWord tgt.w (rep.w.extractLsb' 15 4) (rep.w.extractLsb' 13 2) i

/-- What a held repetition takes back: the count it read, and the write of REPC. -/
def State.repBack (s t : State) : State :=
  t.modCur (fun c => { c with repN := s.cur.repN, u := { c.u with repc := s.cur.u.repc } })

/-- The repetition of the bundle at PC that comes up: the one REPC names, or the first (R193). -/
def State.repAt (s : State) : Nat := if s.repResumes then (seg s.cur.u.repc 0 6).toNat else 0

/-- A fault of a bundle with a REP: at repetition 0 it leaves REPC.v = 0, but for the REP_COUNT of a resumption (R193). -/
def State.repTrap (s : State) (t : TrapInfo) : State :=
  (if s.repAt = 0 && !(s.repResumes && t.cause == cRepCount) then s.repOver else s).trapHere t

/-- The repetition of a bundle with a REP has come to a trap, to a hold, or to its end (R40, R41, R143, R192, R193). -/
def State.settleRep (s : State) (count : State) (ws others : List BWord) (resumed : Bool) (r : Run) : Out1 :=
  match r.trap, r.held with
  | some t, _ => .next (s.repTrap t.2)
  | none, some x => if isRep x.1.w then s.holdAs x.2 else count.holdWord x.1 x.2 s.repBack
  | none, none =>
    if !r.acc.cur.withinLimits then (s.repBack count).holdAs .other
    else if r.acc.iss.stays then
      -- a VAMO beside the REP goes first, alone
      match ws.find? (fun x => isVamo x.w) with
      | some x => andThen (exec x.i (s.atWord x true)) fun v => .next (v.vapMark false false).vapStays
      | none => s.holdAs .other
    else
      let taken := if resumed then s.cur.u.repc.getLsbD 8 else r.acc.iss.target.isSome
      if r.acc.iss.repMore then .next (r.acc.repDone taken)
      else if resumed then r.acc.repOver.lateEnd others taken
      else ({ r with acc := r.acc.repOver } : Run).done

/-- A bundle with a REP: the coming repetition, with the other words if they have not issued (notes/assumptions 58: DEDUCED). -/
def State.issueRep (s0 : State) (rep tgt : BWord) (l : List BWord) : Out1 :=
  let resumed := s0.repResumes && s0.cur.u.repc.getLsbD 7
  let s := if s0.repResumes then s0 else s0.repOver
  andThen (exec (if s.cur.repN.isSome then .repRepetition else rep.i) (({ s with ev := { s.ev with word := rep.w } } : State).atWord rep true)) fun o =>
    let (count, trap, held) : State × Option PosTrap × Option (BWord × HoldWhy) := match o.iss.verdict with
      | .trapped c v => (s, some (rep.pos, ⟨c, v⟩), none)
      | .held w => (s, none, some (rep, w))
      | _ => (o, none, none)
    let tw := repWord rep tgt s.repAt
    -- a count that fails is found before any word
    if trap.any (fun t => t.2.cause == cRepCount) then .next (s.repTrap ⟨cRepCount, ((trap.map (fun t => t.2.value)).getD 0)⟩)
    else match decodeIn s.curVer tw 0 with
    | none =>
      if s.repAt = 0 then exec .illegalOpcode { s.repOver with ev := { s.ev with word := tw, n := tgt.pos } }
      else exec .illegalOpcode { s with ev := { s.ev with word := tw, n := tgt.pos } }
    | some i =>
      let now : BWord := { tgt with w := tw, i := i }
      let others := l.filter (fun x => x.pos != rep.pos && x.pos != tgt.pos)
      let ws := if resumed then [now] else (l.filter (fun x => x.pos != rep.pos)).map (fun x => if x.pos = tgt.pos then now else x)
      andThen (runWords ws { acc := count, trap := trap, held := held }) (s.settleRep count ws others resumed)

/-- The issue of a bundle's words. -/
def State.issueBundle (s0 : State) (l : List BWord) : Out1 :=
  let s : State := { s0 with iss := { s0.iss with first := some s0.pkg.tag } }
  match l.find? (fun x => isRep x.w) with
  | some rep => match l.find? (fun x => x.pos == rep.pos + 1) with
    | some tgt => s.issueRep rep tgt l
    | none => .next (s.trapHere ⟨cIllegalBundle, w64 (12 + rep.pos)⟩)
  | none =>
    if l.any (fun x => isVamo x.w) then s.issueVamo l
    else andThen (runWords l { acc := s }) fun r => settleWords s (fun t => t) r Run.done

/-! ## Fetch (R134, R139, R163, R165, R177) -/

/-- A cycle that passes while a packet is awaited: what is in flight lands, but not before the first bundle of a context that has come
back to issue (R43, R52). -/
def State.fetchWait (s : State) : Out1 :=
  exec .resultLanding (if s.cur.resumed then { s with core := { s.core with switching := s.core.switching + 1 } } else s)

/-- The packet at an address is held, or its fetch begins, goes on, or completes. Straight-line code does not wait: the
packet comes in at once; the first fetch after a dispatch keeps to the bound of R27 (notes/assumptions 10: DEDUCED). -/
def State.needPacket (s : State) (base : Word) (k : Vector (BitVec 32) 3 → Out1) : Out1 :=
  match s.heldPacket base with
  | some w => k w
  | none =>
    if s.fetchHeld base then s.fetchWait
    else if s.cur.line && base == packetOf s.cur.pc then exec .packetFetch { s with ev := { s.ev with v := base } }
    else match s.core.fetching with
    | some (due, b) =>
      if b = base then
        if due ≤ s.core.cyc then exec .packetFetch { s with ev := { s.ev with v := base } } else s.fetchWait
      else ({ s with core := { s.core with fetching := none } } : State).fetchWait
    | none =>
      let (due, s1) := if s.cur.start then s.dueWithin (s.core.cyc + 4000) else s.dueSoon
      ({ s1 with core := { s1.core with fetching := some (due, base) } } : State).fetchWait

/-- The packets a bundle needs before it issues: of both delay bundles for an annulling branch, of nnPC for a link. -/
def State.packetsFor (s : State) (l : List BWord) : List Word :=
  (l.map (fun x => match majorOf x.w with
    | 5 => if (s.branchDisp (x.w.extractLsb' 21 2) (x.w.extractLsb' 0 16)).2 = 0 then [] else [packetOf s.cur.npc, packetOf s.cur.nnpc]
    | _ => match x.i with
      | .jal _ => [packetOf s.cur.nnpc]
      | .jalr _ _ _ => [packetOf s.cur.nnpc]
      | _ => [])).flatten

/-- Every packet of a list is held. -/
def State.needPackets (s : State) : List Word → Out1 → Out1
  | [], k => k
  | b :: t, k => s.needPacket b fun _ => s.needPackets t k

/-! ## The bundle at PC (R9, R135, R158, R387) -/

/-- The crossing of versions noted for the bundle at PC takes place now: one whose jump has reached it (R158). Code in S crosses
nothing. -/
def State.crossed (s : State) : State :=
  let c := s.cur
  if c.level == .s then s
  else s.modCur (fun c' => c'.modStrand (fun x =>
    { x with
      ver := match x.cross.find? (fun y => y.left == 0 && y.target == c.pc) with
        | some y => y.ver
        | none => x.ver }))

/-- Whether the bundle at PC stands in a section of another version, reached in a way that crosses nothing (R158). -/
def State.foreignHere (s : State) : Bool :=
  s.cur.level == .u && (match s.sectionOf s.cur.pc with
    | some q => q.ver != s.curVer
    | none => false)

/-- The first address of a fetch state that is no bundle start, at the first bundle after a dispatch or an SRET (R9). -/
def State.badStart (s : State) : Option Word :=
  if s.cur.start then [s.cur.npc, s.cur.nnpc].find? (fun x => !s.startOk x) else none

/-- Whether a TLBSYNC holds a bundle: one with an access, that of a SUSP, a TSPAWN or a matrix word and the push of a row among them, or a
SYS word (R110, R182, R348) (notes/assumptions 45: DEDUCED). -/
def State.tlbsyncHolds (s : State) (l : List BWord) : Bool :=
  let pushes := s.cur.streams.any (fun x => x.bound && x.out)
  l.any (fun x => pipeOf x.w == 2 || majorOf x.w == 22 || (pushes && 3 ≤ pipeOf x.w) || (match x.i with
    | .susp _ _ => true
    | .tspawn _ _ _ _ => true
    | .mloadp _ _ => true
    | .mtset _ _ _ => true
    | .mcall _ _ _ => true
    | _ => false))

/-- The bundle at PC, decoded, with the state in which it issues; or the trap it raises. -/
def State.bundleAtPc (s0 : State) (w : Vector (BitVec 32) 3) : Decoded × State :=
  let s := s0.crossed
  match bundleIn w s.cur.pc with
  | none => (.bad {} .illegalBundle, s)
  | some b =>
    if s.foreignHere then (.bad { word := w[b.start]?.getD 0 } .illegalOpcode, s)
    else (decodeBundle s.curVer s.cur.level b, s)

/-- The bundle at PC comes to issue, in the words of its packet. The packets that it needs besides are fetched, and their fetch faults
raised, before the states of its registers are looked at (R143, R163, R177) (notes/assumptions 86: DESIGN CHOICE). -/
def State.issueFrom (s0 : State) (w : Vector (BitVec 32) 3) : Out1 :=
  if (bundleIn w s0.cur.pc).isNone then .next (s0.trapHere ⟨cTargetAlign, s0.cur.pc⟩)
  else match s0.badStart with
    | some x => .next (s0.trapHere ⟨cTargetAlign, x⟩)
    | none =>
      match s0.bundleAtPc w with
      | (.bad e i, s) => exec i { s with ev := e }
      | (.sys x, s) => exec x.i (s.atWord x false)
      | (.words l, s) =>
        if s.cur.tlbHold && !s.tlbSynced && s.tlbsyncHolds l then s.holdAs .other
        else
          let s1 := if s.cur.tlbHold && s.tlbSynced then s.syncDone else s
          s1.needPackets (s1.packetsFor l) (s1.issueBundle l)

/-- Whether a wait stops issue: one of the level that issues, when its bundle has issued whole (R192, R279). -/
def Ctx.waiting (c : Ctx) : Bool :=
  c.repEnd.isNone && c.repN.isNone && c.strand.any (fun x => x.wait.any (fun w => c.level == .u || decide (c.sTag ≤ w.tag)))

/-- The why of a strand whose wait has been asked and not settled: it parks, where it does not yet (R279). -/
def Ctx.parks (c : Ctx) : Option (BitVec 8) :=
  if c.level == .u then
    c.strand.bind (fun x => (x.wait.filter (fun w => w.asked && w.res.isNone && !w.hit)).map (fun w => w.on.why))
  else none

/-- The current context's issue cycle. Annulled bundles pass before anything parks the strand (R164). -/
def State.issue (s : State) : Out1 :=
  if s.cur.annul != 0 then exec .annulledBundle s
  else if s.cur.waiting then
    match s.cur.parks with
    | some y => exec .resultLanding (s.suspend .parked y)
    | none => exec .resultLanding s
  else if s.atBreak then exec .addressBreak s
  else match s.cur.fpHold with
    | some (n + 1) => exec .resultLanding (s.modCur (fun c => { c with fpHold := some n }))
    | _ => s.needPacket (packetOf s.cur.pc) s.issueFrom

/-! ## Which context goes on (R13, R181) -/

/-- Whether a context is at work or can go on; not while its strand is being saved (R394). -/
def Ctx.canRun (c : Ctx) : Bool := c.level == .s || (c.saving.isNone && c.strand.any (fun x => x.state == .running || x.state == .ready))

/-- The current context cannot go on: the other resident, a new strand, a queue transfer, or an idle cycle. -/
def State.lookForWork (s : State) : Out1 :=
  if s.oth.canRun then .next s.switch
  else if s.taking.isSome then exec (if s.incoming.strand.isSome then .contextSave else .dispatch) s
  else if s.transferable.isSome then exec .queueTransfer s
  else if s.cur.yielded then .next (s.modCur (fun c => c.modStrand (fun x => { x with state := .running })))
  else exec .resultLanding s

/-- One cycle of the core. A core that has stopped, or is in no partition, issues nothing (R340, R351). -/
def State.cycle (s : State) : Out1 :=
  if s.core.switching ≠ 0 || s.core.halted || s.core.inPart.isNone then exec .resultLanding s
  else if s.cur.level == .s then s.issue
  else if s.cur.saving.isSome then s.lookForWork
  else match s.cur.strand with
    | none => s.lookForWork
    | some x =>
      if x.state = .running then s.issue
      else if x.state = .ready ∧ !s.cur.yielded then .next (s.modCur (fun c => c.modStrand (fun x => { x with state := .running })))
      else s.lookForWork

/-! ## A step -/

/-- Scratch is cleared before a step, and a free value is drawn at most once (the counter moves on). -/
def State.fresh (s : State) : State := { s with iss := {}, ev := {} }

/-- After an event the counter of free values moves past those it has drawn. -/
def State.pastDraws (s : State) : State := { s with choice := s.choice + 16 }

/-- The first event of a list that comes: one that is held changes nothing and leaves its turn to the next. -/
def firstEvent (s : State) : List Event → Option Out1
  | [] => none
  | (e, i) :: t =>
    match exec i { s with ev := e } with
    | .next o => match o.iss.verdict with
      | .held _ => firstEvent s t
      | _ => some (.next o.pastDraws)
    | o => some o

/-- When the condition of R367 began to hold, if it holds; when our die last ran a strand (R352). -/
def State.watchWork (s : State) : State :=
  let since := if s.stuckNow then s.core.stuckSince <|> some s.ptime.toNat else none
  let busy := s.cur.canRun || s.oth.canRun
  { s with
    core := { s.core with stuckSince := since }
    pkg := { s.pkg with dieIdle := if busy then s.pkg.dieIdle.set s.die.toNat s.core.isc s.die.isLt else s.pkg.dieIdle } }

/-- What goes on by itself beside a step: invalidations of the TLB (R372), STEP commands of strands that have gone
(R400). -/
def State.aside (s : State) : State :=
  let s1 := if s.core.tlbinvs.isEmpty then s else s.tlbStep
  let s2 := if s1.pkg.dbg.isEmpty then s1 else s1.stepExits
  s2.watchWork

/-- The step of a machine with power and an empty agenda: an event of its own that may come now, or a cycle of the core. -/
def State.ownStep (s : State) : Out1 :=
  match firstEvent s.fresh s.dueEvents with
  | some o => o
  | none => s.fresh.cycle

/-- The step of a machine without power: nothing but POWER_UP comes; it is silent to everything else (R419). -/
def State.darkStep (s : State) : Out1 :=
  match s.agenda with
  | (e, .powerUp) :: t => exec .powerUp { s.fresh with ev := e, agenda := t }
  | _ :: t => .next { s with agenda := t }
  | [] => .next s

end Sys2Proof.Machine
end

