-- ==== Sys2Proof/Machine/Step.lean ====
section
/-! DEFINITION. One step of the machine, and the placing of one instruction where the next step fetches it. -/

namespace Sys2Proof.Machine

/-- What stands beside a step follows it. -/
def followed (o : Out1) : Out1 := andThen o fun s => .next s.aside

/-- One step: the next event the environment has listed, else an event of the machine's own, else a cycle of the core. -/
def step (s : State) : Host.Outcome State Fault Refusal :=
  if s.pkg.powered then
    match s.agenda with
    | (e, i) :: t => followed (andThen (exec i { s.fresh with ev := e, agenda := t }) fun o => .next o.pastDraws)
    | [] => followed s.ownStep
  else s.darkStep

/-- The address at which `withFetchWord` places its packet: the first word of a packet. -/
def placeAt : Word := 0x60000

/-- The three words of the placed packet: the instruction, then NOPs; a word that has a REP's form is chained to a NOP, which
is its target. -/
def placedWords (w : Nat) : Vector (BitVec 32) 3 :=
  let w0 := BitVec.ofNat 32 w
  if isMovl w0 then #v[w0, BitVec.ofNat 32 (w / 2 ^ 32), 0x1C000000]
  else if isRep w0 then #v[w0 ||| 0x80000000, 0x1C000000, 0x1C000000]
  else #v[w0, 0x1C000000, 0x1C000000]

/-- The bytes of a packet. -/
def packetBytes (w : Vector (BitVec 32) 3) : List Byte := (w.toList.map (fun x => leBytes 4 x.toNat)).flatten

/-- The strand that runs the placed instruction. -/
def placedStrand : Strand :=
  { id := 1, recAddr := 0x70000, img := 0x70100, lnch := 0, part := 0, ver := 3, prio := 0, root := true, parCore := 0, parSeq := 0,
    state := .running, why := 0, level := 0 }

/-- The call of the matrix unit that runs a placed routine step: the step is the only one of its routine. -/
def placedCall (s : State) : MCall :=
  { sid := placedStrand.id, tag := 0, idx := 0, fl := 0, obj := 0, objAt := none, icore := 0, ma := s.cur.ma
    perms := s.cur.p.map (fun x => x.v), tiles := s.cur.t, accTile := some 0
    acc := Vector.replicate 64 { v := Vector.replicate 64 0, poison := false }
    outs := [], named := [], permsNamed := [], len := 1, started := true, due := 0 }

/-- Everything the placed instruction's fetch needs: two packets with the tables that map them, held by the core; the partition, a
running strand at the packet, in S for a SYS word. -/
def State.placed (s : State) (w : Nat) : State :=
  let ws := placedWords w
  let next : Vector (BitVec 32) 3 := #v[0x1C000000, 0x1C000000, 0x1C000000]
  let s1 := (((s.pokeAt { tt := 0, pa := 0x20000 } (leBytes 8 0x40001)).pokeAt { tt := 0, pa := 0x40000 } (leBytes 8 0x7B)).pokeAt
    { tt := 0, pa := placeAt.setWidth 52 } (packetBytes ws ++ packetBytes next))
  let satp : Word := 0x20
  let size : Word := if isMovl (BitVec.ofNat 32 w) || isRep (BitVec.ofNat 32 w) then 8 else 4
  { s1 with
    agenda := []
    cur := { s1.cur with
      strand := some placedStrand
      pc := placeAt
      npc := placeAt + size
      nnpc := placeAt + (if size = 8 then 12 else 8)
      annul := 0
      level := if majorOf (BitVec.ofNat 32 w) = 22 then .s else .u
      fpHold := none
      repN := none
      start := false
      sc := { s1.cur.sc with satp := satp, stvec := placeAt + 12, srec := placedStrand.recAddr, simg := placedStrand.img } }
    core := { s1.core with
      inPart := some 0
      halted := false
      switching := 0
      fetching := none
      packets := [{ va := placeAt, satp := satp, w := ws }, { va := placeAt + 12, satp := satp, w := next }] }
    pkg := { s1.pkg with
      powered := true
      bringUp := 7
      parts := [{ n := 0, cores := BitVec.allOnes 1024, satp := satp, stvec := placeAt + 12, ver := 3, preempted := false, busy := false }] } }

/-- The state with one instruction placed where the next step fetches it. A routine step of the matrix unit is placed in the
pattern store, as the step of a call that has started (notes/assumptions 7: DEDUCED). -/
def State.withFetchWord (s : State) (nbits w : Nat) : State :=
  match decode (BitVec.ofNat 32 w) (BitVec.ofNat 32 (w / 2 ^ 32)), nbits with
  | none, 64 =>
    let s1 := s.placed 0x1C000000
    { s1 with core := { s1.core with
        steps := s1.core.steps.set 0 (BitVec.ofNat 64 w)
        calls := [placedCall s1] } }
  | _, _ => s.placed w

end Sys2Proof.Machine
end

