-- ==== Sys2Proof/Safety.lean ====
section
/-! DEFINITION. What counts as a safe run, in the terms claims use: the one form of a state's data, a step that goes on, a word
that has issued with its own effect, and the conditions under which words issue. -/

namespace Sys2Proof

open Machine

/-- The data of a state are in their one form: memory's cells strictly rising with no listed byte that an unlisted address
reads as, and the poisoned lines strictly rising. -/
def Safe.Form (s : State) : Prop := Memory.wf s.mem = true ∧ s.poison.Pairwise (· < ·)

/-- A step goes on to a next state: it neither faults nor is refused. -/
def Safe.Goes (s : State) : Prop := ∃ t, step s = .next t

/-- A run of `n` steps goes on to the end. -/
def Safe.Runs : Nat → State → Prop
  | 0, _ => True
  | n + 1, s => ∃ t, step s = .next t ∧ Safe.Runs n t

/-- The state after a word that has issued with the effects `s` holds. -/
def Safe.issued (s : State) : State := { s with iss := { s.iss with verdict := .issued } }

/-- The state after a word that has ended its bundle itself, with the effects `s` holds. -/
def Safe.ended (s : State) : State := { s with iss := { s.iss with verdict := .ended } }

/-- The state in which a word was turned away: unchanged but for the verdict. -/
def Safe.held (s : State) (w : HoldWhy) : State := { s with iss := { s.iss with verdict := .held w } }

/-- No matrix call of the current strand is under way, so none blocks a word (R246). -/
def Safe.NoCall (s : State) : Prop := ∀ m ∈ s.core.calls, m.sid ≠ s.cur.sid

/-- A scalar register is FULL, so a read of it goes on (R38, R40). -/
def Safe.Full (s : State) (r : BitVec 5) : Prop := s.cur.sst r = .full

/-- A tile row that is FULL and is not popped from a stream. -/
def Safe.RowFull (s : State) (t : BitVec 4) (r : BitVec 6) : Prop :=
  (s.cur.rowReg t r).st = .full ∧ s.cur.streamOf false t = none

/-- A permutation register is FULL. -/
def Safe.PermFull (s : State) (p : BitVec 3) : Prop := (s.cur.pv p).full = true

/-- Rows written to a tile are not pushed to a stream. -/
def Safe.NoPush (s : State) (t : BitVec 4) : Prop := s.cur.streamOf true t = none

/-- The V pipe accepts a word (R44). -/
def Safe.VFree (s : State) : Prop := s.core.vbusy = 0

/-- No floating-point flag traps (R84). -/
def Safe.NoFpTrap (s : State) : Prop := enables s.cur.u.rm = 0

/-- The word stands behind no REP prefix with a mask. -/
def Safe.NoMask (s : State) : Prop := s.iss.ke = false

/-- The current strand is not a speculative task (R310), so no word is irrevocable for it. -/
def Safe.NotSpec (s : State) : Prop := s.curSpec = false

/-- The state after a V-pipe word has taken the pipe for `n` issue cycles. -/
def Safe.vTaken (s : State) (n : Nat) : State := { s with core := { s.core with vbusy := n } }

/-- An access of the current strand that passes its checks at `p` (R254), is not one of a task's tracked accesses (R304), and that no
ordering in force holds back (R119); a far target, only where the strand is not speculative (R310). -/
def Safe.Reaches (s : State) (k : Acc) (align n : Nat) (ea : Word) (p : Phys) : Prop :=
  s.check k align n ea = .ok p ∧ s.tracking k.writes ea = .plain ∧ s.accessHeld k.writes ea = false ∧ (p.far = true → NotSpec s)

/-- The bank of the own scratchpad that holds a location is free (R90), and no earlier access of that scratchpad waits to be
performed (R117). -/
def Safe.BankFree (s : State) (p : Phys) : Prop :=
  (∀ x ∈ s.core.banks, x.1 ≠ seg p.pa 8 5) ∧ ∀ q ∈ s.pkg.reqs, q.due < s.core.cyc → s.ownServed q = false

/-- The registers and special registers that `t` shows are those of `s`: nothing has been written yet. -/
def Safe.SameRegs (s t : State) : Prop :=
  (∀ r, t.cur.sv r = s.cur.sv r ∧ t.cur.sst r = s.cur.sst r)
    ∧ (∀ x, t.cur.tile x = s.cur.tile x)
    ∧ (∀ k, t.cur.kv k = s.cur.kv k)
    ∧ (∀ p, t.cur.pv p = s.cur.pv p)
    ∧ (∀ m, t.cur.mav m = s.cur.mav m)
    ∧ t.cur.u = s.cur.u ∧ t.cur.sc = s.cur.sc ∧ t.cur.level = s.cur.level
    ∧ t.oth = { s.oth with strand := t.oth.strand }

/-- The registers, special registers, memory and poison that `t` shows are those of `s`, and the other context is the same. -/
def Safe.SameMachine (s t : State) : Prop :=
  SameRegs s t ∧ (∀ a, t.mem.get a = s.mem.get a) ∧ t.poison = s.poison ∧ t.oth = s.oth

end Sys2Proof
end

