-- ==== Sys2Proof/Certificates/Slice0/Obligations.lean ====
section
/-! DEFINITION. The statements for the provers. Each docstring names the rule of the spec a statement formalises; statements whose
conclusion is that `exec` answers a next state say where an instruction completes. -/

open Sys2Proof Sys2Proof.Machine Sys2Proof.Safe

/-! ## Scalar words (07 R166-R173, 03 R75) -/

/-- The SALU instructions of two sources that write their result by themselves: constructor, latency, result (R167). -/
def Sys2Proof.Claim.salu2 : List ((BitVec 5 → BitVec 5 → BitVec 5 → BitVec 1 → BitVec 1 → Instr) × Nat × (Word → Word → Word)) :=
  [ (.add, 1, fun a b => BitVec.ofNat 64 (a.toNat + b.toNat))
  , (.sub, 1, fun a b => BitVec.ofInt 64 (a.toInt - b.toInt))
  , (.and_, 1, fun a b => a &&& b)
  , (.or_, 1, fun a b => a ||| b)
  , (.xor_, 1, fun a b => a ^^^ b)
  , (.andn, 1, fun a b => a &&& ~~~b)
  , (.orn, 1, fun a b => a ||| ~~~b)
  , (.shl, 1, fun a b => BitVec.ofNat 64 (a.toNat * 2 ^ (b.toNat % 64)))
  , (.shr, 1, fun a b => BitVec.ofNat 64 (a.toNat / 2 ^ (b.toNat % 64)))
  , (.sra, 1, fun a b => BitVec.ofInt 64 (a.toInt / 2 ^ (b.toNat % 64)))
  , (.ror, 1, fun a b => (a >>> (b.toNat % 64)) ||| (if b.toNat % 64 = 0 then 0 else a <<< (64 - b.toNat % 64)))
  , (.mul, 3, fun a b => BitVec.ofNat 64 (a.toNat * b.toNat))
  , (.mulh, 3, fun a b => BitVec.ofInt 64 (a.toInt * b.toInt / 2 ^ 64))
  , (.mulhu, 3, fun a b => BitVec.ofNat 64 (a.toNat * b.toNat / 2 ^ 64))
  , (.min, 1, fun a b => if a.toInt ≤ b.toInt then a else b)
  , (.max, 1, fun a b => if b.toInt ≤ a.toInt then a else b)
  , (.minu, 1, fun a b => if a.toNat ≤ b.toNat then a else b)
  , (.maxu, 1, fun a b => if b.toNat ≤ a.toNat then a else b)
  , (.slt, 1, fun a b => if a.toInt < b.toInt then 1 else 0)
  , (.sltu, 1, fun a b => if a.toNat < b.toNat then 1 else 0)
  , (.seq, 1, fun a b => if a = b then 1 else 0)
  , (.sne, 1, fun a b => if a = b then 0 else 1)
  , (.addw, 1, fun a b => (BitVec.ofNat 32 (a.toNat + b.toNat)).signExtend 64)
  , (.subw, 1, fun a b => (BitVec.ofInt 32 (a.toInt - b.toInt)).signExtend 64)
  , (.mulw, 3, fun a b => (BitVec.ofNat 32 (a.toNat * b.toNat)).signExtend 64)
  , (.shlw, 1, fun a b => (BitVec.ofNat 32 (a.toNat * 2 ^ (b.toNat % 32))).signExtend 64)
  , (.shrw, 1, fun a b => (BitVec.ofNat 32 (a.toNat % 2 ^ 32 / 2 ^ (b.toNat % 32))).signExtend 64)
  , (.sraw, 1, fun a b => BitVec.ofInt 64 ((a.setWidth 32).toInt / 2 ^ (b.toNat % 32))) ]

/-- R167: each of the 28 SALU instructions above, with both sources FULL, issues, and its result is on its way to d with the
latency of the table; nothing else changes. -/
def Sys2Proof.Claim.SaluTwoSources : Prop :=
  ∀ x ∈ Claim.salu2, ∀ (d a b : BitVec 5) (wa wb : BitVec 1) (s : State), NoCall s → Full s a → Full s b →
    exec (x.1 d a b wa wb) s = .next (issued (s.pushS x.2.1 d (x.2.2 (s.cur.sv a) (s.cur.sv b))))

/-- R167: CLZ, CTZ, POPC, BSWAP, SEXT, ZEXT, LEA and the two CMOVs: their results, latency 1. CMOVZ and CMOVNZ read d as a
third source and always write it (R169). -/
def Sys2Proof.Claim.SaluOtherForms : Prop :=
  ∀ (d a b : BitVec 5) (wa wb : BitVec 1) (sb : BitVec 3) (s : State), NoCall s → Full s a →
    exec (.clz d a wa) s = .next (issued (s.pushS 1 d (BitVec.ofNat 64
        (((List.range 64).find? (fun i => (s.cur.sv a).getLsbD (63 - i))).getD 64))))
    ∧ exec (.ctz d a wa) s = .next (issued (s.pushS 1 d (BitVec.ofNat 64
        (((List.range 64).find? (fun i => (s.cur.sv a).getLsbD i)).getD 64))))
    ∧ exec (.popc d a wa) s = .next (issued (s.pushS 1 d (BitVec.ofNat 64
        ((List.range 64).filter (fun i => (s.cur.sv a).getLsbD i)).length)))
    ∧ (∃ v : Word, exec (.bswap d a wa) s = .next (issued (s.pushS 1 d v))
        ∧ ∀ i, i < 8 → v.extractLsb' (8 * i) 8 = (s.cur.sv a).extractLsb' (8 * (7 - i)) 8)
    ∧ (∀ n, (sb = 0 ∧ n = 8) ∨ (sb = 1 ∧ n = 16) ∨ (sb = 2 ∧ n = 32) →
        exec (.sext d a wa sb) s = .next (issued (s.pushS 1 d (((s.cur.sv a).setWidth n).signExtend 64)))
        ∧ exec (.zext d a wa sb) s = .next (issued (s.pushS 1 d (((s.cur.sv a).setWidth n).setWidth 64))))
    ∧ (Full s b →
        exec (.lea d a b wa wb sb) s
          = .next (issued (s.pushS 1 d (BitVec.ofNat 64 ((s.cur.sv a).toNat + (s.cur.sv b).toNat * 2 ^ sb.toNat))))
        ∧ (Full s d →
            exec (.cmovz d a b wa wb) s
              = .next (issued (s.pushS 1 d (if s.cur.sv b = 0 then s.cur.sv a else s.cur.sv d)))
            ∧ exec (.cmovnz d a b wa wb) s
              = .next (issued (s.pushS 1 d (if s.cur.sv b ≠ 0 then s.cur.sv a else s.cur.sv d)))))

/-- A delivery of a whole value to a register of the current strand, under the next tag. -/
def Sys2Proof.Claim.whole (s : State) (d : Dest) (v : Row) (due : Due) : Dlv :=
  { sid := s.cur.sid, tag := s.pkg.tag, dest := d, v := v, sel := BitVec.allOnes 256, poison := false, due := due }

/-- R75: the four divisions. -/
def Sys2Proof.Claim.divs : List ((BitVec 5 → BitVec 5 → BitVec 5 → BitVec 1 → BitVec 1 → Instr) × (Word → Word → Word)) :=
  [ (.div, fun a b => if b = 0 then BitVec.ofInt 64 (-1) else BitVec.ofInt 64 (Int.tdiv a.toInt b.toInt))
  , (.divu, fun a b => if b = 0 then BitVec.allOnes 64 else BitVec.ofNat 64 (a.toNat / b.toNat))
  , (.rem, fun a b => if b = 0 then a else BitVec.ofInt 64 (a.toInt - b.toInt * Int.tdiv a.toInt b.toInt))
  , (.remu, fun a b => if b = 0 then a else BitVec.ofNat 64 (a.toNat % b.toNat)) ]

/-- R75, R170: a division never traps: it issues, marks d EMPTY at the end of the issue cycle (unless d is s0) and queues the
value for delivery at an issue cycle from c + 4 to c + 68; no flag is on its way, no register and no byte of memory has changed
yet. -/
def Sys2Proof.Claim.Divisions : Prop :=
  ∀ x ∈ Claim.divs, ∀ (d a b : BitVec 5) (wa wb : BitVec 1) (s : State), NoCall s → Full s a → Full s b →
    ∃ (t : State) (n : Nat), exec (x.1 d a b wa wb) s = .next t ∧ t.iss.verdict = .issued ∧ 4 ≤ n ∧ n ≤ 68
      ∧ t.pkg.dlvs = s.pkg.dlvs ++ [Claim.whole s (.s d) ((x.2 (s.cur.sv a) (s.cur.sv b)).setWidth 2048) (.issue (s.core.isc + n))]
      ∧ (d ≠ 0 → { rem := 1, eff := .mark (.s d) } ∈ t.cur.pend)
      ∧ (∀ y ∈ t.cur.pend, y ∈ s.cur.pend ∨ y.eff = .mark (.s d))
      ∧ SameMachine s t

/-- The words of the scalar unit issue with their results: the two-source words, the other forms, the divisions. -/
def Obligations.ScalarArithmetic : Prop := Claim.SaluTwoSources ∧ Claim.SaluOtherForms ∧ Claim.Divisions

/-- The SIMM instructions with an immediate sign-extended to 64 bits: result (R171). -/
def Sys2Proof.Claim.simm : List ((BitVec 5 → BitVec 5 → BitVec 13 → Instr) × (Word → Word → Word)) :=
  [ (.addi, fun a i => BitVec.ofInt 64 (a.toInt + i.toInt))
  , (.andi, fun a i => a &&& i)
  , (.ori, fun a i => a ||| i)
  , (.xori, fun a i => a ^^^ i)
  , (.slti, fun a i => if a.toInt < i.toInt then 1 else 0)
  , (.sltiu, fun a i => if a.toNat < i.toNat then 1 else 0) ]

/-- R171: every SIMM instruction, its source FULL, issues with its result, latency 1. -/
def Sys2Proof.Claim.SimmResults : Prop :=
  ∀ (d a : BitVec 5) (s : State), NoCall s → Full s a →
    (∀ x ∈ Claim.simm, ∀ imm : BitVec 13,
      exec (x.1 d a imm) s = .next (issued (s.pushS 1 d (x.2 (s.cur.sv a) (imm.signExtend 64)))))
    ∧ ∀ n : BitVec 6,
      exec (.shli d a n) s = .next (issued (s.pushS 1 d (BitVec.ofNat 64 ((s.cur.sv a).toNat * 2 ^ n.toNat))))
      ∧ exec (.shri d a n) s = .next (issued (s.pushS 1 d (BitVec.ofNat 64 ((s.cur.sv a).toNat / 2 ^ n.toNat))))
      ∧ exec (.srai d a n) s = .next (issued (s.pushS 1 d (BitVec.ofInt 64 ((s.cur.sv a).toInt / 2 ^ n.toNat))))

/-- R172, R173: MOVZ, MOVN, MOVL and MOVL.S issue with their constants; MOVK and MOVLH, d FULL, change part of d: every bit
of the result is an immediate's bit or d's. -/
def Sys2Proof.Claim.ConstantWords : Prop :=
  ∀ (d : BitVec 5) (s : State), NoCall s →
    (∀ (hw : BitVec 2) (imm : BitVec 16),
      exec (.movz d hw imm) s = .next (issued (s.pushS 1 d (BitVec.ofNat 64 (imm.toNat * 2 ^ (16 * hw.toNat)))))
      ∧ exec (.movn d hw imm) s = .next (issued (s.pushS 1 d (~~~ BitVec.ofNat 64 (imm.toNat * 2 ^ (16 * hw.toNat)))))
      ∧ (Full s d → ∃ v : Word, exec (.movk d hw imm) s = .next (issued (s.pushS 1 d v))
          ∧ ∀ i, i < 64 → v.getLsbD i
              = if 16 * hw.toNat ≤ i ∧ i < 16 * hw.toNat + 16 then imm.getLsbD (i - 16 * hw.toNat) else (s.cur.sv d).getLsbD i))
    ∧ ∀ x : BitVec 32,
      exec (.movl d x) s = .next (issued (s.pushS 1 d (BitVec.ofNat 64 x.toNat)))
      ∧ exec (.movlS d x) s = .next (issued (s.pushS 1 d (BitVec.ofInt 64 x.toInt)))
      ∧ (Full s d → exec (.movlh d x) s = .next (issued (s.pushS 1 d (s.cur.sv d ||| BitVec.ofNat 64 (x.toNat * 2 ^ 32)))))

/-- The immediate and constant words issue with their results. -/
def Obligations.ImmediateWords : Prop := Claim.SimmResults ∧ Claim.ConstantWords

/-- R40: a SALU word of two sources whose first register is not FULL, the second being FULL: EMPTY blocks with wa = 0 (the word
is held, nothing changes) and raises EMPTY_READ with wa = 1; EXPIRED and POISONED raise their causes; the trap value names
the register. -/
def Sys2Proof.Claim.SourceStates : Prop :=
  ∀ x ∈ Claim.salu2, ∀ (d a b : BitVec 5) (wb : BitVec 1) (s : State), Full s b →
    (s.cur.sst a = .empty →
      exec (x.1 d a b 0 wb) s = .next (held s .blocked)
      ∧ exec (x.1 d a b 1 wb) s = .next (s.trapHere ⟨cEmptyRead, a.setWidth 64⟩))
    ∧ ∀ wa : BitVec 1,
      (s.cur.sst a = .expired → exec (x.1 d a b wa wb) s = .next (s.trapHere ⟨cExpired, a.setWidth 64⟩))
      ∧ (s.cur.sst a = .poisoned → exec (x.1 d a b wa wb) s = .next (s.trapHere ⟨cPoison, a.setWidth 64⟩))

/-- The frame of the scalar words: as long as one of them issues, whatever its operands, no register, flag, special register or
byte of memory has changed: the result is only on its way (R43). Its landing is LandingFrame. -/
def Sys2Proof.Claim.ScalarFrame : Prop :=
  ∀ (d a b : BitVec 5) (wa wb : BitVec 1) (sb : BitVec 3) (i13 : BitVec 13) (n : BitVec 6) (hw : BitVec 2) (i16 : BitVec 16)
    (x : BitVec 32) (s t : State),
    ∀ i ∈ Claim.salu2.map (fun y => y.1 d a b wa wb) ++ Claim.divs.map (fun y => y.1 d a b wa wb)
        ++ Claim.simm.map (fun y => y.1 d a i13)
        ++ [ .clz d a wa, .ctz d a wa, .popc d a wa, .bswap d a wa, .sext d a wa sb, .zext d a wa sb, .lea d a b wa wb sb
           , .cmovz d a b wa wb, .cmovnz d a b wa wb, .shli d a n, .shri d a n, .srai d a n, .movz d hw i16, .movk d hw i16
           , .movn d hw i16, .movl d x, .movlS d x, .movlh d x ],
      exec i s = .next t → t.iss.verdict = .issued → SameMachine s t ∧ t.cur.pc = s.cur.pc ∧ t.core.steps = s.core.steps

/-- What the state of a scalar source does, and what a scalar word leaves as it was. -/
def Obligations.ScalarSourcesAndFrame : Prop := Claim.SourceStates ∧ Claim.ScalarFrame

/-! ## Registers, results in flight and their landing (02 R32-R47) -/

/-- R32, R33: in every context s0 reads zero, k0 reads all ones and p0 is the identity, whose switch settings are all 0; a write to
one of them is discarded. -/
def Obligations.HardWiredRegisters : Prop :=
  ∀ c : Ctx, c.sv 0 = 0 ∧ c.sst 0 = .full ∧ c.kv 0 = BitVec.allOnes 256 ∧ (c.pv 0).v = 0 ∧ (c.pv 0).full = true
    ∧ (∀ x, c.setS 0 x = c) ∧ (∀ v, c.setK 0 v = c) ∧ (∀ x, c.setP 0 x = c)

/-- What a landing result writes (R33, R38, R47): a scalar takes the value and becomes FULL or POISONED, s0 nothing; a row takes
the bytes the selector names and keeps the others; a permutation and a matrix argument take the value. -/
def Sys2Proof.Claim.LandingWrites : Prop :=
  ∀ (s : State) (v : Row) (sel : Mask) (poison : Bool),
    (∀ r : BitVec 5, r ≠ 0 →
      (s.land (.write (.s r) v sel poison)).cur.sv r = v.setWidth 64
      ∧ (s.land (.write (.s r) v sel poison)).cur.sst r = if poison then .poisoned else .full)
    ∧ (s.land (.write (.s 0) v sel poison)).cur = s.cur
    ∧ (∀ (t : BitVec 4) (r : BitVec 6), NoPush s t →
      ((s.land (.write (.row t r) v sel poison)).cur.rowReg t r).st = (if poison then .poisoned else .full)
      ∧ ((s.land (.write (.row t r) v sel poison)).cur.tile t).live = true
      ∧ ∀ i, i < 256 → lane 8 ((s.land (.write (.row t r) v sel poison)).cur.rowReg t r).v i
          = if sel.getLsbD i then lane 8 v i else lane 8 (s.cur.rowReg t r).v i)
    ∧ (∀ p : BitVec 3, p ≠ 0 →
      (s.land (.write (.p p) v sel poison)).cur.pv p = { v := v.setWidth 352, full := true })
    ∧ (∀ m : BitVec 3, (s.land (.write (.ma m) v sel poison)).cur.mav m = v.setWidth 64)

/-- The frame of a landing result: every register but its destination, every flag and special register, every byte of memory and
the other context are unchanged (a row of a tile bound to an out-bound stream is left out here: it is pushed, R110). -/
def Sys2Proof.Claim.LandingFrame : Prop :=
  ∀ (s : State) (d : Dest) (v : Row) (sel : Mask) (poison : Bool), (∀ t r, d = .row t r → NoPush s t) →
    let u := s.land (.write d v sel poison)
    (∀ r, d ≠ .s r → u.cur.sv r = s.cur.sv r ∧ u.cur.sst r = s.cur.sst r)
    ∧ (∀ t r, d ≠ .row t r → u.cur.rowReg t r = s.cur.rowReg t r)
    ∧ (∀ t, (u.cur.tile t).attr = (s.cur.tile t).attr ∧ (u.cur.tile t).tsw = (s.cur.tile t).tsw
        ∧ (u.cur.tile t).bm = (s.cur.tile t).bm)
    ∧ (∀ k, d ≠ .k k → u.cur.kv k = s.cur.kv k)
    ∧ (∀ p, d ≠ .p p → u.cur.pv p = s.cur.pv p)
    ∧ (∀ m, d ≠ .ma m → u.cur.mav m = s.cur.mav m)
    ∧ u.cur.u = s.cur.u ∧ u.cur.sc = s.cur.sc ∧ u.cur.pc = s.cur.pc ∧ u.oth = s.oth
    ∧ (∀ a, u.mem.get a = s.mem.get a) ∧ u.poison = s.poison

/-- What lands at the end of an issue cycle, and what stays. -/
def Obligations.Landing : Prop := Claim.LandingWrites ∧ Claim.LandingFrame

/-- R39, R42, R15: a long-latency result for the current strand in U: a marked register takes it, becomes FULL (or POISONED), and
is marked no longer; without its mark, as when a later write has landed, the register keeps its value. While the strand is being
saved, the delivery waits for the image, and the register keeps its value (R395). -/
def Sys2Proof.Claim.LongLatencyDelivery : Prop :=
  ∀ (s : State) (d : BitVec 5) (x : Dlv), d ≠ 0 → x.dest = .s d → x.sid = s.cur.sid → s.cur.level = .u →
    (s.marked x.sid x.tag (.s d) = true → s.cur.saving = none →
      (s.arrive x).cur.sv d = x.v.setWidth 64
      ∧ (s.arrive x).cur.sst d = (if x.poison then .poisoned else .full)
      ∧ (s.arrive x).marked x.sid x.tag (.s d) = false)
    ∧ (s.marked x.sid x.tag (.s d) = false ∨ s.cur.saving.isSome →
      (s.arrive x).cur.sv d = s.cur.sv d ∧ (s.arrive x).cur.sst d = s.cur.sst d ∧ (s.arrive x).pkg = s.pkg)

/-- R33, R39: a long-latency producer with destination d cancels the earlier results in flight to d and marks d EMPTY at the end of
its issue cycle; with s0 it marks nothing. -/
def Sys2Proof.Claim.ProducerMarks : Prop :=
  ∀ (s : State) (tag : Nat) (d : BitVec 5), 
    (d ≠ 0 → (s.mark tag (.s d)).marked s.cur.sid tag (.s d) = true
      ∧ (∀ p ∈ (s.mark tag (.s d)).cur.pend, p.eff.writesTo (.s d) = false)
      ∧ { rem := 1, eff := .mark (.s d) } ∈ (s.mark tag (.s d)).cur.pend
      ∧ (s.land (.mark (.s d))).cur.sst d = .empty)
    ∧ s.mark tag (.s 0) = s

/-- A long-latency producer marks its destination, and its delivery fills it.
It rests on the model's choices of log entries 9, 54. -/
def Obligations.LongLatency : Prop := Claim.ProducerMarks ∧ Claim.LongLatencyDelivery

/-- R84: where an enabled flag would be raised, the bundle that has been evaluated raises FP_TRAP, whose value holds all the flags
and the position of the word, and FFL is unchanged at entry. -/
def Obligations.EnabledFlagTraps : Prop :=
  ∀ (s : State) (f : BitVec 6) (l : Nat) (k : State → Res), f &&& enables s.cur.u.rm ≠ 0 → s.cur.fpHold = some 0 →
    s.withFlags l f k = .trap ⟨cFpTrap, BitVec.ofNat 64 (f.toNat + 256 * s.iss.pos.toNat)⟩

/-! ## Control (07 R160-R193) -/

/-- R160: when a bundle has issued, PC and nPC take nPC and nnPC, and nnPC the target of a taken control word, else the bundle
that follows the old nnPC; one delay bundle fewer is annulled. -/
def Obligations.FetchStateMovesOn : Prop :=
  ∀ (s : State) (target : Option Word),
    (s.afterBundle target).cur.pc = s.cur.npc
    ∧ (s.afterBundle target).cur.npc = s.cur.nnpc
    ∧ (s.afterBundle target).cur.nnpc = (match target with
        | some t => t
        | none => s.seq s.cur.nnpc)
    ∧ (s.afterBundle target).cur.annul = s.cur.annul - 1
    ∧ (s.afterBundle target).mem = s.mem
    ∧ ∀ r, (s.afterBundle target).cur.sv r = s.cur.sv r

/-- The conditions of the eight branches (R174). -/
def Sys2Proof.Claim.branches : List ((BitVec 2 → BitVec 5 → BitVec 16 → Instr) × (Word → Bool)) :=
  [ (.beqz, fun v => decide (v.toNat = 0))
  , (.bnez, fun v => decide (v.toNat ≠ 0))
  , (.bltz, fun v => decide (v.toInt < 0))
  , (.bgez, fun v => decide (0 ≤ v.toInt))
  , (.bgtz, fun v => decide (0 < v.toInt))
  , (.blez, fun v => decide (v.toInt ≤ 0))
  , (.bbs, fun v => decide (v.toNat % 2 = 1))
  , (.bbc, fun v => decide (v.toNat % 2 = 0)) ]

/-- The state after a branch has issued: its target, if it is taken, and whether its delay bundles are annulled. -/
def Sys2Proof.Claim.branched (s : State) (annul : Bool) (target : Option Word) : State :=
  match target with
  | none => { s with iss := { s.iss with annul := annul } }
  | some t => { s with iss := { s.iss with annul := annul, target := some t, ver := s.crossing t false } }

/-- R174, R162, R144, R155, R156: a branch whose register is FULL issues; it is taken when its condition holds, to the word's address plus
four times the displacement; its delay bundles are annulled by an = 1 when it is not taken and by an = 2 when it is; under version 1 the
word has no annulment field, whose bits are the upper ones of the displacement; a taken branch whose target is no bundle start raises
TARGET_ALIGN with the target as the trap value. -/
def Sys2Proof.Claim.Branches : Prop :=
  ∀ x ∈ Claim.branches, ∀ (an : BitVec 2) (a : BitVec 5) (disp : BitVec 16) (s : State),
    NoCall s → Full s a →
    let far := if s.curVer = 1 then (an ++ disp).toInt else disp.toInt
    let annuls := if s.curVer = 1 then 0 else an
    let target := s.cur.pc + BitVec.ofNat 64 (4 * s.iss.pos.toNat) + BitVec.ofInt 64 (4 * far)
    (x.2 (s.cur.sv a) = false →
      exec (x.1 an a disp) s = .next (issued (Claim.branched s (decide (annuls = 1)) none)))
    ∧ (x.2 (s.cur.sv a) = true → s.startOk target = true →
      exec (x.1 an a disp) s = .next (issued (Claim.branched s (decide (annuls = 2)) (some target))))
    ∧ (x.2 (s.cur.sv a) = true → s.startOk target = false →
      exec (x.1 an a disp) s = .next (s.trapHere ⟨cTargetAlign, target⟩))

/-- The state after a jump has issued, before its link is written. -/
def Sys2Proof.Claim.jumped (s : State) (target : Word) (mark : Bool) : State :=
  { s with iss := { s.iss with target := some target, ver := s.crossing target mark } }

/-- R175, R176, R177, R144: JMP, JAL and JALR are always taken. JAL writes seq(nnPC) to s31 and JALR to d, latency 1, with bit 0 set
when the jump crosses versions; a JALR register with bit 1 set raises TARGET_ALIGN with the register's value, and a target
that is no bundle start raises it with the target. -/
def Sys2Proof.Claim.Jumps : Prop :=
  ∀ (d a : BitVec 5) (wa : BitVec 1) (disp : BitVec 25) (s : State), NoCall s →
    let near := s.cur.pc + BitVec.ofNat 64 (4 * s.iss.pos.toNat) + BitVec.ofInt 64 (4 * disp.toInt)
    let far := s.cur.sv a &&& ~~~3
    let mark := (s.cur.sv a).getLsbD 0
    let link := fun (t : State) => s.seq s.cur.nnpc ||| (if t.iss.ver.isSome then 1 else 0)
    (s.startOk near = true →
      exec (.jmp disp) s = .next (issued (Claim.jumped s near false))
      ∧ exec (.jal disp) s
          = .next (issued ((Claim.jumped s near false).pushS 1 31 (link (Claim.jumped s near false)))))
    ∧ (s.startOk near = false →
      exec (.jmp disp) s = .next (s.trapHere ⟨cTargetAlign, near⟩)
      ∧ exec (.jal disp) s = .next (s.trapHere ⟨cTargetAlign, near⟩))
    ∧ (Full s a → (s.cur.sv a).getLsbD 1 = false → s.startOk far = true →
      exec (.jalr d a wa) s
        = .next (issued ((Claim.jumped s far mark).pushS 1 d (link (Claim.jumped s far mark)))))
    ∧ (Full s a → (s.cur.sv a).getLsbD 1 = false → s.startOk far = false →
      exec (.jalr d a wa) s = .next (s.trapHere ⟨cTargetAlign, far⟩))
    ∧ (Full s a → (s.cur.sv a).getLsbD 1 = true →
      exec (.jalr d a wa) s = .next (s.trapHere ⟨cTargetAlign, s.cur.sv a⟩))

/-- Branches and jumps issue with their decision, target and annulment. That bit 0 of JALR's register marks a crossing is the model's
reading, log entry 71 (DEDUCED). -/
def Obligations.BranchesAndJumps : Prop := Claim.Branches ∧ Claim.Jumps

/-- R178, R179, R180, R181: NOP changes nothing. TRAP issues its bundle and then traps with cause TRAP and its code; in a
speculative task it is deferred before the bundle issues (R312). BRK traps before its bundle issues, with value 0. YIELD
suspends the strand READY with why = 5 after its bundle; QUANT does so when the quantum is spent, and is a NOP otherwise. -/
def Obligations.ControlWords : Prop :=
  ∀ (b : BitVec 5) (sb : BitVec 3) (s : State), NoCall s → s.iss.repMore = false →
    let code := BitVec.ofNat 64 (b.toNat * 8 + sb.toNat)
    exec .nop s = .next (issued s)
    ∧ ((s.cur.level = .s ∨ NotSpec s) → exec (.trap b sb) s = .next (ended (s.bundleDone.trapHere ⟨cTrap, code⟩)))
    ∧ (s.cur.level = .u → s.curSpec = true → exec (.trap b sb) s = .next (s.trapHere ⟨cTrap, code⟩))
    ∧ exec .brk s = .next (s.trapHere ⟨cBreak, 0⟩)
    ∧ (∃ t, exec .yield s = .next t ∧ t.iss.verdict = .ended
        ∧ ∀ x, s.bundleDone.cur.strand = some x →
            ∃ y, t.cur.strand = some y ∧ y.id = x.id ∧ y.state = .ready ∧ y.why = 5 ∧ y.level = y.prio)
    ∧ (s.cur.sc.quantum ≠ 0 → s.cur.sc.quantum.toNat ≤ s.cur.sc.qcnt.toNat → exec .quant s = exec .yield s)
    ∧ (s.cur.sc.quantum = 0 ∨ s.cur.sc.qcnt.toNat < s.cur.sc.quantum.toNat → exec .quant s = .next (issued s))

/-- R185, R186: CSRR reads a user CSR at issue, latency 2; CSRW queues s[d] for the CSR at the end of the issue cycle; CSRX does both
with the old values. A read of FFL that a full fence holds back waits, with nothing changed (R261). In a launch that is recorded a
read of CYC, ISC or PTIME is noted as well, and in one that is replayed it gives what the log feeds (R416, R417). -/
def Sys2Proof.Claim.UserCsrWords : Prop :=
  ∀ (d : BitVec 5) (n : BitVec 10) (s : State), NoCall s →
    (s.fflHeld n = false → exec (.csrr d n) s = .next (issued (s.readCsr d n)))
    ∧ (Full s d → exec (.csrw d n) s = .next (issued (s.push 1 (.csr n (s.cur.sv d)))))
    ∧ (Full s d → s.fflHeld n = false →
        exec (.csrx d n) s = .next (issued ((s.readCsr d n).push 1 (.csr n (s.cur.sv d)))))
    ∧ (s.fflHeld n = true → exec (.csrr d n) s = .next (held s .other)
        ∧ (Full s d → exec (.csrx d n) s = .next (held s .other)))
    ∧ ((n ≠ 0 ∧ n ≠ 1 ∧ n ≠ 17) ∨ s.pkg.launches = [] → s.readCsr d n = s.pushS 2 d (s.csr n))
    ∧ (s.readCsr d n).cur = (s.pushS 2 d (s.csrSeen n)).cur ∧ (s.readCsr d n).mem = s.mem

/-- R186 with R83, R193, R268, R279 and R391: a write of a user CSR that has landed reads back with its reserved bits 0; a write of a
read-only user CSR changes nothing. -/
def Sys2Proof.Claim.UserCsrLanding : Prop :=
  ∀ (s : State) (v : Word),
    (s.land (.csr 0x007 v)).csr 0x007 = v &&& 0x3F
    ∧ (s.land (.csr 0x008 v)).cur.u.repc.getLsbD 9 = false
    ∧ (s.land (.csr 0x00A v)).csr 0x00A = v &&& 0xFFFFFFFFFFFF
    ∧ (s.land (.csr 0x00C v)).csr 0x00C = v &&& 0x1FF
    ∧ (s.land (.csr 0x010 v)).csr 0x010 = v
    ∧ (s.land (.csr 0x014 v)).csr 0x014 = v
    ∧ ∀ n ∈ ([0x000, 0x001, 0x002, 0x003, 0x004, 0x005, 0x011, 0x012, 0x013] : List (BitVec 10)), s.land (.csr n v) = s

/-- The words that read and write user CSRs, and what their writes land as. -/
def Obligations.UserCsrs : Prop := Claim.UserCsrWords ∧ Claim.UserCsrLanding

/-- R188, R190, R193, R155: a REP, at a fresh bundle or at one that REPC resumes, reads its count (an immediate plus 1, or a FULL
register as an unsigned number) and brings up repetition 0, or the one that REPC names, under the mask k where the prefix has one;
a count of 0, above 64 (16 under version 1), or that the repetition to come does not lie below, raises REP_COUNT with the count as
its value. It rests on the model's choices of log entry 58. -/
def Sys2Proof.Claim.RepPrefix : Prop :=
  ∀ (cnt : BitVec 6) (creg : BitVec 1) (stp : BitVec 4) (stride : BitVec 2) (ke : BitVec 1) (k : BitVec 3) (s : State),
    NoCall s → (creg = 1 → Full s (cnt.setWidth 5)) →
    let n : Word := if creg = 1 then s.cur.sv (cnt.setWidth 5) else BitVec.ofNat 64 (cnt.toNat + 1)
    let limit := if s.curVer = 1 then 16 else 64
    let i := if s.repResumes then (s.cur.u.repc.extractLsb' 0 6).toNat else 0
    (n.toNat ≤ limit → i < n.toNat →
      ∃ t, exec (.rep cnt creg stp stride ke k) s = .next t ∧ t.iss.verdict = .issued ∧ t.iss.inRep = true ∧ t.iss.repI = i
        ∧ t.iss.repN = n.toNat ∧ t.iss.repMore = decide (i + 1 < n.toNat) ∧ t.iss.ke = decide (ke = 1) ∧ t.iss.mask = s.cur.kv k
        ∧ t.cur.repN = some n.toNat ∧ SameMachine s t)
    ∧ (n.toNat ≤ i ∨ limit < n.toNat →
      exec (.rep cnt creg stp stride ke k) s = .next (s.trapHere ⟨cRepCount, n⟩))

/-- R191: a further repetition, whatever the state, issues at its place: where the environment's word is the bundle's REP, of whose
count repetitions remain, the repetition that REPC names comes up under the mask as it reads now, with no new read of the count. -/
def Sys2Proof.Claim.RepAgain : Prop :=
  ∀ s : State, ∃ t, exec .repRepetition s = .next t ∧ t.iss.verdict = .issued ∧ SameMachine s t
    ∧ ∀ cnt creg stp stride ke k n, decode s.ev.word 0 = some (.rep cnt creg stp stride ke k) → s.cur.repN = some n →
      t.iss.inRep = true ∧ t.iss.repI = (s.cur.u.repc.extractLsb' 0 6).toNat ∧ t.iss.repN = n
        ∧ t.iss.repMore = decide ((s.cur.u.repc.extractLsb' 0 6).toNat + 1 < n) ∧ t.iss.ke = decide (ke = 1)
        ∧ t.iss.mask = s.cur.kv k ∧ t.cur.repN = some n

/-- The REP prefix and its further repetitions come up. It rests on the model's choices of log entry 58. -/
def Obligations.RepWords : Prop := Claim.RepPrefix ∧ Claim.RepAgain

/-! ## Memory words (11 R254-R262) -/

/-- R254, R371: the checks of an access in their order: alignment, translation, permission, target; the first that fails decides
the cause, and the trap value is the address. -/
def Sys2Proof.Claim.AccessChecks : Prop :=
  ∀ (s : State) (k : Acc) (align n : Nat) (ea : Word),
    (ea.toNat % align ≠ 0 → s.check k align n ea = .error ⟨cMisaligned, ea⟩)
    ∧ (ea.toNat % align = 0 →
      (∀ c, s.xlate s.cur.sc.satp ea = .error c → s.check k align n ea = .error ⟨c, ea⟩)
      ∧ ∀ e b, s.xlate s.cur.sc.satp ea = .ok (e, b) →
        ((k.reads = true ∧ e.getLsbD 3 = false) ∨ (k.writes = true ∧ e.getLsbD 4 = false)
            ∨ (s.cur.level = .u ∧ e.getLsbD 6 = false) →
          s.check k align n ea = .error ⟨cPermission, ea⟩)
        ∧ (permRefused k s.cur.level e = false →
          (s.targetRefused k n (physOf e b ea) = true → s.check k align n ea = .error ⟨cTargetType, ea⟩)
          ∧ (s.targetRefused k n (physOf e b ea) = false → s.check k align n ea = .ok (physOf e b ea))))

/-- The value of a scalar load from the bytes read (R255). -/
def Sys2Proof.Claim.loaded (n : Nat) (zx : BitVec 1) (bs : List Byte) : Word :=
  if zx = 1 then BitVec.ofNat 64 (ofBytes bs) else (BitVec.ofNat (8 * n) (ofBytes bs)).signExtend 64

/-- A whole result in flight with `l` issue cycles to go. -/
def Sys2Proof.Claim.lands (l : Nat) (d : Dest) (v : Row) (poison : Bool) : Pend :=
  { rem := l, eff := .write d v (BitVec.allOnes 256) poison }

/-- What a load word at issue leaves when it has to wait for its home (R256, R45): the request of the strand in flight, its
destination (if it has one) marked; nothing written yet. -/
def Sys2Proof.Claim.asked (s t : State) (op : ReqOp) (p : Phys) (acq : Option (BitVec 2)) (d : Option Dest) : Prop :=
  t.iss.verdict = .issued ∧ SameMachine s t
    ∧ (∃ q : Req, t.pkg.reqs = s.pkg.reqs ++ [q] ∧ q.sid = s.cur.sid ∧ q.op = op ∧ q.loc = p ∧ q.acq = acq ∧ q.rel = none
        ∧ ∀ x, d = some x → t.marked s.cur.sid q.tag x = true)
    ∧ ∀ x, d = some x → { rem := 1, eff := .mark x } ∈ t.cur.pend

/-- R255, R256, R90: LD and LD.acq, the base FULL and the access good. From the own scratchpad outside windows, whose bank must be
free and is occupied for two cycles, the bytes are read at issue and arrive with latency 4; from anywhere else the word is a
long-latency producer. LD.acq carries its acquire with it. No register and no byte of memory has changed yet. -/
def Sys2Proof.Claim.ScalarLoads : Prop :=
  ∀ (d base : BitVec 5) (sz sc : BitVec 2) (zx : BitVec 1) (off : BitVec 9) (s : State) (p : Phys), NoCall s → Full s base →
    let n := 2 ^ sz.toNat
    Reaches s .load n n (s.eaM base sz off) p →
    (s.exposed p = true → BankFree s p →
      let lands := Claim.lands 4 (.s d) ((Claim.loaded n zx (s.readAt p n)).setWidth 2048) (s.badAt p n)
      (∃ t, exec (.ld d base sz zx off) s = .next t ∧ t.iss.verdict = .issued ∧ SameMachine s t
        ∧ t.cur.pend = s.cur.pend ++ [lands] ∧ t.core.banks = (seg p.pa 8 5, 2) :: s.core.banks)
      ∧ (NotSpec s → ∃ t, exec (.ldAcq d base sz zx sc off) s = .next t ∧ t.iss.verdict = .issued ∧ SameMachine s t
        ∧ t.cur.pend = s.cur.pend ++ [lands] ∧ t.core.banks = (seg p.pa 8 5, 2) :: s.core.banks))
    ∧ (s.exposed p = false →
      let dst : LoadTo := if d = 0 then .none else .scalar d (zx == 1)
      let dest : Option Dest := if d = 0 then none else some (.s d)
      (∃ t, exec (.ld d base sz zx off) s = .next t ∧ Claim.asked s t (.load n dst) p none dest)
      ∧ (NotSpec s → ∃ t, exec (.ldAcq d base sz zx sc off) s = .next t ∧ Claim.asked s t (.load n dst) p (some sc) dest))

/-- The bytes of memory after a write of `bs` at key `k`: those bytes there, every other byte as before. -/
def Sys2Proof.Claim.stored (s t : State) (k : Nat) (bs : List Byte) : Prop :=
  (∀ i, i < bs.length → t.mem.get (k + i) = bs.getD i 0) ∧ ∀ a, a < k ∨ k + bs.length ≤ a → t.mem.get a = s.mem.get a

/-- What a store word at issue leaves when it is posted to its home (R256): the write in flight with its bytes, nothing written
yet. -/
def Sys2Proof.Claim.posted (s t : State) (bs : List Byte) (p : Phys) (rel : Option (BitVec 2)) : Prop :=
  t.iss.verdict = .issued ∧ SameMachine s t
    ∧ ∃ q : Req, t.pkg.reqs = s.pkg.reqs ++ [q] ∧ q.sid = s.cur.sid ∧ q.op = .store bs ∧ q.loc = p ∧ q.rel = rel ∧ q.acq = none

/-- R255, R256: ST and ST.rel, base and source FULL and the access good, with the frame. To the own scratchpad outside windows the
low bytes of the source are written at issue, at the location the address reaches, and every other byte of memory, every
register and every poison mark stays; anywhere else the write is posted. A release waits for what it releases (R119). -/
def Sys2Proof.Claim.ScalarStores : Prop :=
  ∀ (d base : BitVec 5) (sz sc : BitVec 2) (off : BitVec 9) (s : State) (p : Phys), NoCall s → Form s → Full s base →
    Full s d →
    let n := 2 ^ sz.toNat
    let bs := leBytes n (s.cur.sv d).toNat
    Reaches s .store n n (s.eaM base sz off) p →
    (s.exposed p = true → BankFree s p →
      (∃ t, exec (.st d base sz off) s = .next t ∧ t.iss.verdict = .issued ∧ SameRegs s t ∧ t.cur.pend = s.cur.pend
        ∧ Claim.stored s t p.key0 bs ∧ t.poison = s.poison)
      ∧ (NotSpec s → s.releaseWaits s.cur.sid s.pkg.tag sc = false →
        ∃ t, exec (.stRel d base sz sc off) s = .next t ∧ t.iss.verdict = .issued ∧ SameRegs s t ∧ t.cur.pend = s.cur.pend
          ∧ Claim.stored s t p.key0 bs ∧ t.poison = s.poison))
    ∧ (s.exposed p = false →
      (∃ t, exec (.st d base sz off) s = .next t ∧ Claim.posted s t bs p none)
      ∧ (NotSpec s → ∃ t, exec (.stRel d base sz sc off) s = .next t ∧ Claim.posted s t bs p (some sc)))

/-- Scalar loads and stores. It rests on the model's choices of log entry 52. -/
def Obligations.ScalarMemory : Prop := Claim.ScalarLoads ∧ Claim.ScalarStores

/-- R258, R259, R262: LDR, LDRB and PFT. LDR and LDRB, the base FULL and the tile pushed to no stream, read their row or their one
element at issue with latency 6 from the own scratchpad outside windows, and are long-latency elsewhere; LDRB copies the
element into every position, and raises FORMAT for an element of fewer than 8 bits. PFT issues whatever its base and changes no
register, no byte of memory, no request and no ordering; with a base that is not FULL it does nothing at all. -/
def Sys2Proof.Claim.RowLoads : Prop :=
  ∀ (tt : BitVec 4) (r : BitVec 6) (base : BitVec 5) (off : BitVec 8) (s : State) (p : Phys), NoCall s →
    (∃ t, exec (.pft base off) s = .next t ∧ t.iss.verdict = .issued ∧ SameMachine s t ∧ t.pkg.reqs = s.pkg.reqs
      ∧ t.pkg.fences = s.pkg.fences ∧ t.cur = s.cur ∧ (s.cur.sst base ≠ .full → t = issued s))
    ∧ (Full s base → NoPush s tt →
      (Reaches s .row 256 256 (s.eaW base off) p →
        (s.exposed p = true → BankFree s p →
          ∃ t, exec (.ldr tt r base off) s = .next t ∧ t.iss.verdict = .issued ∧ SameMachine s t
            ∧ t.cur.pend = s.cur.pend ++ [Claim.lands 6 (.row tt r) (rowOf (s.readAt p 256)) (s.badAt p 256)])
        ∧ (s.exposed p = false →
          ∃ t, exec (.ldr tt r base off) s = .next t ∧ Claim.asked s t (.load 256 (.row tt r)) p none (some (.row tt r))))
      ∧ ∀ m, 1 ≤ m → (fmtOf (s.efmt tt)).bits = 8 * m → Reaches s .row m m (s.eaW base off) p →
        (s.exposed p = true → BankFree s p →
          ∃ t v, exec (.ldrb tt r base off) s = .next t ∧ t.iss.verdict = .issued ∧ SameMachine s t
            ∧ t.cur.pend = s.cur.pend ++ [Claim.lands 6 (.row tt r) v (s.badAt p m)]
            ∧ ∀ i, i < 256 → lane 8 v i = (s.readAt p m).getD (i % m) 0)
        ∧ (s.exposed p = false →
          ∃ t, exec (.ldrb tt r base off) s = .next t ∧ Claim.asked s t (.load m (.bcast tt r)) p none (some (.row tt r))))
    ∧ (Full s base → (fmtOf (s.efmt tt)).bits < 8 → exec (.ldrb tt r base off) s = .next (s.trapHere ⟨cFormat, 0⟩))

/-- R258: STR, base and row FULL and the access good, with the frame: the 256 bytes of the row are written at issue in the own
scratchpad outside windows, every other byte and every register stays, and the poison marks of the row's lines are
cleared (R410); anywhere else the write is posted. The row of a stream-bound tile is the stored one (R109). -/
def Sys2Proof.Claim.RowStores : Prop :=
  ∀ (tt : BitVec 4) (r : BitVec 6) (base : BitVec 5) (off : BitVec 8) (s : State) (p : Phys), NoCall s → Form s →
    Full s base → (s.cur.rowReg tt r).st = .full →
    let bs := rowBytes (s.cur.rowReg tt r).v
    Reaches s .rowStore 256 256 (s.eaW base off) p →
    (s.exposed p = true → BankFree s p → p.pa.toNat % 256 = 0 →
      ∃ t, exec (.str tt r base off) s = .next t ∧ t.iss.verdict = .issued ∧ SameRegs s t ∧ t.cur.pend = s.cur.pend
        ∧ Claim.stored s t p.key0 bs
        ∧ ∀ l, t.poison.elem l = (s.poison.elem l && !decide (p.key0 / 64 ≤ l ∧ l < p.key0 / 64 + 4)))
    ∧ (s.exposed p = false → ∃ t, exec (.str tt r base off) s = .next t ∧ Claim.posted s t bs p none)

/-- Row loads and stores. It rests on the model's choices of log entries 8, 52. -/
def Obligations.RowMemory : Prop := Claim.RowLoads ∧ Claim.RowStores

/-- R254, R304: where the check of a memory word's address fails, the word takes the trap the check gives, and nothing else
happens; an access of an ordered task outside its sets raises UNDECLARED with bit 63 of the address clear. -/
def Sys2Proof.Claim.MemoryTraps : Prop :=
  ∀ (d base : BitVec 5) (sz : BitVec 2) (zx : BitVec 1) (o9 : BitVec 9) (o8 : BitVec 8) (tt : BitVec 4) (r : BitVec 6) (s : State)
    (e : TrapInfo) (p : Phys), Full s base →
    let n := 2 ^ sz.toNat
    let undeclared := fun (ea : Word) => s.trapHere ⟨cUndeclared, ea &&& 0x7FFFFFFFFFFFFFFF⟩
    (s.check .load n n (s.eaM base sz o9) = .error e → exec (.ld d base sz zx o9) s = .next (s.trapHere e))
    ∧ (s.check .load n n (s.eaM base sz o9) = .ok p → s.tracking false (s.eaM base sz o9) = .undeclared →
        exec (.ld d base sz zx o9) s = .next (undeclared (s.eaM base sz o9)))
    ∧ (Full s d →
      (s.check .store n n (s.eaM base sz o9) = .error e → exec (.st d base sz o9) s = .next (s.trapHere e))
      ∧ (s.check .store n n (s.eaM base sz o9) = .ok p → s.tracking true (s.eaM base sz o9) = .undeclared →
        exec (.st d base sz o9) s = .next (undeclared (s.eaM base sz o9))))
    ∧ (NoPush s tt → s.check .row 256 256 (s.eaW base o8) = .error e → exec (.ldr tt r base o8) s = .next (s.trapHere e))
    ∧ ((s.cur.rowReg tt r).st = .full → s.check .rowStore 256 256 (s.eaW base o8) = .error e →
        exec (.str tt r base o8) s = .next (s.trapHere e))

/-- What the checks of an address find, and that a memory word whose address fails traps.
It rests on the model's choices of log entry 49. -/
def Obligations.AddressChecks : Prop := Claim.AccessChecks ∧ Claim.MemoryTraps

/-- The conditions under which a described row can be reached (R260, R261): a format with elements, an aligned stream, every block
good, none of them tracked or held back, and, for a load, none of them written by an access of the strand on its way (R117). -/
def Sys2Proof.Claim.rowReaches (s : State) (k : Acc) (tt : BitVec 4) (base : BitVec 5) (n : BitVec 8) (bl : List (Nat × Phys)) : Prop :=
  let f := fmtOf (s.efmt tt)
  f.bits ≠ 0 ∧ (s.cur.sv base).toNat % 64 = 0
    ∧ s.descBlocks k (s.cur.sv base) (blocksOf f (n.toNat * f.rowLanes) f.rowLanes) = .ok bl
    ∧ (∀ b ∈ bl, s.tracking k.writes (s.cur.sv base + BitVec.ofNat 64 (64 * b.1)) = .plain)
    ∧ s.accessHeld k.writes (s.cur.sv base) = false
    ∧ (k.writes = false → ∀ b ∈ bl, s.accessPending b.2 64 = false)

/-- R260, R261: LDRD and STRD with good blocks. LDRD reads the headers of the blocks that hold its row's elements before issue: one
that is at fault raises FORMAT at the lowest such block; else the row is asked for, long-latency. STRD hands its row and its
blocks to their home, which rewrites each. Neither has changed a register or a byte of memory yet, but for header shadows that
LDRD fills. It rests on the model's choices of log entry 14. -/
def Obligations.DescribedRows : Prop :=
  ∀ (tt : BitVec 4) (r : BitVec 6) (base : BitVec 5) (n : BitVec 8) (s : State) (bl : List (Nat × Phys)), NoCall s → Full s base →
    let f := fmtOf (s.efmt tt)
    let first := n.toNat * f.rowLanes
    let hs := bl.map (fun b => (b.1, b.2, hdrOf (s.headerOf b.2)))
    (NoPush s tt → Claim.rowReaches s .described tt base n bl →
      ((∀ b ∈ hs, hdrFault (s.efmt tt) true b.2.2 = false) →
        ∃ t q ds, exec (.ldrd tt r base n) s = .next t ∧ t.iss.verdict = .issued ∧ SameRegs s t
          ∧ t.pkg.reqs = s.pkg.reqs ++ [q] ∧ q.sid = s.cur.sid ∧ t.marked s.cur.sid q.tag (.row tt r) = true
          ∧ q.op = .ldrd { fmt := s.efmt tt, first := first, lanes := f.rowLanes, blocks := hs } tt r s.cur.u.rm ds)
      ∧ ∀ b, hs.find? (fun b => hdrFault (s.efmt tt) true b.2.2) = some b →
        exec (.ldrd tt r base n) s = .next (s.trapHere ⟨cFormat, s.cur.sv base + BitVec.ofNat 64 (64 * b.1)⟩))
    ∧ ((s.cur.rowReg tt r).st = .full → Claim.rowReaches s .describedStore tt base n bl →
      ∃ t q, exec (.strd tt r base n) s = .next t ∧ t.iss.verdict = .issued ∧ SameMachine s t
        ∧ t.pkg.reqs = s.pkg.reqs ++ [q] ∧ q.sid = s.cur.sid
        ∧ q.op = .strd { fmt := s.efmt tt, first := first, lanes := f.rowLanes, blocks := bl.map (fun b => (b.1, b.2, 0)) }
            (s.cur.rowReg tt r).v s.cur.u.rm s.cur.genNow)
    ∧ (f.bits = 0 → NoPush s tt → exec (.ldrd tt r base n) s = .next (s.trapHere ⟨cFormat, 0⟩))

/-! ## Atomics (11 R263-R270) -/

/-- The atomics of one operand in the A format, with their function codes (R263). -/
def Sys2Proof.Claim.atoms : List ((BitVec 5 → BitVec 5 → BitVec 5 → BitVec 1 → Instr) × BitVec 5) :=
  [ (.aadd, 0), (.aand, 1), (.aor, 2), (.axor, 3), (.amin, 4), (.amax, 5), (.aminu, 6), (.amaxu, 7), (.aswap, 8), (.aqinc, 10)
  , (.aqwrap, 11), (.afadd, 15) ]

/-- The bytes an operand size names. -/
def Sys2Proof.Claim.atomSize (sz : BitVec 1) : Nat := if sz = 1 then 8 else 4

/-- An atomic that a strand may issue now at `ea`: its check is good at `p`, which is no location of the host's own atomics, it is not
outside the sets of an ordered task, no ordering holds it back, and on the own scratchpad its bank is free (R90, R254, R265, R304). -/
def Sys2Proof.Claim.mayAtom (s : State) (n : Nat) (ea : Word) (p : Phys) : Prop :=
  NoCall s ∧ NotSpec s ∧ s.check .atomic n n ea = .ok p ∧ p.hostOp = false ∧ s.tracking true ea ≠ .undeclared
    ∧ s.accessHeld true ea = false ∧ (s.exposed p = true → BankFree s p)

/-- R263, R265: every scalar atomic, its sources FULL and its access good, issues as a long-latency producer: its function and
operands are on their way to its home, d is marked (unless it is s0), nothing is written yet. -/
def Sys2Proof.Claim.AtomicWords : Prop :=
  ∀ (d a b c : BitVec 5) (sz : BitVec 1) (s : State) (p : Phys), Full s a →
    let ea := s.cur.sv a
    let x := s.cur.sv b
    let dest : Option Dest := if d = 0 then none else some (.s d)
    let asks := fun (i : Instr) (op : ReqOp) => ∃ t, exec i s = .next t ∧ Claim.asked s t op p none dest
    (Claim.mayAtom s (Claim.atomSize sz) ea p →
      (Full s b → ∀ f ∈ Claim.atoms, asks (f.1 d a b sz) (.atomic f.2 (sz == 1) x 0 d))
      ∧ (Full s b → Full s c → asks (.acas d a b c sz) (.atomic 9 (sz == 1) x (s.cur.sv c) d))
      ∧ asks (.aqdec d a sz) (.atomic 12 (sz == 1) 0 0 d))
    ∧ (Claim.mayAtom s 16 ea p → Full s b →
      asks (.aqaddl d a b) (.atomic 13 true x 0 d) ∧ asks (.aqchunk d a b) (.atomic 14 true x 0 d))

/-- R263, R264: what an atomic of width w writes, if it does, and returns, from the old value m, the operands b and c and the word
that follows the location: all functions but AFADD, whose sum rounds. -/
def Sys2Proof.Claim.AtomicResults : Prop :=
  ∀ w, w = 32 ∨ w = 64 → ∀ (m b c : BitVec w) (lim : Nat),
    let f := fun (fn : BitVec 5) => atomicOp fn (w == 64) m.toNat b.toNat c.toNat lim
    let sx : Word := m.signExtend 64
    let zx : Word := m.setWidth 64
    let failed : Word := zx ||| 0x8000000000000000
    f 0 = (some (m + b).toNat, sx)
    ∧ f 1 = (some (m &&& b).toNat, sx)
    ∧ f 2 = (some (m ||| b).toNat, sx)
    ∧ f 3 = (some (m ^^^ b).toNat, sx)
    ∧ f 4 = (some (if m.toInt ≤ b.toInt then m.toNat else b.toNat), sx)
    ∧ f 5 = (some (if b.toInt ≤ m.toInt then m.toNat else b.toNat), sx)
    ∧ f 6 = (some (if m.toNat ≤ b.toNat then m.toNat else b.toNat), sx)
    ∧ f 7 = (some (if b.toNat ≤ m.toNat then m.toNat else b.toNat), sx)
    ∧ f 8 = (some b.toNat, sx)
    ∧ f 9 = (if m = b then some c.toNat else none, sx)
    ∧ f 10 = (if m.toNat < b.toNat then (some (m.toNat + 1), zx) else (none, failed))
    ∧ f 11 = (some (if b = 0 then (m + 1).toNat else (m.toNat + 1) % b.toNat), zx)
    ∧ f 12 = (if m = 0 then (none, failed) else (some (m.toNat - 1), zx))
    ∧ (w = 64 → f 13 = if m.toNat + b.toNat ≤ lim then (some (m.toNat + b.toNat), zx) else (none, failed))
    ∧ (w = 64 → lim < 2 ^ 64 → f 14 =
        if lim ≤ m.toNat then (none, BitVec.ofNat 64 (2 ^ 63 + m.toNat % 2 ^ 40))
        else
          let rem := lim - m.toNat
          let q := if b.toNat % 2 ^ 16 = 0 then 1 else b.toNat % 2 ^ 16
          let ch := min (min (max (b.toNat / 2 ^ 16 % 2 ^ 16) ((rem + q - 1) / q)) rem) 0x7FFFFF
          (some (m.toNat + ch), BitVec.ofNat 64 (ch * 2 ^ 40 + m.toNat % 2 ^ 40)))

/-- A place whose bytes stand in memory as they read, and whose write reaches those bytes alone: no line cache, encryption or header
shadow comes into it (R68, R88, R378). -/
def Sys2Proof.Claim.plainPlace (s : State) (p : Phys) (n : Nat) : Prop :=
  p.pooled = false ∧ s.encrypted p = false ∧ p.d = false
    ∧ (p.tt = 0 → ∀ l ∈ linesOf p.pa.toNat n, s.pkg.shadowKnown.elem l = false)

/-- R265, R125: an atomic performed at its home, at a plain place that is not poisoned: the copies of its line or tile are taken back
first; then the new value, if the function gives one, is the only change of memory; a failed one writes nothing; the old value's
result sets out to d; no register changes. Where no core holds a copy, taking back changes no byte and no poison. -/
def Sys2Proof.Claim.HomePerformsAtomic : Prop :=
  ∀ (s : State) (q : Req) (p : Phys) (fn : BitVec 5) (sz : BitVec 1) (b c : Word) (d : BitVec 5), Form s →
    let u := s.atHome p 16
    let n := Claim.atomSize sz
    q.op = .atomic fn (sz == 1) b c d → q.host = false → Claim.plainPlace s p n → u.badAt p 16 = false →
    (fn = 13 ∨ fn = 14 → sz = 1) →
    let m := ofBytes (u.readAt p n)
    let r := atomicOp fn (sz == 1) m (b.toNat % 2 ^ (8 * n)) (c.toNat % 2 ^ (8 * n))
      (if fn = 13 ∨ fn = 14 then ofBytes (u.readAt (p.plus 8) 8) else 0)
    let t := s.performServed q p
    SameRegs s t
    ∧ (∀ v, r.1 = some v → Claim.stored u t p.key0 (leBytes n v))
    ∧ (r.1 = none → ∀ a, t.mem.get a = u.mem.get a)
    ∧ (∃ due, t.pkg.dlvs = s.pkg.dlvs ++
        [{ sid := q.sid, tag := q.tag, dest := .s d, v := r.2.setWidth 2048, sel := BitVec.allOnes 256, poison := false, due := due }])
    ∧ (s.copyOf p = none → s.ownSpad p = false ∨ s.inWindow (seg p.pa 0 21) = false → u.mem = s.mem ∧ u.poison = s.poison)

/-- What each atomic function computes, and what performing one changes. -/
def Obligations.AtomicEffects : Prop := Claim.AtomicResults ∧ Claim.HomePerformsAtomic

/-- R270: at a page of the host with C = 0: an atomic that is none of AADD, ASWAP and ACAS raises HOST_ATOMIC with the address,
as does one that the host port does not support; one that it supports is sent once, and holds its bundle; the host's value then goes to d, long-latency; an
Unsupported Request raises HOST_ATOMIC. -/
def Sys2Proof.Claim.HostAtomics : Prop :=
  ∀ (d a b : BitVec 5) (sz : BitVec 1) (s : State) (p : Phys), NoCall s → NotSpec s → Full s a → Full s b →
    let ea := s.cur.sv a
    s.check .atomic (Claim.atomSize sz) (Claim.atomSize sz) ea = .ok p → p.hostOp = true → s.tracking true ea ≠ .undeclared →
    (∀ f ∈ Claim.atoms, f.2 ≠ 0 → f.2 ≠ 8 → exec (f.1 d a b sz) s = .next (s.trapHere ⟨cHostAtomic, ea⟩))
    ∧ (Config.hostAtomicSupport (if sz = 1 then 1 else 0) = false → exec (.aadd d a b sz) s = .next (s.trapHere ⟨cHostAtomic, ea⟩))
    ∧ (Config.hostAtomicSupport (if sz = 1 then 1 else 0) = true → s.accessHeld true ea = false →
      (s.cur.hostOp = none →
        ∃ t q, exec (.aadd d a b sz) s = .next t ∧ t.iss.verdict = .held .other ∧ t.pkg.reqs = s.pkg.reqs ++ [q]
          ∧ q.op = .atomic 0 (sz == 1) (s.cur.sv b) 0 0 ∧ q.loc = p ∧ q.host = true ∧ t.cur.hostOp = some (ea, .pending))
      ∧ (∀ v, s.cur.hostOp = some (ea, .value v) →
        ∃ t tag, exec (.aadd d a b sz) s = .next t ∧ t.iss.verdict = .issued ∧ t.cur.hostOp = none
          ∧ t.pkg.dlvs = s.pkg.dlvs ++ [Claim.whole { s with pkg := { s.pkg with tag := tag } } (.s d) (v.setWidth 2048)
              (.wall s.core.cyc)])
      ∧ (s.cur.hostOp = some (ea, .unsupported) → exec (.aadd d a b sz) s = .next (s.trapHere ⟨cHostAtomic, ea⟩)))

/-- Scalar atomics at the homes of the pod and at the host. It rests on the model's choices of log entries 21, 38, 60. -/
def Obligations.ScalarAtomics : Prop := Claim.AtomicWords ∧ Claim.HostAtomics

/-- The addresses and operands of a VAMO. -/
def Sys2Proof.Claim.vamoLane (s : State) (t : BitVec 4) (row : BitVec 6) (k : Nat) : Word := lane 64 (s.cur.rowReg t row).v k

/-- R267, R268: VAMO, afresh or resumed at the lane that VAP names (where td.row is no longer EMPTY), its rows FULL, no lane of it at
the host's own atomics, none held back, on the own scratchpad none at an occupied bank. With every remaining lane good all of them are sent, td.row is marked and VAP.v is 0; with a
later lane j the first bad one the lanes below j are sent, the bundle stays and VAP names lane j; with the first lane bad the trap is
taken and nothing has happened. It rests on the model's choices of log entries 8, 46. -/
def Obligations.VectorAtomics : Prop :=
  ∀ (op : BitVec 3) (td ta tb : BitVec 4) (row : BitVec 6) (s : State) (p : Nat → Phys) (j : Nat), NoCall s → NotSpec s →
    (s.cur.rowReg ta row).st = .full → (s.cur.rowReg tb row).st = .full → NoPush s td →
    let first := if s.vapResumes then (s.cur.u.vap.extractLsb' 0 6).toNat else 0
    (s.vapResumes = true → s.cur.isEmpty (.row td row) = false) →
    first < 32 → first ≤ j → j ≤ 32 →
    (∀ k, first ≤ k → k < j → s.vamoCheck op (Claim.vamoLane s ta row k) = .ok (p k) ∧ (p k).hostOp = false
      ∧ s.accessHeld true (Claim.vamoLane s ta row k) = false ∧ (s.exposed (p k) = true → BankFree s (p k))) →
    let lanes := ((List.range (j - first)).map (first + ·)).map (fun k =>
      ({ lane := k, loc := p k, b := Claim.vamoLane s tb row k, va := Claim.vamoLane s ta row k } : VamoLane))
    let bad := s.vapResumes && (s.cur.rowReg td row).st == .poisoned
    let sent := fun (t : State) => t.iss.verdict = .issued ∧ (∀ r, t.cur.sv r = s.cur.sv r) ∧ (∀ x, t.cur.tile x = s.cur.tile x)
      ∧ (∀ a, t.mem.get a = s.mem.get a)
      ∧ ∃ q : Req, t.pkg.reqs = s.pkg.reqs ++ [q] ∧ q.op = .vamo op lanes td row bad ∧ q.sid = s.cur.sid
        ∧ t.marked s.cur.sid q.tag (.row td row) = true
    (j = 32 → ∃ t, exec (.vamo op td ta tb row) s = .next t ∧ sent t ∧ t.iss.stays = s.iss.stays ∧ t.cur.u.vap.getLsbD 6 = false)
    ∧ (∀ e, j < 32 → s.vamoCheck op (Claim.vamoLane s ta row j) = .error e →
      (first < j → ∃ t, exec (.vamo op td ta tb row) s = .next t ∧ sent t ∧ t.iss.stays = true
        ∧ t.cur.u.vap.extractLsb' 0 8 = BitVec.ofNat 8 (0xC0 + j)
        ∧ t.cur.u.vap.extractLsb' 10 54 = s.cur.pc.extractLsb' 2 54)
      ∧ (j = first → exec (.vamo op td ta tb row) s = .next (s.trapHere e)))

/-! ## Synchronisation (12 R271-R283, 07 R182) -/

/-- R272, R119, R310: a FENCE of a strand that is not speculative issues with no access of its own; from then on an acquire holds
every access while an earlier read is not performed, a release every write while a release waits for an earlier access, a
full fence every access. -/
def Sys2Proof.Claim.FenceOrders : Prop :=
  ∀ (ord sc : BitVec 2) (s : State), NoCall s → NotSpec s →
    ∃ t, exec (.fence ord sc) s = .next t ∧ t.iss.verdict = .issued ∧ SameMachine s t ∧ t.pkg.reqs = s.pkg.reqs
      ∧ ∀ (w : Bool) (va : Word), ∀ q ∈ s.pkg.reqs, q.sid = s.cur.sid → q.tag < s.pkg.tag →
        ((ord = 0 ∨ ord = 2) → q.op.isRead = true → q.old = false → t.accessHeld w va = true)
        ∧ ((ord = 1 ∨ ord = 2) → s.awaited sc q = true → t.accessHeld true va = true)
        ∧ (ord = 3 → s.awaited sc q = true → t.accessHeld w va = true)

/-- R273, R132: RELT and ACQT on a range of tiles issue with no access of their own: a start that is no multiple of 16 KiB is
MISALIGNED; 0 tiles have no effect; with readable pages the orderings are in force: every write waits for an earlier store any of whose
bytes lie in the tiles, every access to the tiles for an earlier read; IFENCE discards every held packet once
every earlier access of the strand is performed, and is held until then (R134, R274). -/
def Sys2Proof.Claim.RangeFences : Prop :=
  ∀ (a b : BitVec 5) (sc : BitVec 2) (s : State), NoCall s → NotSpec s →
    (Full s a → Full s b →
      ((s.cur.sv a).toNat % 16384 ≠ 0 →
        exec (.relt a b sc) s = .next (s.trapHere ⟨cMisaligned, s.cur.sv a⟩)
        ∧ exec (.acqt a b sc) s = .next (s.trapHere ⟨cMisaligned, s.cur.sv a⟩))
      ∧ ∀ n, n = min (s.cur.sv b).toNat 65536 → (s.cur.sv a).toNat % 16384 = 0 →
        (n = 0 ∨ s.pagesReadable (4 * n) (s.cur.sv a) (n * 16384) = .ok ()) →
        (∃ t, exec (.relt a b sc) s = .next t ∧ t.iss.verdict = .issued ∧ SameMachine s t ∧ t.pkg.reqs = s.pkg.reqs
          ∧ ∀ q ∈ s.pkg.reqs, n ≠ 0 → q.sid = s.cur.sid → q.tag < s.pkg.tag → q.op.isWrite = true → s.awaited sc q = true →
              q.reaches (s.cur.sv a, n * 16384) = true → ∀ va, t.accessHeld true va = true)
        ∧ (∃ t, exec (.acqt a b sc) s = .next t ∧ t.iss.verdict = .issued ∧ SameMachine s t ∧ t.pkg.reqs = s.pkg.reqs
          ∧ ∀ q ∈ s.pkg.reqs, n ≠ 0 → q.sid = s.cur.sid → q.tag < s.pkg.tag → q.op.isRead = true → q.old = false →
              ∀ w va, inRange (s.cur.sv a, n * 16384) va = true → t.accessHeld w va = true))
    ∧ ((∀ q ∈ s.pkg.reqs, q.sid = s.cur.sid → q.op = .ack) →
      ∃ t, exec .ifence s = .next t ∧ t.iss.verdict = .issued ∧ SameMachine s t ∧ t.core.packets = [] ∧ t.core.fetching = none)
    ∧ ∀ q ∈ s.pkg.reqs, q.sid = s.cur.sid → q.op ≠ .ack → exec .ifence s = .next (held s .other)

/-- What a fence orders, and the fence words. -/
def Obligations.Fences : Prop := Claim.FenceOrders ∧ Claim.RangeFences

/-- The number in the `n` bytes of memory from key `k` on. -/
def Sys2Proof.Claim.num (s : State) (k n : Nat) : Nat := ofBytes (s.mem.read k n)

/-- R276, R275: an arrival on an object at a plain place: it returns the phase; on an object torn down
nothing changes; the last arrival of a phase (expected 0 acts as 1) sets arrived and ph to 0 and advances gen, any other adds
1 to arrived; expected, lnch and the reserved bytes stay, and so does every byte outside the object and every register. -/
def Sys2Proof.Claim.Arrivals : Prop :=
  ∀ (s : State) (p : Phys), Form s → Claim.plainPlace s p 32 →
    let k := p.key0
    let gen := Claim.num s k 4
    let expected := Claim.num s (k + 4) 2
    let arrived := Claim.num s (k + 6) 2
    let flags := Claim.num s (k + 20) 4
    let t := (s.arriveAt p none).1
    ((s.arriveAt p none).2).toNat = gen
    ∧ (flags % 2 = 1 → t = s)
    ∧ (flags % 2 = 0 →
      (max expected 1 ≤ arrived + 1 →
        Claim.num t (k + 6) 2 = 0 ∧ Claim.num t k 4 = (gen + 1) % 2 ^ 32 ∧ Claim.num t (k + 20) 4 / 8 % 2 = 0)
      ∧ (arrived + 1 < max expected 1 →
        Claim.num t (k + 6) 2 = arrived + 1 ∧ Claim.num t k 4 = gen ∧ Claim.num t (k + 20) 4 = flags)
      ∧ Claim.num t (k + 4) 2 = expected
      ∧ Claim.num t (k + 8) 8 = Claim.num s (k + 8) 8
      ∧ Claim.num t (k + 16) 4 = Claim.num s (k + 16) 4
      ∧ Claim.num t (k + 24) 8 = Claim.num s (k + 24) 8
      ∧ Claim.num t (k + 20) 4 % 8 = flags % 8)
    ∧ (∀ a, a < k ∨ k + 32 ≤ a → t.mem.get a = s.mem.get a)
    ∧ SameRegs s t

/-- R278: how a WAITB resolves at its object (at a plain place): torn down 3, gen one past the token 0, two or more past it 1; a
current token and one from the future wait. -/
def Sys2Proof.Claim.WaitResults : Prop :=
  ∀ (s : State) (p : Phys) (token : BitVec 32), Claim.plainPlace s p 32 → p.pa.toNat + 32 ≤ 2 ^ 52 →
    let delta := (Claim.num s p.key0 4 + 2 ^ 32 - token.toNat) % 2 ^ 32
    let torn := Claim.num s (p.key0 + 20) 4 % 2 = 1
    (torn → s.objResult p token = some 3)
    ∧ (¬ torn → delta = 1 → s.objResult p token = some 0)
    ∧ (¬ torn → 2 ≤ delta → delta < 2 ^ 31 → s.objResult p token = some 1)
    ∧ (¬ torn → (delta = 0 ∨ 2 ^ 31 ≤ delta) → s.objResult p token = none)

/-- What an arrival does to its object, and how a wait on one resolves. It rests on the model's choices of log entry 57. -/
def Obligations.Objects : Prop := Claim.Arrivals ∧ Claim.WaitResults

/-- Bytes read at issue (R90, R117, R254): the check of `n` aligned bytes at `ea` gives `p`, no ordering holds the read, and it returns
`bs`, with whether they carry poison, and the state `v` after it. -/
def Sys2Proof.Claim.deviceReads (s : State) (n : Nat) (ea : Word) (p : Phys) (bs : List Byte) (bad : Bool) (v : State) : Prop :=
  s.check .load n n ea = .ok p ∧ s.accessHeld false ea = false ∧ s.readPieces [(p, n)] = some (bs, bad, v)

/-- The same of a word's own read, which is not outside the sets of an ordered task (R304). -/
def Sys2Proof.Claim.reads (s : State) (n : Nat) (ea : Word) (p : Phys) (bs : List Byte) (bad : Bool) (v : State) : Prop :=
  s.tracking false ea ≠ .undeclared ∧ Claim.deviceReads s n ea p bs bad v

/-- R90, R117: such a read completes at once where no access of the strand is on its way to the bytes and their bank is free; it
changes no register. Outside the windows, the copies of other tiles and the peer aperture, what it returns is what stands there, and
memory and poison stay. -/
def Sys2Proof.Claim.ReadsAtIssue : Prop :=
  ∀ (s : State) (p : Phys) (n : Nat), s.accessPending p n = false → s.bankBusy p = false →
    ∃ bs bad v, s.readPieces [(p, n)] = some (bs, bad, v) ∧ SameRegs s v
      ∧ (p.tt ≠ 4 → (p.tt = 2 → s.exposed p = true) → bs = s.readAt p n ∧ bad = s.badAt p n ∧ v.mem = s.mem ∧ v.poison = s.poison)

/-- The strand of the current context waits on something for register d from here on; its first read is still to be taken (R279). -/
def Sys2Proof.Claim.waits (s t : State) (on : WaitOn) (d : BitVec 5) (full : Bool) (sc : BitVec 2) : Prop :=
  (∀ r, t.cur.sv r = s.cur.sv r) ∧ (∀ x, t.cur.tile x = s.cur.tile x)
    ∧ ∃ (x : Strand) (w : Wait), t.cur.strand = some x ∧ x.wait = some w ∧ w.on = on ∧ w.d = d ∧ w.acq = true ∧ w.full = full
      ∧ w.sc = sc ∧ w.asked = false ∧ w.res = none ∧ w.deadline = s.deadline
      ∧ (d ≠ 0 → t.marked s.cur.sid w.tag (.s d) = true)

/-- R276, R278-R282: ARRB, WAITB, WAITA, EVWAIT, EVSET and EVCLR, sources FULL and addresses good, of a strand that is not
speculative: ARRB asks for its token, the waits make the strand wait for d, the event words send their update to the
cluster's event word; a failed check is the word's trap, and so, in an ordered task, is an object outside its sets (R304). An EVWAIT
whose mask is poisoned delivers d POISONED, which is the model's choice (log entry 72). -/
def Sys2Proof.Claim.SyncWords : Prop :=
  ∀ (d a b : BitVec 5) (ord sc : BitVec 2) (s : State) (p : Phys), NoCall s → NotSpec s → Full s a →
    let ea := s.cur.sv a
    let dest : Option Dest := if d = 0 then none else some (.s d)
    (s.checkObj ea = .ok p → s.tracking true ea ≠ .undeclared → s.accessHeld true ea = false → (s.exposed p = true → BankFree s p) →
      ∃ t, exec (.arrb d a) s = .next t ∧ Claim.asked s t (.arrive none d) p none dest)
    ∧ (s.checkObj ea = .ok p → s.tracking true ea = .undeclared →
      exec (.arrb d a) s = .next (s.trapHere ⟨cUndeclared, ea &&& 0x7FFFFFFFFFFFFFFF⟩))
    ∧ (∀ e, s.checkObj ea = .error e → exec (.arrb d a) s = .next (s.trapHere e)
        ∧ (Full s b → exec (.waitb d a b) s = .next (s.trapHere e)))
    ∧ (∀ x, s.cur.strand = some x →
      (s.checkObj ea = .ok p → s.tracking false ea ≠ .undeclared → s.accessHeld false ea = false → Full s b →
        ∃ t, exec (.waitb d a b) s = .next t ∧ t.iss.verdict = .issued ∧ (∀ k, t.mem.get k = s.mem.get k)
          ∧ Claim.waits s t (.barrier p ((s.cur.sv b).setWidth 32)) d false 3)
      ∧ (s.check .load 8 8 ea = .ok p → s.tracking false ea ≠ .undeclared → s.accessHeld false ea = false → Full s b →
        ∃ t, exec (.waita d a b ord sc) s = .next t ∧ t.iss.verdict = .issued ∧ (∀ k, t.mem.get k = s.mem.get k)
          ∧ Claim.waits s t (.word p (s.cur.sv b)) d (ord == 3) sc)
      ∧ (∀ bs v, Claim.reads s.irrev 32 ea p bs false v →
        ∃ t, exec (.evwait d a ord sc) s = .next t ∧ t.iss.verdict = .issued ∧ (∀ k, t.mem.get k = v.mem.get k)
          ∧ Claim.waits s t (.events (BitVec.ofNat 256 (ofBytes bs))) d (ord == 3) sc))
    ∧ (∀ bs v, Claim.reads s.irrev 32 ea p bs true v →
      ∃ t x, exec (.evwait d a ord sc) s = .next t ∧ t.iss.verdict = .issued ∧ t.pkg.dlvs = s.pkg.dlvs ++ [x]
        ∧ x.dest = .s d ∧ x.poison = true ∧ x.sid = s.cur.sid)
    ∧ (s.accessHeld true 0 = false →
      (∃ (t : State) (q : Req), exec (.evset a ord sc) s = .next t ∧ t.iss.verdict = .issued ∧ SameMachine s t
        ∧ t.pkg.reqs = s.pkg.reqs ++ [q] ∧ q.sid = s.cur.sid ∧ q.op = .event true ((s.cur.sv a).setWidth 8) ∧ q.rel = some sc)
      ∧ ∃ (t : State) (q : Req), exec (.evclr a ord sc) s = .next t ∧ t.iss.verdict = .issued ∧ SameMachine s t
        ∧ t.pkg.reqs = s.pkg.reqs ++ [q] ∧ q.sid = s.cur.sid ∧ q.op = .event false ((s.cur.sv a).setWidth 8) ∧ q.rel = some sc)

/-- R97, R102, R103: SWIN and SWCLOSE of a strand that is not speculative, at an address of the own scratchpad with R, W and, in U,
U. SWIN gives the code of the first reason against the window, else opens it with code 0; SWCLOSE of no open window gives 1,
of an open one its result follows when the window has closed; what the clusters' copies hold newer goes home then, and they go. The
codes are delivered long-latency. A closing window counts for the overlap and the number of windows. It rests on the model's choices of
log entries 9, 70, 85. -/
def Obligations.WindowWords : Prop :=
  ∀ (d a b : BitVec 5) (sc : BitVec 2) (s : State) (p : Phys), NoCall s → NotSpec s → Full s a → s.windowAddr (s.cur.sv a) = .ok p →
    s.ownSpad p = true →
    let off := (p.pa.extractLsb' 0 21).toNat
    let n := (s.cur.sv b).toNat
    let room := 0x1E0000 - (s.core.rpln.extractLsb' 0 7).toNat * 0x4000
    let opens := fun (code : Word) (wins : List Window) =>
      ∃ t due tag, exec (.swin d a b sc) s = .next t ∧ t.iss.verdict = .issued ∧ SameMachine s t ∧ t.core.wins = wins
        ∧ t.pkg.dlvs = s.pkg.dlvs ++ [Claim.whole { s with pkg := { s.pkg with tag := tag } } (.s d) (code.setWidth 2048) due]
    (Full s b →
      (off % 0x4000 ≠ 0 → exec (.swin d a b sc) s = .next (s.trapHere ⟨cMisaligned, s.cur.sv a⟩))
      ∧ (off % 0x4000 = 0 →
        (sc = 0 → opens 4 s.core.wins)
        ∧ (sc ≠ 0 → n = 0 ∨ room < off + n * 0x4000 → opens 3 s.core.wins)
        ∧ (sc ≠ 0 → 0 < n → off + n * 0x4000 ≤ room →
          (s.windowMeets off (n * 0x4000) = true → opens 1 s.core.wins)
          ∧ (s.windowMeets off (n * 0x4000) = false → 8 ≤ s.core.wins.length → opens 2 s.core.wins)
          ∧ (s.windowMeets off (n * 0x4000) = false → s.core.wins.length < 8 →
              opens 0 (s.core.wins ++ [{ base := p.pa.extractLsb' 0 21, tiles := n, sc := sc }])))))
    ∧ ((∀ w ∈ s.core.wins, w.base = p.pa.extractLsb' 0 21 → w.closing.isSome = true) →
      ∃ t due tag, exec (.swclose d a) s = .next t ∧ t.iss.verdict = .issued ∧ SameMachine s t ∧ t.core.wins = s.core.wins
        ∧ t.pkg.dlvs = s.pkg.dlvs ++ [Claim.whole { s with pkg := { s.pkg with tag := tag } } (.s d) ((1 : Word).setWidth 2048) due])
    ∧ (∀ w ∈ s.core.wins, w.base = p.pa.extractLsb' 0 21 → w.closing = none →
      ∃ t tag, exec (.swclose d a) s = .next t ∧ t.iss.verdict = .issued ∧ SameRegs s t
        ∧ { w with closing := some (s.cur.sid, tag, d) } ∈ t.core.wins
        ∧ (∀ e ∈ t.core.dir, ¬ (w.base.toNat ≤ e.tile.toNat ∧ e.tile.toNat < w.base.toNat + w.tiles * 0x4000))
        ∧ ((∀ e ∈ s.core.dir, e.newer = []) → SameMachine s t))

/-- The watch that a SUSP at its place in the bundle takes (R115, R182): on the word it has read in the own scratchpad, or is about to
read at its home (there too behind an acquire of its own bundle), with the acquire and the scope its sub field names. -/
def Sys2Proof.Claim.watch (s : State) (a : BitVec 5) (sb : BitVec 3) (p : Phys) (w : Wait) : Prop :=
  let now := s.exposed p && !s.acquiring
  w.on = .susp p (if now then some (BitVec.ofNat 64 (ofBytes (s.readAt p 8))) else none)
    ∧ w.acq = sb.getLsbD 2 ∧ w.sc = sb.extractLsb' 0 2 ∧ w.va = s.cur.sv a ∧ w.asked = now ∧ w.hit = false

/-- The strand of the current context has parked after its bundle, with why = 4 and a watch (R182). -/
def Sys2Proof.Claim.parked (s t : State) (w : Wait) : Prop :=
  ∀ x, s.bundleDone.cur.strand = some x → ∃ y b, t.cur.strand = some y ∧ y.id = x.id ∧ y.state = .parked ∧ y.why = 4
    ∧ y.wait = some { w with hit := b }

/-- R182, R115, R192: SUSP, its register FULL and its access good, in the own scratchpad its bank free, takes its watch at its place among
the words. With no further repetition of a REP to come and no word of the bundle after it, the bundle issues and the strand parks with
why = 4; before the last repetition, and before the bundle's other words, it keeps the watch and changes nothing else; come to its end with
the watch taken, it parks. -/
def Sys2Proof.Claim.SuspWord : Prop :=
  ∀ (a : BitVec 5) (sb : BitVec 3) (s : State),
    (∀ p, Full s a → s.iss.susp = none → Reaches s .load 8 8 (s.cur.sv a) p → (s.exposed p = true → BankFree s p) →
      ∃ t w, exec (.susp a sb) s = .next t ∧ Claim.watch s a sb p w
        ∧ (s.iss.repMore = true → t.iss.verdict = .issued ∧ SameMachine s t ∧ t.cur.repEnd = some (.susp a sb, 0, some w))
        ∧ (s.iss.repMore = false → s.iss.putOff = true → t.iss.verdict = .ended ∧ SameMachine s t ∧ t.iss.susp = some w)
        ∧ (s.iss.repMore = false → s.iss.putOff = false →
            t.iss.verdict = .ended ∧ ∃ s1, SameMachine s s1 ∧ s1.pkg.reqs = s.pkg.reqs ∧ Claim.parked s1 t w))
    ∧ ∀ w, s.iss.susp = some w → s.iss.repMore = false → s.iss.putOff = false →
      ∃ t, exec (.susp a sb) s = .next t ∧ t.iss.verdict = .ended ∧ Claim.parked s t w

/-- The words of the synchronisation pipe, and SUSP. It rests on the model's choices of log entries 9, 72. -/
def Obligations.SyncAndSuspend : Prop := Claim.ReadsAtIssue ∧ Claim.SyncWords ∧ Claim.SuspWord

/-- R182, R188, R191, R276, R278, R280-R282: where the words that wait, signal or repeat complete: each, in every state in which its
sources are FULL and its address, where it has one, is good and inside the sets of an ordered task, on the own scratchpad its bank free,
no call of the strand binds it, the strand is not speculative and no ordering holds it, issues with its own effect. -/
def Obligations.WaitingWordsComplete : Prop :=
  ∀ (d a b : BitVec 5) (ord sc : BitVec 2) (sb : BitVec 3) (s : State) (x : Strand) (p : Phys), NoCall s → NotSpec s →
    Full s a → Full s b → s.cur.strand = some x →
    let inside := fun (w : Bool) => s.tracking w (s.cur.sv a) ≠ .undeclared
    let free := s.exposed p = true → BankFree s p
    (s.checkObj (s.cur.sv a) = .ok p → inside true → free → s.accessHeld true (s.cur.sv a) = false →
      ∃ t q, exec (.arrb d a) s = .next t ∧ t.iss.verdict = .issued ∧ t.pkg.reqs = s.pkg.reqs ++ [q] ∧ q.op = .arrive none d ∧ q.loc = p)
    ∧ (s.checkObj (s.cur.sv a) = .ok p → inside false → s.accessHeld false (s.cur.sv a) = false →
      ∃ t y w, exec (.waitb d a b) s = .next t ∧ t.iss.verdict = .issued ∧ t.cur.strand = some y ∧ y.wait = some w
        ∧ w.on = .barrier p ((s.cur.sv b).setWidth 32) ∧ w.d = d)
    ∧ (s.check .load 8 8 (s.cur.sv a) = .ok p → inside false → s.accessHeld false (s.cur.sv a) = false →
      ∃ t y w, exec (.waita d a b ord sc) s = .next t ∧ t.iss.verdict = .issued ∧ t.cur.strand = some y ∧ y.wait = some w
        ∧ w.on = .word p (s.cur.sv b) ∧ w.d = d)
    ∧ (s.check .load 32 32 (s.cur.sv a) = .ok p → inside false → s.accessHeld false (s.cur.sv a) = false → s.exposed p = true →
        s.accessPending p 32 = false → s.bankBusy p = false → s.badAt p 32 = false →
      ∃ t y w, exec (.evwait d a ord sc) s = .next t ∧ t.iss.verdict = .issued ∧ t.cur.strand = some y ∧ y.wait = some w
        ∧ w.on = .events (BitVec.ofNat 256 (ofBytes (s.readAt p 32))) ∧ w.d = d)
    ∧ (s.accessHeld true 0 = false →
      (∃ t q, exec (.evset a ord sc) s = .next t ∧ t.iss.verdict = .issued ∧ t.pkg.reqs = s.pkg.reqs ++ [q]
        ∧ q.op = .event true ((s.cur.sv a).setWidth 8))
      ∧ ∃ t q, exec (.evclr a ord sc) s = .next t ∧ t.iss.verdict = .issued ∧ t.pkg.reqs = s.pkg.reqs ++ [q]
        ∧ q.op = .event false ((s.cur.sv a).setWidth 8))
    ∧ (Reaches s .load 8 8 (s.cur.sv a) p → free → s.iss.susp = none → s.iss.repMore = false → s.iss.putOff = false →
      ∃ t y, exec (.susp a sb) s = .next t ∧ t.iss.verdict = .ended ∧ t.cur.strand = some y ∧ y.id = x.id ∧ y.state = .parked
        ∧ y.why = 4 ∧ y.wait.isSome = true)
    ∧ (∀ (cnt : BitVec 6) (stp : BitVec 4) (stride : BitVec 2) (ke : BitVec 1) (k : BitVec 3), s.repResumes = false → s.curVer ≠ 1 →
      ∃ t, exec (.rep cnt 0 stp stride ke k) s = .next t ∧ t.iss.verdict = .issued ∧ t.iss.repI = 0 ∧ t.iss.repN = cnt.toNat + 1
        ∧ t.iss.mask = s.cur.kv k)
    ∧ ∀ cnt creg stp stride ke k n, decode s.ev.word 0 = some (.rep cnt creg stp stride ke k) → s.cur.repN = some n →
      ∃ t, exec .repRepetition s = .next t ∧ t.iss.verdict = .issued ∧ t.iss.repI = (s.cur.u.repc.extractLsb' 0 6).toNat
        ∧ t.iss.repN = n ∧ t.iss.mask = s.cur.kv k

/-! ## Engine words (12 R284-R294, 04 R107-R112) -/

/-- The engine words that take a descriptor, with the operation each starts and whether it reads s[b] (R284). -/
def Sys2Proof.Claim.engines : List ((BitVec 5 → BitVec 5 → BitVec 5 → Instr) × EngKind × Bool) :=
  [ (fun d a _ => .acopy d a, .copy, false), (.agather, .gather, true), (.ascatter, .scatter, true), (.acoll, .coll, true) ]

/-- R285: ACOPY, AGATHER, ASCATTER and ACOLL of a strand that is not speculative, sources FULL, a slot free, a descriptor of 64
bytes that may be read, inside the sets of an ordered task, an object (with d other than s0) that is good, the permutation FULL where one is used: the operation
takes the lowest free slot with the descriptor as it stands now; no register has changed, and memory is as the read of the descriptor
leaves it. A descriptor read poisoned makes an operation that has ended with class 2 (R410). With every slot taken the word is held.
It rests on the model's choices of log entries 53, 72. -/
def Obligations.EngineWords : Prop :=
  ∀ x ∈ Claim.engines, ∀ (d a b : BitVec 5) (s : State) (p : Phys) (obj : Option Phys), NoCall s → NotSpec s → Full s a → Full s b →
    (d ≠ 0 → Full s d) →
    let ea := s.cur.sv a
    (∀ slot bs v, s.freeSlot = some slot → Claim.reads s.irrev 64 ea p bs false v → (v.noteTlb s.cur.sc.satp ea).objOf d = .ok obj →
      let desc := copyDesc bs
      (desc.pe = true → x.2.1 ≠ .coll → PermFull s desc.preg) →
      ∃ t o, exec (x.1 d a b) s = .next t ∧ t.iss.verdict = .issued ∧ SameRegs s t ∧ (∀ k, t.mem.get k = v.mem.get k)
        ∧ t.core.ops = s.core.ops ++ [o]
        ∧ o.slot = slot ∧ o.kind = x.2.1 ∧ o.desc = desc ∧ o.obj = obj ∧ o.sid = s.cur.sid ∧ o.ended = false ∧ o.stop = none
        ∧ o.list = (if x.2.2 then s.cur.sv b else 0) ∧ o.perm = (s.cur.pv desc.preg).v ∧ o.rm = s.cur.u.rm)
    ∧ (∀ slot bs v, s.freeSlot = some slot → Claim.reads s.irrev 64 ea p bs true v → (v.noteTlb s.cur.sc.satp ea).objOf d = .ok obj →
      ∃ t o, exec (x.1 d a b) s = .next t ∧ t.iss.verdict = .issued ∧ t.core.ops = s.core.ops ++ [o] ∧ o.slot = slot
        ∧ o.obj = obj ∧ o.ended = true ∧ o.status = 0x702)
    ∧ (s.freeSlot = none → exec (x.1 d a b) s = .next (held s .slot))
    ∧ (∀ e, s.freeSlot ≠ none → s.check .load 64 64 ea = .error e → exec (x.1 d a b) s = .next (s.trapHere e))

/-- R293, R113: ANOTE of a strand that is not speculative, sources FULL, a slot free and the address good. In the own scratchpad
outside windows, its bank free, its store is performed at issue, and the handler's entry joins the arrival queue, which has room; elsewhere
the store is sent, and the operation keeps its slot until it is performed. -/
def Sys2Proof.Claim.NotifyWord : Prop :=
  ∀ (d a b c : BitVec 5) (s : State) (p : Phys) (slot : Nat), NoCall s → NotSpec s → Form s → Full s a → Full s b → Full s c →
    Full s d → s.freeSlot = some slot → Reaches s .store 8 8 (s.cur.sv a) p →
    let bs := leBytes 8 (s.cur.sv b).toNat
    (s.exposed p = true → BankFree s p → s.core.arrivals.length < 64 →
      ∃ t e, exec (.anote d a b c) s = .next t ∧ t.iss.verdict = .issued ∧ SameRegs s t ∧ Claim.stored s t p.key0 bs
        ∧ t.core.arrivals = s.core.arrivals ++ [e] ∧ e.pc = s.cur.sv c ∧ e.arg = s.cur.sv d ∧ e.dst = s.cur.sv a
        ∧ t.core.ops = s.core.ops)
    ∧ (s.exposed p = false →
      ∃ t q o, exec (.anote d a b c) s = .next t ∧ t.iss.verdict = .issued ∧ SameMachine s t ∧ t.pkg.reqs = s.pkg.reqs ++ [q]
        ∧ q.op = .note bs slot ∧ q.loc = p ∧ t.core.ops = s.core.ops ++ [o] ∧ o.slot = slot ∧ o.kind = .note ∧ o.pc = s.cur.sv c
        ∧ o.desc.arg = s.cur.sv d)

/-- R294: ACANCEL and ACANCEL.ALL of a strand that is not speculative issue, and stop with cause 0x75 every engine operation of the
strand that has not ended and is no ANOTE (for ACANCEL, that completes to the object at s[d]; none, where s[d] has no translation); the
operations of other strands, and every register and byte of memory, stay. -/
def Sys2Proof.Claim.CancelWords : Prop :=
  ∀ (d : BitVec 5) (s : State), NoCall s → NotSpec s →
    let cancelled := fun (t : State) (mine : EngOp → Prop) =>
      t.core.ops.length = s.core.ops.length
        ∧ ∀ (i : Nat) (o o' : EngOp), s.core.ops[i]? = some o → t.core.ops[i]? = some o' →
          (o.sid = s.cur.sid ∧ mine o ∧ o.kind ≠ .note ∧ o.ended = false ∧ o.stop = none → ∃ k, o' = { o with stop := some (0x75, k) })
          ∧ (o.sid ≠ s.cur.sid ∨ ¬ mine o ∨ o.kind = .note ∨ o.ended = true ∨ o.stop ≠ none → o' = o)
    (∃ t, exec .acancelAll s = .next t ∧ t.iss.verdict = .issued ∧ SameMachine s t ∧ cancelled t (fun _ => True))
    ∧ (Full s d → ∀ e b, s.xlate s.cur.sc.satp (s.cur.sv d) = .ok (e, b) →
      ∃ t, exec (.acancel d) s = .next t ∧ t.iss.verdict = .issued ∧ SameMachine s t
        ∧ cancelled t (fun o => o.obj.map (fun p => (s.homeLoc p).key0) = some (s.homeLoc (physOf e b (s.cur.sv d))).key0))
    ∧ (Full s d → ∀ e, s.xlate s.cur.sc.satp (s.cur.sv d) = .error e →
      ∃ t, exec (.acancel d) s = .next t ∧ t.iss.verdict = .issued ∧ SameMachine s t ∧ cancelled t (fun _ => False))

/-- ANOTE, ACANCEL and ACANCEL.ALL. It rests on the model's choices of log entry 52. -/
def Obligations.NotifyAndCancel : Prop := Claim.NotifyWord ∧ Claim.CancelWords

/-- R107, R108, R292: SBIND of a strand that is not speculative reads its pattern at issue: a base or stride that is no multiple of 256
is MISALIGNED; the lowest free stream is bound to the tile and its number is the result, all ones where none is free or the
tile is bound already; of a pattern read poisoned the result is POISONED and nothing is bound (R410). SUNB frees a bound stream: its
result is the number of rows done, with bit 63 for an overrun; all ones for a stream that is not bound; for an out-bound stream it is
held while rows are on their way to the tile, or pushed and not performed (R111).
It rests on the model's choices of log entries 19, 66, 72. -/
def Obligations.StreamWords : Prop :=
  ∀ (d a : BitVec 5) (s : State), NoCall s → NotSpec s → Full s a →
    let result := fun (t : State) (m : Mem) (v : Word) => t.iss.verdict = .issued ∧ SameRegs s t ∧ (∀ k, t.mem.get k = m.get k)
      ∧ ∃ due tag, t.pkg.dlvs = s.pkg.dlvs ++ [Claim.whole { s with pkg := { s.pkg with tag := tag } } (.s d) (v.setWidth 2048) due]
    (∀ (p : Phys) (bs : List Byte) (v : State), Claim.reads s.irrev 64 (s.cur.sv a) p bs false v →
      let x := streamOf bs 0 0
      let good := x.base.toNat % 256 = 0 ∧ x.s0.toNat % 256 = 0 ∧ x.s1.toNat % 256 = 0 ∧ x.s2.toNat % 256 = 0 ∧ x.s3.toNat % 256 = 0
      let bound := ∃ j : Fin 4, (s.cur.streams.get j).bound = true ∧ (s.cur.streams.get j).tile = x.tile
      (¬ good → exec (.sbind d a) s = .next (s.trapHere ⟨cMisaligned, s.cur.sv a⟩))
      ∧ (good → ¬ bound → ∀ k : Fin 4, (s.cur.streams.get k).bound = false → (∀ j, j < k → (s.cur.streams.get j).bound = true) →
          ∃ t due, exec (.sbind d a) s = .next t ∧ result t v.mem (BitVec.ofNat 64 k.val)
            ∧ t.cur.streams.get k = { x with due := due, tag := s.pkg.tag } ∧ ∀ j, j ≠ k → t.cur.streams.get j = s.cur.streams.get j)
      ∧ (good → bound ∨ (∀ j, (s.cur.streams.get j).bound = true) →
          ∃ t, exec (.sbind d a) s = .next t ∧ result t v.mem (BitVec.allOnes 64) ∧ t.cur.streams = s.cur.streams))
    ∧ (∀ (p : Phys) (bs : List Byte) (v : State), Claim.reads s.irrev 64 (s.cur.sv a) p bs true v →
      ∃ t x, exec (.sbind d a) s = .next t ∧ t.iss.verdict = .issued ∧ t.cur.streams = s.cur.streams
        ∧ t.pkg.dlvs = s.pkg.dlvs ++ [x] ∧ x.dest = .s d ∧ x.poison = true)
    ∧ (∀ k : Fin 4, (s.cur.sv a).toNat = k.val →
      let x := s.cur.streams.get k
      let busy := s.rowsComing x.tile ≠ 0 ∨ s.rowsPushed k ≠ 0
      (x.bound = true → (x.out = true → ¬ busy) →
        ∃ t, exec (.sunb d a) s = .next t ∧ result t s.mem (BitVec.ofNat 64 (x.done.toNat + if x.ovr then 2 ^ 63 else 0))
          ∧ t.cur.streams.get k = {})
      ∧ (x.bound = true → x.out = true → busy → exec (.sunb d a) s = .next (held s .other))
      ∧ (x.bound = false → ∃ t, exec (.sunb d a) s = .next t ∧ result t s.mem (BitVec.allOnes 64) ∧ t.cur.streams = s.cur.streams))
    ∧ (4 ≤ (s.cur.sv a).toNat →
      ∃ t, exec (.sunb d a) s = .next t ∧ result t s.mem (BitVec.allOnes 64) ∧ t.cur.streams = s.cur.streams)

/-! ## Tasks and the end of a strand (13, 07 R183) -/

/-- R297, R301, R302, R316: TSPAWN, sources FULL, its template read and its image good, no earlier access of the spawner on its way: an
unordered one, of a strand that is not speculative, and an ordered one without set descriptors, of an ordered task not past its own
timestamp, issue; a task with a new id stands in the queues, READY if its wait mask is met and NEW otherwise, an ordered one with its
timestamp and the spawner's tiebreak extended; the id goes to d with latency 2. Where the template is no task's, or is in use, TS_ORDER
kind 6; for an ordered task TS_ORDER kinds 0, 1 and 2. A template read poisoned makes no task, and d lands POISONED (R410). -/
def Sys2Proof.Claim.SpawnWord : Prop :=
  ∀ (d a b c : BitVec 5) (s v : State) (p : Phys) (bs : List Byte), NoCall s → Full s a → Full s b → Full s c →
    s.templateAt (s.cur.sv a) = .ok () →
    let x := taskRec bs
    let u := v.noteTlb s.cur.sc.satp (s.cur.sv a)
    let made := fun (t : State) (id : BitVec 40) (y : Strand) => t.iss.verdict = .issued ∧ SameRegs s t
      ∧ t.cur.pend = s.cur.pend ++ [Claim.lands 2 (.s d) ((id.setWidth 64).setWidth 2048) false]
      ∧ y ∈ t.pkg.strands ∧ y.id = id ∧ y.isTask = true ∧ y.recAddr = s.cur.sv a ∧ y.pc = x.v.pc
      ∧ y.state = (if s.pkg.events &&& x.waitMask = x.waitMask then .ready else .new)
    (Claim.deviceReads s 128 (s.cur.sv a) p bs false v →
      (x.v.w5.getLsbD 16 = false ∨ x.v.live ≠ 0 → exec (.tspawn d a b c) s = .next (s.trapHere ⟨cTsOrder, 6⟩))
      ∧ (x.v.w5.getLsbD 16 = true → x.v.live = 0 → s.unperformed = false →
        (∃ l, u.checkRange s.cur.level s.cur.sc.satp .store x.v.img 768 = .ok l) → ∀ id s2, u.newId = some (id, s2) →
          (x.v.w5.getLsbD 17 = false → NotSpec u → ∃ t y, exec (.tspawn d a b c) s = .next t ∧ made t id y ∧ y.ord = false)
          ∧ (x.v.w5.getLsbD 17 = true → x.v.rset = 0 → x.v.wset = 0 → ∀ k, u.orderCheck (s.cur.sv b) = .ok k →
            ∃ t y i, exec (.tspawn d a b c) s = .next t ∧ made t id y ∧ y.ord = true ∧ y.ts = s.cur.sv b ∧ y.task = some i
              ∧ i.tb = k.tb ++ [k.spawned] ∧ i.parent = some s.cur.sid))
      ∧ (x.v.w5.getLsbD 16 = true → x.v.live = 0 → x.v.w5.getLsbD 17 = true → ∀ y k, s.cur.strand = some y →
        (y.ord = false → exec (.tspawn d a b c) s = .next (s.trapHere ⟨cTsOrder, 1⟩))
        ∧ (y.ord = true → y.task = some k →
          ((s.cur.sv b).toNat < y.ts.toNat → exec (.tspawn d a b c) s = .next (s.trapHere ⟨cTsOrder, 0⟩))
          ∧ (y.ts.toNat ≤ (s.cur.sv b).toNat → 256 ≤ k.tb.length ∨ 65536 ≤ k.spawned →
            exec (.tspawn d a b c) s = .next (s.trapHere ⟨cTsOrder, 2⟩)))))
    ∧ (Claim.deviceReads s 128 (s.cur.sv a) p bs true v →
      ∃ t w, exec (.tspawn d a b c) s = .next t ∧ t.iss.verdict = .issued ∧ t.pkg.strands = v.pkg.strands
        ∧ t.cur.pend = s.cur.pend ++ [Claim.lands 2 (.s d) w true])

/-- R183, R315: EXIT and TEND, outside a REP and not held by a release, issue their bundle and then end the run: an ordered task
leaves its context DONE with why = 8 and keeps its versions; any other strand leaves its context and is gone. -/
def Sys2Proof.Claim.EndOfRun : Prop :=
  ∀ (s : State) (x : Strand), s.iss.repMore = false → s.endHeld = false → s.bundleDone.cur.strand = some x →
    ∀ i ∈ ([.exit, .tend] : List Instr), ∃ t, exec i s = .next t ∧ t.iss.verdict = .ended ∧ t.cur.strand = none
      ∧ (x.ord = true → t.pkg.versions = s.bundleDone.pkg.versions
          ∧ ∃ y ∈ t.pkg.strands, y.id = x.id ∧ y.state = .done ∧ y.why = 8)
      ∧ (x.ord = false → ∀ y ∈ t.strands, y.id ≠ x.id)

/-- R320: TABORT in anything but an ordered task raises TS_ORDER kind 4, in an irrevocable one kind 5; with bit 0 of its register the
task ends, marked to be dropped at its commit; without it the task is aborted and runs again only as the oldest. -/
def Sys2Proof.Claim.AbortWord : Prop :=
  ∀ (a : BitVec 5) (s : State), Full s a → s.iss.repMore = false → s.iss.endVal = none →
    ((∀ x, s.cur.strand = some x → x.ord = false) → exec (.tabort a) s = .next (s.trapHere ⟨cTsOrder, 4⟩))
    ∧ ∀ x k, s.cur.strand = some x → x.ord = true → x.task = some k →
      (k.irrev = true → exec (.tabort a) s = .next (s.trapHere ⟨cTsOrder, 5⟩))
      ∧ (k.irrev = false →
        let marked := fun (f : TaskInfo → TaskInfo) => s.bundleDone.modStrand x.id (fun y => { y with task := y.task.map f })
        ((s.cur.sv a).toNat % 2 = 1 →
          exec (.tabort a) s = .next (ended (marked (fun t => { t with drop := true })).endRun))
        ∧ ((s.cur.sv a).toNat % 2 = 0 →
          exec (.tabort a) s = .next (ended ((marked (fun t => { t with onlyOldest := true })).abort [x.id]))))

/-- EXIT, TEND and TABORT. -/
def Obligations.EndsOfRuns : Prop := Claim.EndOfRun ∧ Claim.AbortWord

/-- R321, R322, R323: TWAIT with a timestamp at or above an ordered task's own raises TS_ORDER kind 3, otherwise the strand waits for
the seam; TSERIAL is held while the task is speculative and then has no effect; TINFO gives its word with latency 2. -/
def Sys2Proof.Claim.TaskWords : Prop :=
  ∀ (d a : BitVec 5) (s : State), NoCall s →
    (s.curSpec = true → exec .tserial s = .next (held s .tserial))
    ∧ (NotSpec s → exec .tserial s = .next (issued s))
    ∧ (Full s a →
      exec (.tinfo d a) s = .next (issued (s.pushS 2 d (s.tinfo ((s.cur.sv a).toNat % 8))))
      ∧ (∀ x, s.cur.strand = some x → x.ord = true → x.ts.toNat ≤ (s.cur.sv a).toNat →
          exec (.twait d a) s = .next (s.trapHere ⟨cTsOrder, 3⟩))
      ∧ (∀ x, s.cur.strand = some x → (x.ord = false ∨ (s.cur.sv a).toNat < x.ts.toNat) → s.accessHeld false 0 = false →
          ∃ t, exec (.twait d a) s = .next t ∧ t.iss.verdict = .issued ∧ (∀ k, t.mem.get k = s.mem.get k)
            ∧ Claim.waits s t (.seam (s.cur.sv a)) d false 2))

/-- TSPAWN, TWAIT, TSERIAL and TINFO. It rests on the model's choices of log entries 26, 60, 72. -/
def Obligations.TaskPipe : Prop := Claim.SpawnWord ∧ Claim.TaskWords

/-! ## Rows (08 R194-R211) -/

/-- The state after a row word has taken the V pipe and queued its row and the flags it raised (R43, R44, R83). -/
def Sys2Proof.Claim.rowOut (s : State) (l occ : Nat) (td : BitVec 4) (row : BitVec 6) (v : Row) (fl : Flags) (sel : Mask) : State :=
  let s1 := vTaken s occ
  (if fl = 0 then s1 else s1.push 1 (.flags fl)).pushRow l td row v sel

/-- A row word may issue: the V pipe is free, no flag traps, no call blocks it, the rows it reads are FULL and its own, the row it
writes too where it is read, and is pushed to no stream (R40, R44, R47). -/
def Sys2Proof.Claim.rowReady (s : State) (td : BitVec 4) (row : BitVec 6) (srcs : List (BitVec 4 × BitVec 6)) (readsDst : Bool) : Prop :=
  NoCall s ∧ VFree s ∧ NoFpTrap s ∧ NoPush s td ∧ (∀ x ∈ srcs, RowFull s x.1 x.2) ∧ (readsDst = true ∨ s.iss.ke = true → RowFull s td row)

/-- The word issues with a row whose lane n, for every lane the prefix mask allows, is `(f n).1`, and with the flags of those
lanes; the bytes of the other lanes are not selected. -/
def Sys2Proof.Claim.rowLanes (s : State) (i : Instr) (l occ w : Nat) (td : BitVec 4) (row : BitVec 6) (f : Nat → Nat × Flags) : Prop :=
  ∃ v fl, exec i s = .next (issued (Claim.rowOut s l occ td row v fl (laneSel (w / 8) s.laneMask)))
    ∧ (∀ n, n < 2048 / w → s.laneMask.getLsbD n = true → lane w v n = BitVec.ofNat w (f n).1)
    ∧ ∀ b, fl.getLsbD b = true ↔ ∃ n, n < 2048 / w ∧ s.laneMask.getLsbD n = true ∧ (f n).2.getLsbD b = true

/-- Latency and occupancy of lane arithmetic (R44): 4 and 1, for 64-bit lanes 8 and 2. -/
def Sys2Proof.Claim.arith (typ : BitVec 3) : Nat × Nat := if typW typ = 64 then (8, 2) else (4, 1)

/-- The row words of two sources: latency and occupancy, the result of a floating lane with its flags, of an integer lane (R197,
R199, R75). -/
def Sys2Proof.Claim.row2 : List ((BitVec 3 → BitVec 4 → BitVec 4 → BitVec 4 → BitVec 6 → Instr) × (BitVec 3 → Nat × Nat)
    × (FEnv → Nat → Nat → Nat × Flags) × ((w : Nat) → BitVec w → BitVec w → Int)) :=
  [ (.vadd, Claim.arith, fun e a b => e.add a b, fun _ a b => a.toInt + b.toInt)
  , (.vsub, Claim.arith, fun e a b => e.sub a b, fun _ a b => a.toInt - b.toInt)
  , (.vmul, Claim.arith, fun e a b => e.mul a b, fun _ a b => a.toInt * b.toInt)
  , (.vmin, Claim.arith, fun e a b => e.pick false a b, fun _ a b => min a.toInt b.toInt)
  , (.vmax, Claim.arith, fun e a b => e.pick true a b, fun _ a b => max a.toInt b.toInt)
  , (.vdiv, fun _ => (16, 4), fun e a b => e.div a b, fun _ a b => if b.toInt = 0 then -1 else Int.tdiv a.toInt b.toInt)
  , (.vand, Claim.arith, fun _ a b => (a &&& b, 0), fun _ a b => (a &&& b).toInt)
  , (.vor, Claim.arith, fun _ a b => (a ||| b, 0), fun _ a b => (a ||| b).toInt)
  , (.vxor, Claim.arith, fun _ a b => (a ^^^ b, 0), fun _ a b => (a ^^^ b).toInt)
  , (.vandn, Claim.arith, fun e a b => ((BitVec.ofNat e.f.w a &&& ~~~ BitVec.ofNat e.f.w b).toNat, 0), fun _ a b => (a &&& ~~~b).toInt)
  , (.vshl, Claim.arith, fun _ a _ => (a, 0), fun w a b => if b.toNat < w then a.toNat * 2 ^ b.toNat else 0)
  , (.vshr, Claim.arith, fun _ a _ => (a, 0), fun w a b => if b.toNat < w then a.toNat / 2 ^ b.toNat else 0)
  , (.vsra, Claim.arith, fun _ a _ => (a, 0), fun w a b => a.toInt / 2 ^ min b.toNat w)
  , (.vabsd, Claim.arith, fun e a b => e.absd a b, fun _ a b => ((a.toInt - b.toInt).natAbs : Int))
  , (.vmulh, Claim.arith, fun _ a _ => (a, 0), fun w a b => a.toInt * b.toInt / 2 ^ w)
  , (.vcopysign, Claim.arith, fun e a b => (a % 2 ^ (e.f.w - 1) + if b.testBit (e.f.w - 1) then 2 ^ (e.f.w - 1) else 0, 0),
      fun _ a _ => a.toInt) ]

/-- R197, R199: every row word of two sources that is well formed for its type: the lanes the mask allows are its results, floating
ones rounded once with their flags, integer ones modulo 2^w. -/
def Sys2Proof.Claim.RowsOfTwoSources : Prop :=
  ∀ x ∈ Claim.row2, ∀ (typ : BitVec 3) (td ta tb : BitVec 4) (row : BitVec 6) (s : State), (x.1 typ td ta tb row).wf = true →
    Claim.rowReady s td row [(ta, row), (tb, row)] false →
    let w := typW typ
    let a := (s.cur.rowReg ta row).v
    let b := (s.cur.rowReg tb row).v
    Claim.rowLanes s (x.1 typ td ta tb row) (x.2.1 typ).1 (x.2.1 typ).2 w td row (fun n =>
      if typ.toNat < 4 then x.2.2.1 (fenv typ s.cur.u.rm) (lane w a n).toNat (lane w b n).toNat
      else ((BitVec.ofInt w (x.2.2.2 w (lane w a n) (lane w b n))).toNat, 0))

/-- R197, R47: VFMA, VFMS and VFNMA read their destination as the third operand: d + ab, d - ab, -d - ab, floating ones rounded
once. -/
def Sys2Proof.Claim.RowsThatAccumulate : Prop :=
  ∀ x ∈ ([ (.vfma, fun e a b d => e.fma a b d, 1, 1), (.vfms, fun e a b d => e.fms a b d, 1, -1)
      , (.vfnma, fun e a b d => e.fnma a b d, -1, -1) ] :
        List ((BitVec 3 → BitVec 4 → BitVec 4 → BitVec 4 → BitVec 6 → Instr) × (FEnv → Nat → Nat → Nat → Nat × Flags) × Int × Int)),
    ∀ (typ : BitVec 3) (td ta tb : BitVec 4) (row : BitVec 6) (s : State), Claim.rowReady s td row [(ta, row), (tb, row)] true →
    let w := typW typ
    let la := fun n => lane w (s.cur.rowReg ta row).v n
    let lb := fun n => lane w (s.cur.rowReg tb row).v n
    let ld := fun n => lane w (s.cur.rowReg td row).v n
    Claim.rowLanes s (x.1 typ td ta tb row) (Claim.arith typ).1 (Claim.arith typ).2 w td row (fun n =>
      if typ.toNat < 4 then x.2.1 (fenv typ s.cur.u.rm) (la n).toNat (lb n).toNat (ld n).toNat
      else ((BitVec.ofInt w (x.2.2.1 * (ld n).toInt + x.2.2.2 * ((la n).toInt * (lb n).toInt))).toNat, 0))

/-- Row words of two sources, with and without the destination as a third. -/
def Obligations.RowArithmetic : Prop := Claim.RowsOfTwoSources ∧ Claim.RowsThatAccumulate

/-- R198, R197, R200: the compares give all ones or zeros, with latency 2; VADDS and VSUBS the exact result clamped to the signed
range, with SAT where it was; VSEL takes each lane of a or b by the prefix mask and writes every lane. -/
def Sys2Proof.Claim.RowComparesAndSelect : Prop :=
  ∀ (typ : BitVec 3) (td ta tb : BitVec 4) (row : BitVec 6) (s : State),
    let w := typW typ
    let la := fun n => lane w (s.cur.rowReg ta row).v n
    let lb := fun n => lane w (s.cur.rowReg tb row).v n
    let ones := 2 ^ w - 1
    (Claim.rowReady s td row [(ta, row), (tb, row)] false →
      (∀ x ∈ ([ (.vceq, true, false, fun o => o == .eq, fun a b => decide (a = b))
          , (.vcne, true, true, fun o => o != .eq, fun a b => decide (a ≠ b))
          , (.vclt, false, false, fun o => o == .lt, fun a b => decide (a < b))
          , (.vcle, false, false, fun o => o != .gt, fun a b => decide (a ≤ b)) ] :
            List ((BitVec 3 → BitVec 4 → BitVec 4 → BitVec 4 → BitVec 6 → Instr) × Bool × Bool × (Ordering → Bool) × (Int → Int → Bool))),
        Claim.rowLanes s (x.1 typ td ta tb row) 2 1 w td row (fun n =>
          if typ.toNat < 4 then
            let r := (fenv typ s.cur.u.rm).cmp x.2.1 x.2.2.2.1 x.2.2.1 (la n).toNat (lb n).toNat
            (if r.1 then ones else 0, r.2)
          else (if x.2.2.2.2 (la n).toInt (lb n).toInt then ones else 0, 0)))
      ∧ (4 ≤ typ.toNat → ∀ x ∈ ([ (.vadds, fun a b => a + b), (.vsubs, fun a b => a - b) ] :
            List ((BitVec 3 → BitVec 4 → BitVec 4 → BitVec 4 → BitVec 6 → Instr) × (Int → Int → Int))),
        Claim.rowLanes s (x.1 typ td ta tb row) (Claim.arith typ).1 (Claim.arith typ).2 w td row (fun n =>
          let r := x.2 (la n).toInt (lb n).toInt
          if r < -(2 ^ (w - 1)) then (2 ^ (w - 1), fSAT)
          else if 2 ^ (w - 1) ≤ r then (2 ^ (w - 1) - 1, fSAT)
          else ((BitVec.ofInt w r).toNat, 0))))
    ∧ (NoCall s → VFree s → NoPush s td → RowFull s ta row → RowFull s tb row →
      ∃ v, exec (.vsel typ td ta tb row) s = .next (issued (Claim.rowOut s (Claim.arith typ).1 (Claim.arith typ).2 td row v 0 (BitVec.allOnes 256)))
        ∧ ∀ n, n < 2048 / w → lane w v n = if s.laneMask.getLsbD n then la n else lb n)

/-- The row words of one source: latency and occupancy, floating lane, integer lane (R201, R202). -/
def Sys2Proof.Claim.row1 : List ((BitVec 3 → BitVec 4 → BitVec 4 → BitVec 6 → Instr) × (BitVec 3 → Nat × Nat) × (FEnv → Nat → Nat × Flags)
    × ((w : Nat) → BitVec w → Int)) :=
  [ (.vabs, Claim.arith, fun e a => (a % 2 ^ (e.f.w - 1), 0), fun _ a => (a.toInt.natAbs : Int))
  , (.vneg, Claim.arith, fun e a => (a ^^^ 2 ^ (e.f.w - 1), 0), fun _ a => -a.toInt)
  , (.vsqrt, fun _ => (12, 4), fun e a => e.sqrt a, fun _ a => a.toInt)
  , (.vrcp, fun _ => (12, 4), fun e a => e.rcp a, fun _ a => a.toInt)
  , (.vrsq, fun _ => (12, 4), fun e a => e.rsq a, fun _ a => a.toInt)
  , (.vexp2, fun _ => (12, 4), fun e a => e.exp2 a, fun _ a => a.toInt)
  , (.vlog2, fun _ => (12, 4), fun e a => e.log2 a, fun _ a => a.toInt)
  , (.vtanh, fun _ => (12, 4), fun e a => e.tanh a, fun _ a => a.toInt)
  , (.vfloor, Claim.arith, fun e a => e.rint .rdn false a, fun _ a => a.toInt)
  , (.vceil, Claim.arith, fun e a => e.rint .rup false a, fun _ a => a.toInt)
  , (.vrint, Claim.arith, fun e a => e.rint e.mode true a, fun _ a => a.toInt)
  , (.vclz, Claim.arith, fun _ a => (a, 0), fun w a => (((List.range w).find? (fun i => a.getLsbD (w - 1 - i))).getD w : Nat))
  , (.vpopc, Claim.arith, fun _ a => (a, 0), fun w a => (((List.range w).filter (fun i => a.getLsbD i)).length : Int))
  , (.vnot, Claim.arith, fun e a => (2 ^ e.f.w - 1 - a, 0), fun _ a => -a.toInt - 1)
  , (.vclass, Claim.arith, fun e a => (e.cls a, 0), fun _ a => a.toInt) ]

/-- R201: every row word of one source that is well formed for its type. -/
def Sys2Proof.Claim.RowsOfOneSource : Prop :=
  ∀ x ∈ Claim.row1, ∀ (typ : BitVec 3) (td ta : BitVec 4) (row : BitVec 6) (s : State), (x.1 typ td ta row).wf = true →
    Claim.rowReady s td row [(ta, row)] false →
    let w := typW typ
    Claim.rowLanes s (x.1 typ td ta row) (x.2.1 typ).1 (x.2.1 typ).2 w td row (fun n =>
      let a := lane w (s.cur.rowReg ta row).v n
      if typ.toNat < 4 then x.2.2.1 (fenv typ s.cur.u.rm) a.toNat else ((BitVec.ofInt w (x.2.2.2 w a)).toNat, 0))

/-- R203, R79: the scans run from lane 0: VSCAN adds and VSCANMAX takes maxima, a masked-off lane entering as the identity and not
being written; VSEGSCAN starts anew at every lane whose bit is set in the prefix mask, and writes every lane. -/
def Sys2Proof.Claim.RowScans : Prop :=
  ∀ (typ : BitVec 3) (td ta : BitVec 4) (row : BitVec 6) (s : State),
    let w := typW typ
    let rm := s.cur.u.rm
    let x := fun n => (lane w (s.cur.rowReg ta row).v n).toNat
    let on := fun n => s.laneMask.getLsbD n
    (Claim.rowReady s td row [(ta, row)] false →
      ∀ y ∈ ([ (.vscan, sumIdent typ, fun a b => (sumComb typ rm a b).1), (.vscanmax, pickIdent typ true, fun a b => (pickComb typ rm true a b).1) ] :
          List ((BitVec 3 → BitVec 4 → BitVec 4 → BitVec 6 → Instr) × Nat × (Nat → Nat → Nat))),
        ∃ (v : Row) (fl : Flags) (r : Nat → Nat), exec (y.1 typ td ta row) s = .next (issued (Claim.rowOut s 8 1 td row v fl (laneSel (w / 8) s.laneMask)))
          ∧ r 0 = (scanCopy typ rm (if on 0 then x 0 else y.2.1)).1
          ∧ (∀ n, r (n + 1) = y.2.2 (r n) (if on (n + 1) then x (n + 1) else y.2.1))
          ∧ ∀ n, n < 2048 / w → lane w v n = BitVec.ofNat w (r n))
    ∧ (NoCall s → VFree s → NoFpTrap s → NoPush s td → RowFull s ta row →
      ∃ (v : Row) (fl : Flags) (r : Nat → Nat), exec (.vsegscan typ td ta row) s = .next (issued (Claim.rowOut s 8 1 td row v fl (BitVec.allOnes 256)))
        ∧ r 0 = (scanCopy typ rm (x 0)).1
        ∧ (∀ n, r (n + 1) = if on (n + 1) then (scanCopy typ rm (x (n + 1))).1 else (sumComb typ rm (r n) (x (n + 1))).1)
        ∧ ∀ n, n < 2048 / w → lane w v n = BitVec.ofNat w (r n))

/-- R204, R205, R71: VCVT and VCVTS: a format pair R205 refuses raises FORMAT; otherwise the row is converted element by element from
the format tb names to the destination's, with latency 4; under SR the generator, as earlier words of the bundle have left it, moves by
one draw for each element. -/
def Sys2Proof.Claim.RowConversions : Prop :=
  ∀ (typ : BitVec 3) (td ta tb : BitVec 4) (row : BitVec 6) (sat : Bool) (s : State), NoCall s → VFree s → NoFpTrap s →
    RowFull s ta row → (s.iss.ke = true → RowFull s td row) →
    let i : Instr := if sat then .vcvts typ td ta tb row else .vcvt typ td ta tb row
    let efmt := s.efmt td
    let rm := s.cur.u.rm
    let dst := fmtOf (cvtDst typ efmt)
    let n := min (rowElems (fmtOf tb)) (rowElems dst)
    let sr := modeOf rm = .sr ∧ dst.draws = true
    (cvtBad typ efmt = true → exec i s = .next (s.trapHere ⟨cFormat, 0⟩))
    ∧ (cvtBad typ efmt = false → NoPush s td → ∃ t, exec i s = .next t ∧ t.iss.verdict = .issued ∧ SameMachine s t ∧ t.core.vbusy = 1
      ∧ { rem := 4, eff := .write (.row td row)
            (cvtRow (fmtOf tb) dst rm sat s.laneMask (s.cur.rowReg ta row).v (if sr then (srDraws s.cur.genNow n).1 else [])).1
            (laneSel (max 1 (dst.bits / 8)) s.laneMask) false } ∈ t.cur.pend
      ∧ (sr → { rem := 1, eff := .gen (srDraws s.cur.genNow n).2 } ∈ t.cur.pend))

/-- Row words of one source: lane by lane, scans, conversions. It rests on the model's choices of log entry 55. -/
def Obligations.RowsOfOneOperand : Prop := Claim.RowsOfOneSource ∧ Claim.RowScans ∧ Claim.RowConversions

/-- R206, R207, R34: the moves. VMOV, VREV, VSWAP and VZERO under a mask write the selected groups of four bytes; the TRN8 words move
lane 8b + j of row i to lane 8b + i of row j; TZERO clears the whole tile. -/
def Sys2Proof.Claim.RowMoves : Prop :=
  ∀ (td ta : BitVec 4) (rd ra : BitVec 6) (s : State), NoCall s → VFree s → NoPush s td →
    let out := fun (l : Nat) (v : Row) => issued (Claim.rowOut s l 1 td rd v 0 (laneSel 4 s.laneMask))
    let a := (s.cur.rowReg ta ra).v
    (RowFull s ta ra → (s.iss.ke = true → RowFull s td rd) →
      exec (.vmov td rd ta ra) s = .next (out 2 a)
      ∧ ∃ v, exec (.vrev td rd ta ra) s = .next (out 2 v) ∧ ∀ g, g < 64 → lane 32 v g = lane 32 a (63 - g))
    ∧ ((s.iss.ke = true → RowFull s td rd) → exec (.vzero td rd) s = .next (out 1 0))
    ∧ (RowFull s ta ra → RowFull s td rd → NoPush s ta →
      exec (.vswap td rd ta ra) s = .next (issued ((Claim.rowOut s 2 1 td rd a 0 (laneSel 4 s.laneMask)).pushRow 2 ta ra
        (s.cur.rowReg td rd).v (laneSel 4 s.laneMask))))
    ∧ exec (.tzero td) s = .next (issued ((vTaken s 1).push 1 (.zeroTile td 0)))
    ∧ (∀ r, ((s.land (.zeroTile td 0)).cur.rowReg td r).v = 0 ∧ ((s.land (.zeroTile td 0)).cur.rowReg td r).st = .full)
    ∧ ((s.land (.zeroTile td 0)).cur.tile td).live = false
    ∧ ((∀ m : Nat, m < 8 → RowFull s ta (ra + BitVec.ofNat 6 m)) →
      ∀ x ∈ ([(.trn8B, 8), (.trn8H, 16), (.trn8W, 32)] : List ((BitVec 4 → BitVec 6 → BitVec 4 → BitVec 6 → Instr) × Nat)),
        ∃ v : Nat → Row, exec (x.1 td rd ta ra) s = .next (issued ((List.range 8).foldl
            (fun u i => u.pushRow 9 td (rd + BitVec.ofNat 6 i) (v i) (BitVec.allOnes 256)) (vTaken s 1)))
          ∧ ∀ i j b, i < 8 → j < 8 → 8 * b + 7 < 2048 / x.2 →
              lane x.2 (v j) (8 * b + i) = lane x.2 (s.cur.rowReg ta (ra + BitVec.ofNat 6 i)).v (8 * b + j))

/-- The deliveries of a whole tile: row n at issue cycle c + lead + n (R208, R224). -/
def Sys2Proof.Claim.tileDeliveries (s : State) (td : BitVec 4) (lead : Nat) (v : Nat → Row) : List Dlv :=
  (List.range 64).map (fun n => Claim.whole s (.row td (BitVec.ofNat 6 n)) (v n) (.issue (s.core.isc + lead + n)))

/-- R208, R224: TMOV and PAPPLY.R are long-latency producers of a whole tile: every row of td is marked, and row n is delivered n issue
cycles after the first: TMOV's row n is ta's row n from cycle c + 2 on, PAPPLY.R's is ta's row p(n) from cycle c + 4 on. TMOV of
a tile to itself changes nothing. -/
def Sys2Proof.Claim.TileMoves : Prop :=
  ∀ (td ta : BitVec 4) (pa : BitVec 3) (s : State), NoCall s → (∀ r, RowFull s ta r) →
    let src := fun (n : Nat) => (s.cur.rowReg ta (BitVec.ofNat 6 n)).v
    (VFree s → td ≠ ta → NoPush s td → ∃ t, exec (.tmov td ta) s = .next t ∧ t.iss.verdict = .issued ∧ SameMachine s t
      ∧ t.pkg.dlvs = s.pkg.dlvs ++ Claim.tileDeliveries s td 2 src
      ∧ ∀ r, { rem := 1, eff := .mark (.row td r) } ∈ t.cur.pend)
    ∧ (VFree s → td = ta → exec (.tmov td ta) s = .next (issued (vTaken s 1)))
    ∧ (PermFull s pa → NoPush s td → s.core.netBusy ≤ s.core.isc →
      ∃ t, exec (.papplyR pa td ta) s = .next t ∧ t.iss.verdict = .issued ∧ SameMachine s t ∧ t.core.netBusy = s.core.isc + 67
        ∧ t.pkg.dlvs = s.pkg.dlvs ++ Claim.tileDeliveries s td 4 (fun n => src (permAt (s.cur.pv pa).v n))
        ∧ ∀ r, { rem := 1, eff := .mark (.row td r) } ∈ t.cur.pend)
    ∧ (PermFull s pa → s.core.isc < s.core.netBusy → exec (.papplyR pa td ta) s = .next (held s .other))

/-- Moves of rows and of tiles. -/
def Obligations.Moves : Prop := Claim.RowMoves ∧ Claim.TileMoves

/-- R209: VBCAST, VEXTR, VIOTA and KTOROW, scalar and rows FULL: every lane the low bits of the scalar; the lane that the scalar
numbers, extended by its type, 0 beyond the lanes; n plus the scalar; all ones or zeros by the mask register. -/
def Sys2Proof.Claim.RowsAndScalars : Prop :=
  ∀ (typ : BitVec 3) (t : BitVec 4) (row : BitVec 6) (r : BitVec 5) (k : BitVec 3) (s : State),
    let w := typW typ
    (Claim.rowReady s t row [] false → Full s r →
      Claim.rowLanes s (.vbcast typ t row r) 2 1 w t row (fun _ => ((s.cur.sv r).toNat % 2 ^ w, 0))
      ∧ Claim.rowLanes s (.viota typ t row r) 2 1 w t row (fun n =>
          if typ.toNat < 4 then
            let e := fenv typ s.cur.u.rm
            e.f.result e.mode e.ftz (FVal.ofInt ((s.cur.sv r).toInt + n))
          else (((s.cur.sv r).toNat + n) % 2 ^ w, 0))
      ∧ Claim.rowLanes s (.ktorow typ t row k) 2 1 w t row (fun n => (if (s.cur.kv k).getLsbD n then 2 ^ w - 1 else 0, 0)))
    ∧ (NoCall s → VFree s → RowFull s t row →
      (Full s r →
        let n := (s.cur.sv r).toNat
        let x := lane w (s.cur.rowReg t row).v n
        exec (.vextr typ t row r) s = .next (issued ((vTaken s 1).pushS 3 r
          (if 2048 / w ≤ n then 0 else if typ.toNat < 4 then x.setWidth 64 else x.signExtend 64))))
      ∧ ∃ m : Mask, exec (.kfromrow typ t row k) s = .next (issued ((vTaken s 1).pushK 2 k m))
        ∧ ∀ n, n < 256 → m.getLsbD n = (decide (n < 2048 / w) && decide (lane w (s.cur.rowReg t row).v n ≠ 0)))

/-- R210, R79: the reductions, row FULL, combine the lanes by the pairwise tree, masked-off ones entering as the identity, with latency
10; over integer lanes VREDADD is their sum modulo 2^w, and VREDMAX and VREDMIN bound every lane the mask allows and are one
of them or the identity. -/
def Sys2Proof.Claim.RowReductions : Prop :=
  ∀ (typ : BitVec 3) (t : BitVec 4) (row : BitVec 6) (r : BitVec 5) (s : State), NoCall s → VFree s → NoFpTrap s → RowFull s t row →
    let w := typW typ
    let x := fun n => lane w (s.cur.rowReg t row).v n
    let on := fun n => decide (n < 2048 / w) && s.laneMask.getLsbD n
    let rm := s.cur.u.rm
    let leaves := fun (ident : Nat) => (List.range (2048 / w)).map (fun n => if on n then (x n).toNat else ident)
    let gives := fun (i : Instr) (v : Word) (fl : Flags) => exec i s = .next (issued
      ((if fl = 0 then vTaken s 1 else (vTaken s 1).push 1 (.flags fl)).pushS 10 r v))
    let float := fun (i : Instr) (z : Nat × Flags) => gives i (BitVec.ofNat 64 (z.1 % 2 ^ w)) z.2
    (typ.toNat < 4 →
      float (.vredadd typ t row r) (tree (sumComb typ rm) 8 (leaves (sumIdent typ)))
      ∧ float (.vredmax typ t row r) (tree (pickComb typ rm true) 8 (leaves (pickIdent typ true)))
      ∧ float (.vredmin typ t row r) (tree (pickComb typ rm false) 8 (leaves (pickIdent typ false))))
    ∧ (4 ≤ typ.toNat →
      gives (.vredadd typ t row r) ((BitVec.ofNat w (((List.range (2048 / w)).map (fun n => if on n then (x n).toNat else 0)).sum)).signExtend 64) 0
      ∧ (∃ v : BitVec w, gives (.vredmax typ t row r) (v.signExtend 64) 0 ∧ (∀ n, on n = true → (x n).toInt ≤ v.toInt)
        ∧ ((∃ n, on n = true ∧ v = x n) ∨ v.toInt = -(2 ^ (w - 1))))
      ∧ (∃ v : BitVec w, gives (.vredmin typ t row r) (v.signExtend 64) 0 ∧ (∀ n, on n = true → v.toInt ≤ (x n).toInt)
        ∧ ((∃ n, on n = true ∧ v = x n) ∨ v.toInt = 2 ^ (w - 1) - 1)))

/-- Row words with a scalar operand or result. It rests on the model's choices of log entry 55. -/
def Obligations.RowsWithScalars : Prop := Claim.RowsAndScalars ∧ Claim.RowReductions

/-- R211: the words of mask registers, with latency 2. KMOVD writes only its quarter of k. -/
def Sys2Proof.Claim.MaskWords : Prop :=
  ∀ (typ : BitVec 3) (r : BitVec 5) (k kt ks : BitVec 3) (q : BitVec 2) (s : State), NoCall s → VFree s →
    let s1 := vTaken s 1
    let lanes := 2048 / typW typ
    exec (.kpopc typ r k) s = .next (issued (s1.pushS 2 r
        (BitVec.ofNat 64 ((List.range lanes).filter (fun n => (s.cur.kv k).getLsbD n)).length)))
    ∧ exec (.kfirst typ r k) s = .next (issued (s1.pushS 2 r
        (BitVec.ofNat 64 (((List.range lanes).find? (fun n => (s.cur.kv k).getLsbD n)).getD lanes))))
    ∧ exec (.kmovs q r k) s = .next (issued (s1.pushS 2 r ((s.cur.kv k).extractLsb' (64 * q.toNat) 64)))
    ∧ exec (.kand kt ks k) s = .next (issued (s1.pushK 2 k (s.cur.kv kt &&& s.cur.kv ks)))
    ∧ exec (.kor kt ks k) s = .next (issued (s1.pushK 2 k (s.cur.kv kt ||| s.cur.kv ks)))
    ∧ exec (.kxor kt ks k) s = .next (issued (s1.pushK 2 k (s.cur.kv kt ^^^ s.cur.kv ks)))
    ∧ exec (.knot kt k) s = .next (issued (s1.pushK 2 k (~~~ s.cur.kv kt)))
    ∧ (Full s r → ∃ v sel, exec (.kmovd q r k) s = .next (issued (s1.push 2 (.write (.k k) v sel false)))
        ∧ (k ≠ 0 → ∀ i, i < 256 → ((s.land (.write (.k k) v sel false)).cur.kv k).getLsbD i
            = if 64 * q.toNat ≤ i ∧ i < 64 * q.toNat + 64 then (s.cur.sv r).getLsbD (i - 64 * q.toNat) else (s.cur.kv k).getLsbD i))

/-- Row comparisons and selection, and the mask words. It rests on the model's choices of log entry 13. -/
def Obligations.RowMasks : Prop := Claim.RowComparesAndSelect ∧ Claim.MaskWords

/-! ## Permutations (09 R212-R225) -/

/-- A solve has been queued behind those in progress: it starts when the bodkin is free, 8 issue cycles after the last at the
earliest, and its settings come 40 issue cycles after that; pd is marked (R219). -/
def Sys2Proof.Claim.solves (s t : State) (pd : BitVec 3) (p : List Nat) : Prop :=
  let start := max s.core.isc s.core.lastSolve
  t.iss.verdict = .issued ∧ SameMachine s t ∧ t.core.lastSolve = start + 8
    ∧ ∃ x : Solve, t.core.solves = s.core.solves ++ [x] ∧ x.sid = s.cur.sid ∧ x.pd = pd ∧ x.v = canon p ∧ x.left = start + 40
      ∧ (pd ≠ 0 → t.marked s.cur.sid x.tag (.p pd) = true)

/-- R217, R218, R219, R221: PLOAD, PCOMP, PINV and PRAND, sources FULL, with fewer than four solves in progress, queue a solve of the
index vector, the composition, the inverse, the random permutation; a bad vector raises PERM_INVALID; with four in progress the
word is held. -/
def Obligations.PermSolves : Prop :=
  ∀ (pd pa pb : BitVec 3) (t : BitVec 4) (row : BitVec 6) (r : BitVec 5) (s : State), NoCall s →
    let bytes := ((rowBytes (s.cur.rowReg t row).v).take 64).map BitVec.toNat
    let n := s.cur.sv r
    let solved := fun (i : Instr) (p : List Nat) => ∃ u, exec i s = .next u ∧ Claim.solves s u pd p
    (s.core.solves.length < 4 →
      (Full s r → solved (.prand pd r) (prandList (s.cur.sv r)))
      ∧ (PermFull s pa →
        (∃ q : List Nat, solved (.pinv pd pa) q ∧ q.length = 64
          ∧ ((permList (s.cur.pv pa).v).Nodup → ∀ i, i < 64 → q.getD (permAt (s.cur.pv pa).v i) 0 = i))
        ∧ (PermFull s pb → solved (.pcomp pd pa pb) ((List.range 64).map (fun i => permAt (s.cur.pv pa).v (permAt (s.cur.pv pb).v i)))))
      ∧ (Full s r → RowFull s t row → permFault n bytes = none →
        solved (.pload pd t row r) ((List.range 64).map (fun i => if i < n.toNat then bytes.getD i 0 else i))))
    ∧ (Full s r → RowFull s t row → ∀ v, permFault n bytes = some v →
        exec (.pload pd t row r) s = .next (s.trapHere ⟨cPermInvalid, v⟩))
    ∧ (4 ≤ s.core.solves.length → Full s r → exec (.prand pd r) s = .next (held s .other))

/-- R217: the moves of permutations, latency 4: PSTORE writes p(0) to p(63) as bytes and zeros behind them, PGETR the settings, PSETR
reads settings, PID is the identity, PMOV the settings bit for bit. -/
def Sys2Proof.Claim.PermMoves : Prop :=
  ∀ (pd pa : BitVec 3) (t : BitVec 4) (row : BitVec 6) (s : State), NoCall s →
    exec (.pid pd) s = .next (issued (s.pushP 4 pd 0))
    ∧ (PermFull s pa →
      exec (.pmov pd pa) s = .next (issued (s.pushP 4 pd (s.cur.pv pa).v))
      ∧ (NoPush s t →
        (∃ v, exec (.pstore pa t row) s = .next (issued (s.pushRow 4 t row v (BitVec.allOnes 256)))
          ∧ ∀ i, i < 256 → (lane 8 v i).toNat = if i < 64 then permAt (s.cur.pv pa).v i else 0)
        ∧ exec (.pgetr pa t row) s = .next (issued (s.pushRow 4 t row ((s.cur.pv pa).v.setWidth 2048) (BitVec.allOnes 256)))))
    ∧ (RowFull s t row → exec (.psetr pd t row) s = .next (issued (s.pushP 4 pd ((s.cur.rowReg t row).v.setWidth 352))))

/-- A function applied `n` times. -/
def Sys2Proof.Claim.times (f : Nat → Nat) : Nat → Nat → Nat
  | 0, x => x
  | n + 1, x => f (Claim.times f n x)

/-- R217, R222, R223: the queries, latency 8: PFIX counts fixed points, PCYC cycles, PORD is the least common multiple of their lengths,
PCLEN the length of one, 0 from position 64 on, PEQ says whether two registers hold one permutation, whatever their settings. -/
def Sys2Proof.Claim.PermQueries : Prop :=
  ∀ (pa pb : BitVec 3) (r : BitVec 5) (s : State), NoCall s → PermFull s pa →
    let q := permList (s.cur.pv pa).v
    let gives := fun (i : Instr) (n : Nat) => exec i s = .next (issued (s.pushS 8 r (BitVec.ofNat 64 n)))
    let at_ := fun (k x : Nat) => Claim.times (permAt (s.cur.pv pa).v) k x
    gives (.pfix pa r) ((List.range 64).filter (fun i => decide (permAt (s.cur.pv pa).v i = i))).length
    ∧ gives (.pcyc pa r) (cycles q).length
    ∧ gives (.pord pa r) ((cycles q).foldl (fun m c => Nat.lcm m c.length) 1)
    ∧ (Full s r → 64 ≤ (s.cur.sv r).toNat → gives (.pclen pa r) 0)
    ∧ (Full s r → (s.cur.sv r).toNat < 64 → q.Nodup →
        ∃ n, gives (.pclen pa r) n ∧ 1 ≤ n ∧ at_ n (s.cur.sv r).toNat = (s.cur.sv r).toNat
          ∧ ∀ m, 1 ≤ m → m < n → at_ m (s.cur.sv r).toNat ≠ (s.cur.sv r).toNat)
    ∧ (PermFull s pb →
      ((∀ i, i < 64 → permAt (s.cur.pv pa).v i = permAt (s.cur.pv pb).v i) → gives (.peq pa pb r) 1)
      ∧ (∀ i, i < 64 → permAt (s.cur.pv pa).v i ≠ permAt (s.cur.pv pb).v i → gives (.peq pa pb r) 0))

/-- R225: PAPPLY.L, permutation and row FULL, the tile pushed to no stream: group g of four bytes is group p(g) of the source, latency
6. -/
def Sys2Proof.Claim.PermLanes : Prop :=
  ∀ (pa : BitVec 3) (td ta : BitVec 4) (row : BitVec 6) (s : State), NoCall s → PermFull s pa → RowFull s ta row → NoPush s td →
    ∃ v, exec (.papplyL pa td ta row) s = .next (issued (s.pushRow 6 td row v (BitVec.allOnes 256)))
      ∧ ∀ g, g < 64 → lane 32 v g = lane 32 (s.cur.rowReg ta row).v (permAt (s.cur.pv pa).v g)

/-- The words that move, ask and apply permutations. -/
def Obligations.PermutationWords : Prop := Claim.PermMoves ∧ Claim.PermQueries ∧ Claim.PermLanes

/-- R215: the canonical routing realises every permutation: the settings it gives connect output i to input p(i). -/
def Obligations.CanonicalRouting : Prop :=
  ∀ p : List Nat, p.length = 64 → (∀ x ∈ p, x < 64) → p.Nodup → permList (canon p) = p

/-! ## The matrix unit (10 R228-R253) -/

/-- R245, R246: MCALL of a strand that is not speculative and has no call under way, its object good, the permutation registers of
its PERM steps and the rows of its accumulator tile FULL: it issues, and a call with the matrix arguments and permutations as
they stand now joins the core's queue, not yet started; an index without a routine gives a call that will end with cause 0x72;
no register's value and no byte of memory has changed. A call of the strand under way holds it, no row of its accumulator tile being
EXPIRED or POISONED.
It rests on the model's choices of log entry 53. -/
def Obligations.MatrixCalls : Prop :=
  ∀ (idx : BitVec 8) (obj : BitVec 5) (fl : BitVec 3) (s : State) (p : Option Phys), NotSpec s → (obj ≠ 0 → Full s obj) →
    s.objOf obj = .ok p →
    let x : Scan := match s.routine idx with
      | some (start, len) => s.scan s.cur.ma start len
      | none => {}
    (NoCall s → (∀ q ∈ x.perms, PermFull s q) → (∀ t, x.acc = some t → ∀ r, (s.cur.rowReg t r).st = .full) →
      ∃ t m, exec (.mcall idx obj fl) s = .next t ∧ t.iss.verdict = .issued ∧ SameMachine s t ∧ t.core.calls = s.core.calls ++ [m]
        ∧ m.sid = s.cur.sid ∧ m.idx = idx ∧ m.fl = fl ∧ m.objAt = p ∧ m.ma = s.cur.ma ∧ m.accTile = x.acc ∧ m.started = false
        ∧ (∀ i : Fin 8, m.perms.get i = (s.cur.pv (BitVec.ofNat 3 i.val)).v)
        ∧ (s.routine idx = none → m.ended = true ∧ m.status.toNat % 2 ^ 16 = 3 + 0x72 * 2 ^ 8 ∧ (t.ending.isSome = true))
        ∧ (s.routine idx ≠ none → m.ended = false ∧ m.pre = x.err))
    ∧ ((∃ m ∈ s.core.calls, m.sid = s.cur.sid) →
      (∀ t, x.acc = some t → ∀ r, (s.cur.rowReg t r).st = .full ∨ (s.cur.rowReg t r).st = .empty) →
      exec (.mcall idx obj fl) s = .next (held s .blocked))

/-- R244, R251-R253: MPSET, MPGET, MTSET, MTGET, MTCLR and MBMAP issue and queue what they give: a matrix argument with latency 2, a
matrix argument or a tile's TSW and attributes to a scalar with latency 2, a tile's attributes (a new bitmap all ones, or read from
the own scratchpad: the bundle takes the banks and is held while they deliver, R90, then issues), TSW zeroed, the bitmap of the
elements present. -/
def Sys2Proof.Claim.TileWords : Prop :=
  ∀ (s : State) (ma : BitVec 3) (t : BitVec 4) (r a : BitVec 5), NoCall s →
    (Full s r → exec (.mpset ma r) s = .next (issued (s.push 2 (.write (.ma ma) ((s.cur.sv r).setWidth 2048) (BitVec.allOnes 256) false))))
    ∧ exec (.mpget ma r) s = .next (issued (s.pushS 2 r (s.cur.mav ma)))
    ∧ exec (.mtget t r) s = .next (issued (s.pushS 2 r ((s.cur.tile t).tsw ++ (s.cur.tile t).attr)))
    ∧ exec (.mtclr t) s = .next (issued (s.push 1 (.tsw t true 0)))
    ∧ (Full s r → ∀ v : BitVec 32, v = BitVec.ofNat 32 ((s.cur.sv r).toNat % 1024) →
      (v.getLsbD 9 = false → ∀ x : BitVec 5, x = 0 ∨ Full s x → exec (.mtset t r x) s = .next (issued (s.push 1 (.attr t v none))))
      ∧ (v.getLsbD 9 = true → exec (.mtset t r 0) s = .next (issued (s.push 1 (.attr t v
          (if (s.cur.tile t).attr.getLsbD 9 then none else some (Vector.replicate 64 (BitVec.allOnes 512)))))))
      ∧ (a ≠ 0 → Full s a → v.getLsbD 9 = true →
        let ea := s.cur.sv a
        let efmt : BitVec 4 := BitVec.ofNat 4 (v.toNat % 16)
        (ea.toNat % 64 ≠ 0 → exec (.mtset t r a) s = .next (s.trapHere ⟨cMisaligned, ea⟩))
        ∧ ∀ l, ea.toNat % 64 = 0 → s.checkRange s.cur.level s.cur.sc.satp .load ea (max 1 (8 * bmBits efmt)) = .ok l →
          s.tracking false ea ≠ .undeclared → s.tracking false (ea + BitVec.ofNat 64 (8 * bmBits efmt - 1)) ≠ .undeclared →
          ((∃ z ∈ l, s.exposed z.1 = false) → exec (.mtset t r a) s = .next (s.trapHere ⟨cTargetType, ea⟩))
          ∧ ((∀ z ∈ l, s.exposed z.1 = true) → bmBits efmt ≠ 0 →
            (s.takeBanks l = none → exec (.mtset t r a) s = .next (held s .other))
            ∧ ∀ u, s.takeBanks l = some u →
              (s.cur.bmHold = false → exec (.mtset t r a) s = .next (held (u.modCur (fun c => { c with bmHold := true })) .other))
              ∧ (s.cur.bmHold = true → exec (.mtset t r a) s = .next (issued ((s.modCur (fun c => { c with bmHold := false })).push 1
                  (.attr t v (some (bmOfBytes efmt (s.readRange l))))))))))
    ∧ (let attr := (s.cur.tile t).attr
       let f := fmtOf (BitVec.ofNat 4 (attr.toNat % 16))
       (∀ q, RowFull s t q) →
        (f.bits = 0 → exec (.mbmap t) s = .next (s.trapHere ⟨cFormat, 0⟩))
        ∧ (f.bits ≠ 0 → ∃ bm : Vector (BitVec 512) 64, exec (.mbmap t) s = .next (issued (s.push 1 (.attr t (attr ||| 0x200) (some bm))))
          ∧ ∀ (i : Fin 64) (e : Nat), e < 512 → (bm.get i).getLsbD e
            = (decide (e < f.rowLanes) && elemPresent f ((s.cur.rowReg t (BitVec.ofNat 6 i.val)).v.toNat / 2 ^ (e * f.bits) % 2 ^ f.bits))))

/-- R231: MLOADP of a strand that is not speculative, sources FULL, its source aligned and every step's address good: it issues, and a
copy of the steps it names joins the copies under way; nothing else has changed. A source that is no multiple of 8 is MISALIGNED.
MFENCEP is held while a copy is under way, and then only issues. -/
def Sys2Proof.Claim.StepLoads : Prop :=
  ∀ (r a : BitVec 5) (s : State), NoCall s → NotSpec s →
    (Full s r → Full s a →
      let ctl := (s.cur.sv r).toNat
      let src := s.cur.sv a
      (src.toNat % 8 ≠ 0 → exec (.mloadp r a) s = .next (s.trapHere ⟨cMisaligned, src⟩))
      ∧ (src.toNat % 8 = 0 → (∀ i, i < ctl / 2 ^ 12 % 2 ^ 13 → ∃ p, s.check .load 8 8 (src + BitVec.ofNat 64 (8 * i)) = .ok p) →
        ∃ t m, exec (.mloadp r a) s = .next t ∧ t.iss.verdict = .issued ∧ SameMachine s t ∧ t.core.mloads = s.core.mloads ++ [m]
          ∧ t.core.steps = s.core.steps ∧ m.sid = s.cur.sid ∧ m.first = ctl % 2 ^ 12 ∧ m.count = ctl / 2 ^ 12 % 2 ^ 13
          ∧ m.idx.toNat = ctl / 2 ^ 26 % 256 ∧ m.locs.length = m.count
          ∧ ∀ (i : Nat) (p : Phys), m.locs[i]? = some p → s.check .load 8 8 (src + BitVec.ofNat 64 (8 * i)) = .ok p))
    ∧ (s.core.mloads = [] → ∃ t, exec .mfencep s = .next t ∧ t.iss.verdict = .issued ∧ SameMachine s t ∧ t.core = s.core)
    ∧ (s.core.mloads ≠ [] → exec .mfencep s = .next (held s .blocked))

/-- The words of the matrix pipe other than MCALL. It rests on the model's choices of log entry 19. -/
def Obligations.MatrixWords : Prop := Claim.TileWords ∧ Claim.StepLoads

/-- The state after a step of the running call: the call as `m` says, its next step due after `n` cycles, at least one. -/
def Sys2Proof.Claim.stepped (s : State) (m : MCall) (n : Nat) : State := issued (s.setCall { m with due := s.core.cyc + max 1 n })

/-- The state after a step that ends its call with a cause (R248). -/
def Sys2Proof.Claim.stepFails (s : State) (m : MCall) (c : BitVec 8) (op : Option (BitVec 3)) (row : Option Nat) : State :=
  issued (s.setCall { m.report 3 c op row with ended := true })

/-- R230, R233, R239, R240, R241, R243: the steps of a running call that stage nothing: END ends the call; LOOP goes back until its
counter has counted `cnt`; ADV moves a working position; PERM permutes the staged A rows; ZERO clears the accumulator; SIG
signals, and stops the call with class 3 where it is to; a step out of order ends the call with cause 0x70. ADV's mode 3 is no step
(R232), so no routine runs it; that its meaning is that of mode 2 is the model's own. -/
def Sys2Proof.Claim.RoutineSteps : Prop :=
  ∀ (s : State) (m : MCall), s.running = some m →
    let next : MCall → MCall := fun x => { x with step := m.step + 1 }
    exec .end_ s = .next (Claim.stepped s { m with ended := true } 1)
    ∧ (∀ (c : BitVec 2) (cnt : BitVec 16) (back : BitVec 12),
      let n := m.cnt.get c.toFin + 1
      (m.step < back.toNat → exec (.loop c cnt back) s = .next (Claim.stepFails s m 0x70 none none))
      ∧ (back.toNat ≤ m.step → n.toNat < cnt.toNat →
          exec (.loop c cnt back) s = .next (Claim.stepped s { m with cnt := m.cnt.set c.toNat n c.isLt, step := m.step - back.toNat } 1))
      ∧ (back.toNat ≤ m.step → cnt.toNat ≤ n.toNat →
          exec (.loop c cnt back) s = .next (Claim.stepped s (next { m with cnt := m.cnt.set c.toNat 0 c.isLt }) 1)))
    ∧ (∀ (op : BitVec 3) (mode : BitVec 2) (d : BitVec 16),
      let q := m.pos.get op.toFin
      let area := (m.ma.get op.toFin).getLsbD 63
      (mode = 0 → area = false → exec (.adv op mode d) s = .next (Claim.stepFails s m 0x70 (some op) none))
      ∧ (mode = 0 → area = true →
          exec (.adv op mode d) s = .next (Claim.stepped s (next { m with pos := m.pos.set op.toNat (q.1 + d, q.2) op.isLt }) 1))
      ∧ (mode = 1 → exec (.adv op mode d) s = .next (Claim.stepped s (next { m with pos := m.pos.set op.toNat (q.1, q.2 + d) op.isLt }) 1))
      ∧ (2 ≤ mode.toNat → exec (.adv op mode d) s = .next (Claim.stepped s (next { m with pos := m.pos.set op.toNat (0, 0) op.isLt }) 1)))
    ∧ (∀ p : BitVec 3,
      let l := permList (m.perms.get p.toFin)
      ∃ a, exec (.perm p) s = .next (Claim.stepped s (next { m with a := a, order := l.map (fun i => m.order.getD i 0) }) 1)
        ∧ (m.a = none → a = none)
        ∧ ∀ x, m.a = some x → ∃ y, a = some y ∧ y.rows = l.map (fun i => x.rows.getD i []) ∧ y.present = l.map (fun i => x.present.getD i [])
          ∧ y.poisoned = l.map (fun i => x.poisoned.getD i false))
    ∧ (∀ (op : BitVec 3) (t : BitVec 4) (x : Operand), m.accTile = some t → maTile (m.ma.get op.toFin) = some t → m.operand op = .ok x →
      exec (.zero op 1) s = .next (Claim.stepped s (next { m with zr := true }) 1)
      ∧ exec (.zero op 0) s = .next (Claim.stepped s (next { m with
          acc := Vector.replicate 64 { v := Vector.replicate 64 0, poison := false }, zr := true }) 1))
    ∧ (∀ (stop : BitVec 1) (msk : BitVec 4),
      let f := m.flags &&& msk
      let m1 : MCall := { m with status := m.status ||| (f.setWidth 64 <<< 16) }
      (m.zr = false → exec (.sig stop msk) s = .next (Claim.stepFails s m 0x70 none none))
      ∧ (m.zr = true → stop = 0 ∨ f = 0 → exec (.sig stop msk) s = .next (Claim.stepped s (next m1) 1))
      ∧ (m.zr = true → stop = 1 → f ≠ 0 →
          exec (.sig stop msk) s = .next (Claim.stepped s { m1.report 3 cFpTrap none none with ended := true } 1)))

/-- R234, R237, R238: LDA and LDB of a good operand, their window inside its rows and elements, the rows there one after another and
the banks they lie in free (all at once, each left occupied: the model's choice, log entry 73), stage the rows as they are found, with
their poison, which TSW.POI and the call's status take; LDA resets the row order. DEC makes eight weights of each staged cb2 index of B,
once; on anything else it ends the call. BMAP of operands without a bitmap, or of no buffer, changes no mark; of an operand at a tile with
a bitmap it marks what is present in A's staged rows by the bitmap rows they come from. -/
def Sys2Proof.Claim.StagingSteps : Prop :=
  ∀ (s : State) (m : MCall), s.running = some m →
    let next : MCall → MCall := fun x => { x with step := m.step + 1 }
    (∀ (op : BitVec 3) (rf rc : BitVec 6) (k0 kn : BitVec 10) (x : Operand) (lo : Nat), m.operand op = .ok x →
      rf.toNat + rc.toNat ≤ 63 → (x.tile = none ∨ x.tile ≠ m.accTile) → (fmtOf x.fmt).bits ≠ 0 →
      (lo : Int) = k0.toNat + m.posK op → lo + kn.toNat + 1 ≤ x.count →
      let g := if x.fmt = 12 then 8 else 1
      let unit := if x.fmt = 12 then 8 else if (fmtOf x.fmt).bits = 4 then 2 else 1
      let cnt := (kn.toNat + 1) / g
      lo % unit = 0 → (kn.toNat + 1) % unit = 0 →
      ∀ (u : Nat → State) (v : Nat → Row) (p : Nat → Bool) (w : State), u 0 = s.banksFree →
      (∀ i, i ≤ rc.toNat → (u i).matrixRow m x (m.posN op) (rf.toNat + i) = .row (v i) (p i) (u (i + 1)) ∧ x.badBlock (v i) (lo / g) cnt = false) →
      s.withBanks (u (rc.toNat + 1)) = some w →
      ∃ y : Staged, y.m = op ∧ y.fmt = x.fmt ∧ y.lo = lo ∧ y.rf = rf.toNat
        ∧ (∀ i, i ≤ rc.toNat →
            y.rows[i]? = some ((List.range cnt).map (fun q => x.elem (v i) (lo / g + q))) ∧ y.poisoned[i]? = some (p i))
        ∧ ((∀ i, i ≤ rc.toNat → p i = false) → y.poi = 0 ∧ m.stagedPoison y = m)
        ∧ (∀ i, i ≤ rc.toNat → p i = true → y.poi = 0x10)
        ∧ exec (.lda op rf rc k0 kn) s = .next (issued ((w.orTsw m y.poi).setCall { next { m.stagedPoison y with
            a := some y, aAt := some (m.step, y.n, y.koff), ab := false, order := List.range 64 } with due := s.core.cyc + 1 }))
        ∧ exec (.ldb op rf rc k0 kn) s = .next (issued ((w.orTsw m y.poi).setCall { next { m.stagedPoison y with
            b := some y, bAt := some (m.step, y.n, y.koff), bb := false, dec := false } with due := s.core.cyc + 1 })))
    ∧ (∀ b, m.b = some b → b.fmt = 12 → m.dec = false →
        ∃ y : Staged, exec .dec s = .next (Claim.stepped s (next { m with b := some y, dec := true }) 1)
          ∧ y.rows = b.rows.map (fun r => (r.map Elem.decode).flatten)
          ∧ y.present = b.present.map (fun r => (r.map (fun x => List.replicate 8 x)).flatten))
    ∧ (m.dec = true ∨ (∀ b, m.b = some b → b.fmt ≠ 12) → exec .dec s = .next (Claim.stepFails s m 0x70 none none))
    ∧ (∀ a b : BitVec 1,
        (a = 1 → ∀ y, m.a = some y → ∃ x, m.operand y.m = .ok x ∧ x.bm = false) →
        (b = 1 → ∀ y, m.b = some y → ∃ x, m.operand y.m = .ok x ∧ x.bm = false) →
        exec (.bmap a b) s = .next (Claim.stepped s (next { m with ab := m.ab || a == 1, bb := m.bb || b == 1 }) 1))
    ∧ (∀ (st : Staged) (x : Operand) (t : BitVec 4), m.a = some st → m.operand st.m = .ok x → x.bm = true → x.tile = some t →
        ∃ y : Staged, exec (.bmap 1 0) s = .next (Claim.stepped s (next { m with a := some y, ab := true }) 1) ∧ y.rows = st.rows
          ∧ ∀ i q, i < 64 → q < (st.rows.getD i []).length → (y.present.getD i []).getD q false
              = ((m.tiles.get t.toFin).bm.get (Fin.ofNat 64 (st.rf + m.order.getD i 0))).getLsbD (st.lo / (if st.fmt = 12 then 8 else 1) + q))

/-- R235, R236, R242: a MAC after ZERO, both buffers staged (cb2 decoded), of a pair of formats of R235 that suits the accumulator's
format, its range inside the buffers: one k-group is added to every element, poison follows the staged rows, the flags are kept,
and the last group brings up the next step. OUT after ZERO, of a good format, to a tile other than the accumulator: every row
of its range stands converted in the call's rows. -/
def Sys2Proof.Claim.MacAndOut : Prop :=
  ∀ (s : State) (m : MCall) (afmt : BitVec 4), s.running = some m → m.zr = true →
    afmt = (match m.accTile with
      | some t => BitVec.ofNat 4 ((m.tiles.get t.toFin).attr.toNat / 16 % 16)
      | none => 0) →
    (∀ (sp : BitVec 1) (kb kn : BitVec 10) (a b : Staged) (r g : Nat) (isInt : Bool), kb.toNat + kn.toNat ≤ 1023 → m.a = some a →
      m.b = some b → (b.fmt = 12 → m.dec = true) → m.kdone ≤ kn.toNat →
      (isInt = false ∧ afmt = 0 ∧ pairOf a.fmt b.fmt = some (.float r g)
        ∨ isInt = true ∧ afmt = 4 ∧ pairOf a.fmt b.fmt = some (.int r g) ∧ a.blk = false ∧ b.blk = false) →
      let q0 := kb.toNat + m.kdone
      let q1 := min (q0 + g) (kb.toNat + kn.toNat + 1)
      ∃ t m1, exec (.mac sp kb kn) s = .next t ∧ t.iss.verdict = .issued ∧ t.core.calls = m1 :: s.core.calls.drop 1
        ∧ (∀ i j : Fin 64, (m1.acc.get i).v.get j = (accStep isInt a b (sp == 1) q0 q1 i.val j.val ((m.acc.get i).v.get j)).1)
        ∧ (∀ i : Fin 64, (m1.acc.get i).poison = ((m.acc.get i).poison || b.poisoned.any id || a.poisoned.getD i.val false))
        ∧ m1.flags &&& m.flags = m.flags
        ∧ (q1 = kb.toNat + kn.toNat + 1 → m1.step = m.step + 1 ∧ m1.kdone = 0)
        ∧ (q1 < kb.toNat + kn.toNat + 1 → m1.step = m.step ∧ m1.kdone = q1 - kb.toNat))
    ∧ (∀ (op : BitVec 3) (fmt : BitVec 4) (sat : BitVec 1) (rnd : BitVec 3) (rf rc : BitVec 6) (osh : BitVec 8) (x : Operand) (tl : BitVec 4),
      outFormatBad fmt = false → rf.toNat + rc.toNat ≤ 63 → m.operand op = .ok x → x.tile = some tl → m.accTile ≠ some tl →
      afmt = 0 ∨ afmt = 4 →
      ∃ t m1, exec (.out op fmt sat rnd rf rc osh) s = .next t ∧ t.iss.verdict = .issued ∧ t.core.calls = m1 :: s.core.calls.drop 1
        ∧ m1.step = m.step + 1 ∧ m1.acc = m.acc
        ∧ ∀ i, i ≤ rc.toNat →
          let q := rf.toNat + i
          let acc := m.acc.get (Fin.ofNat 64 q)
          m1.outs.find? (fun o => o.t == tl && o.r == BitVec.ofNat 6 q)
            = some { t := tl, r := BitVec.ofNat 6 q, poison := acc.poison, written := true,
                     v := (outRow (afmt == 4) fmt (RMode.ofCode rnd.toNat) (sat == 1) osh.toInt acc).1 })

/-- The steps of a routine. It rests on the model's choices of log entries 15, 16, 56, 73. -/
def Obligations.MatrixSteps : Prop := Claim.RoutineSteps ∧ Claim.StagingSteps ∧ Claim.MacAndOut

/-! ## Privilege, traps and the return from one (19 R341-R351, 21 R387-R392, 13 R312) -/

/-- R346: every SYS word in U raises PRIVILEGE with its word as trap value. -/
def Sys2Proof.Claim.Privilege : Prop :=
  ∀ (s : State) (d a b : BitVec 5) (n : BitVec 10) (wa wb : BitVec 1), s.cur.level = .u →
    ∀ i ∈ ([.sret, .pcsrr d n, .pcsrw d n, .tlbinv a b wa wb, .tlbsync, .ctxsave, .ctxload, .strstart d a wa, .strstop a wa, .wfi,
        .haltc] : List Instr),
      exec i s = .next (s.trapHere ⟨cPrivilege, s.wordOf i⟩)

/-- R342, R348, R349, R350, R351: the SYS words in S: PCSRR and PCSRW queue a read with latency 2 and a write at the end of the issue
cycle; TLBINV adds an invalidation and TLBSYNC holds later accesses; CTXSAVE, CTXLOAD, STRSTOP, HALTC and SRET act with their
bundle, the saving ones once the rows the strand has pushed are performed; STRSTART makes a PARKED strand ready and gives 0, 1 for a
strand in another state, and where no strand of the launch has the record, 1 or 2 (log entry 43); WFI issues when something waits for
S and is held otherwise. -/
def Sys2Proof.Claim.SystemWords : Prop :=
  ∀ (s : State) (d a b : BitVec 5) (n : BitVec 10) (wa wb : BitVec 1), NoCall s → s.cur.level = .s →
    let pushed := ∀ q ∈ s.pkg.reqs, q.sid = s.cur.sid → q.push.isSome = true → q.op.isWrite = false
    (s.fflHeld n = false →
      (n.toNat < 0x100 → exec (.pcsrr d n) s = .next (issued (s.readCsr d n)))
      ∧ (0x100 ≤ n.toNat → exec (.pcsrr d n) s = .next (issued (s.pushS 2 d (s.pcsr n)))))
    ∧ (Full s d → exec (.pcsrw d n) s = .next (issued (s.push 1 (.csr n (s.cur.sv d)))))
    ∧ (Full s a → Full s b → ∃ t x, exec (.tlbinv a b wa wb) s = .next t ∧ t.iss.verdict = .issued ∧ SameMachine s t
        ∧ t.core.tlbinvs = s.core.tlbinvs ++ [x] ∧ x.sid = s.cur.sid ∧ x.va = s.cur.sv a ∧ x.ctl = s.cur.sv b ∧ t.core.tlb = s.core.tlb)
    ∧ exec .tlbsync s = .next (issued (s.modCur (fun c => { c with tlbHold := true })))
    ∧ (s.cur.sc.srec = 0 → exec .ctxsave s = .next (s.trapHere ⟨cTargetType, 0⟩) ∧ exec .ctxload s = .next (s.trapHere ⟨cTargetType, 0⟩))
    ∧ (s.cur.sc.srec ≠ 0 → s.imagePages .store = .ok () → (pushed → exec .ctxsave s = .next (issued s.ctxSave))
        ∧ (¬ pushed → exec .ctxsave s = .next (held s .other)))
    ∧ (s.cur.sc.srec ≠ 0 → s.imagePages .load = .ok () → s.iss.repMore = false → exec .ctxload s = .next (ended s.bundleDone.ctxLoad))
    ∧ (s.iss.repMore = false → exec .sret s = .next (ended s.bundleDone.returnS))
    ∧ (s.cur.strand = none ∨ s.stopPages = .ok () → pushed → s.iss.repMore = false →
        exec .haltc s = .next (ended s.bundleDone.haltCore))
    ∧ (Full s a → s.stopPages = .ok () → pushed → s.iss.repMore = false → s.iss.endVal = none →
        exec (.strstop a wa) s = .next (ended (s.bundleDone.strStop (decide ((s.cur.sv a).toNat % 16 = 1)))))
    ∧ (Full s a → ∀ p bs v, Claim.reads s 64 (s.cur.sv a) p bs false v →
        let u := v.noteTlb s.cur.sc.satp (s.cur.sv a)
        (∀ x, u.startable (s.cur.sv a) = some x → x.state = .faulted → x.id ≠ s.cur.sid) →
        ∃ t z due tag, exec (.strstart d a wa) s = .next t ∧ t.iss.verdict = .issued
          ∧ Claim.whole { s with pkg := { s.pkg with tag := tag } } (.s d) z due ∈ t.pkg.dlvs
          ∧ (u.startable (s.cur.sv a) = none → z = (u.notStarted (s.cur.sv a) bs).setWidth 2048)
          ∧ (u.notStarted (s.cur.sv a) bs = 1 ∨ u.notStarted (s.cur.sv a) bs = 2)
          ∧ (∀ x, u.startable (s.cur.sv a) = some x → u.startState x bs = .parked → z = 0)
          ∧ (∀ x, u.startable (s.cur.sv a) = some x → u.startState x bs ≠ .parked → z = 1))
    ∧ (Full s a → ∀ p bs v, Claim.reads s 64 (s.cur.sv a) p bs true v →
        ∃ t x, exec (.strstart d a wa) s = .next t ∧ t.iss.verdict = .issued ∧ t.pkg.dlvs = s.pkg.dlvs ++ [x] ∧ x.dest = .s d
          ∧ x.poison = true)
    ∧ (s.wfiDone = true → exec .wfi s = .next (issued s))
    ∧ (s.wfiDone = false → exec .wfi s = .next (held s .other))

/-- The SYS words: the trap in U, the effect in S. It rests on the model's choices of log entries 43, 45. -/
def Obligations.SupervisorWords : Prop := Claim.Privilege ∧ Claim.SystemWords

/-- R387, R389: a trap in U of a strand that is not speculative, its cause not delegated (and no machine check of an ordered task),
enters S: SEPC, SNPC and SNNPC hold the fetch state, SCAUSE and STVAL the cause and value, SSTATUS.spp the level, spie the old sie,
sie is 0; issue goes on at STVEC; the results in flight are held, and no register's value, special register of U or byte of memory
has changed. -/
def Sys2Proof.Claim.TrapEntry : Prop :=
  ∀ (s : State) (t : TrapInfo), s.cur.level = .u → NotSpec s → s.delegates t.cause = false → t.cause ≠ cMachineCheck →
    let u := s.trapHere t
    let c := u.cur
    u.iss.verdict = .trapped t.cause t.value ∧ c.level = .s ∧ c.pc = s.cur.sc.stvec ∧ c.annul = 0
      ∧ c.sc.sepc = s.cur.pc ∧ c.sc.snpc = s.cur.npc ∧ c.sc.snnpc = s.cur.nnpc
      ∧ c.sc.scause = t.cause.setWidth 64 ∧ c.sc.stval = t.value
      ∧ c.sc.sstatus.getLsbD 0 = false ∧ c.sc.sstatus.getLsbD 1 = false ∧ c.sc.sstatus.getLsbD 2 = s.cur.sc.sstatus.getLsbD 1
      ∧ (∀ i, 3 ≤ i → c.sc.sstatus.getLsbD i = s.cur.sc.sstatus.getLsbD i)
      ∧ c.snap = s.cur.pend ∧ c.pend = []
      ∧ (∀ r, c.sv r = s.cur.sv r) ∧ (∀ x, c.tile x = s.cur.tile x) ∧ (∀ k, c.kv k = s.cur.kv k) ∧ (∀ p, c.pv p = s.cur.pv p)
      ∧ c.u = s.cur.u ∧ (∀ a, u.mem.get a = s.mem.get a) ∧ u.poison = s.poison ∧ u.oth = s.oth

/-- R341, R392: a delegated trap stays in U: what is in flight lands; then UEPC, UNPC, UNNPC, UCAUSE (with its v bit) and UTVAL are
written and issue goes on at UTVEC; the level, the S registers and memory stay. A trap is delegated only where SSTATUS.udel
is set, UTVEC is not 0, UCAUSE.v is clear and its cause is one of the seven of R341. -/
def Sys2Proof.Claim.DelegatedTraps : Prop :=
  (∀ (s : State) (t : TrapInfo), NotSpec s → s.delegates t.cause = true →
    let c := (s.trapHere t).cur
    let l := s.drain.cur
    c.level = .u ∧ c.u.uepc = s.cur.pc ∧ c.u.unpc = s.cur.npc ∧ c.u.unnpc = s.cur.nnpc ∧ c.u.utval = t.value
      ∧ c.u.ucause = t.cause.setWidth 64 ||| 0x100 ∧ c.pc = BitVec.signExtend 64 (BitVec.ofNat 56 l.u.utvec.toNat)
      ∧ c.sc.sepc = l.sc.sepc ∧ c.sc.scause = l.sc.scause ∧ c.sc.sstatus = l.sc.sstatus)
  ∧ ∀ (s : State) (k : Cause), s.delegates k = true ↔
      (s.cur.sc.sstatus.getLsbD 3 = true ∧ s.cur.level = .u ∧ s.cur.u.utvec.toNat / 4 % 2 ^ 54 ≠ 0 ∧ s.cur.u.ucause.getLsbD 8 = false
        ∧ (k = cEmptyRead ∨ k = cRepCount ∨ k = cHostAtomic ∨ k = cPermInvalid ∨ k = cFpTrap ∨ k = cTrap ∨ k = cBreak))

/-- R312: a trap of a speculative task, other than a machine check, is deferred: the context is free, the task is FAULTED with why
9, its record shows dfp and the cause, its saved fetch state is the bundle's, and its versions stay; the save waits while a store of it
is on its way within the package (R14). -/
def Sys2Proof.Claim.DeferredTraps : Prop :=
  ∀ (s : State) (t : TrapInfo) (x : Strand), s.cur.level = .u → s.curSpec = true → s.cur.strand = some x → t.cause ≠ cMachineCheck →
    let u := s.trapHere t
    u.iss.verdict = .trapped t.cause t.value
      ∧ (s.savable x.id = true → u.cur.strand = none
        ∧ ∃ y ∈ u.pkg.strands, y.id = x.id ∧ y.state = .faulted ∧ y.why = 9 ∧ y.dfp = true ∧ y.dcause = t.cause
          ∧ y.pc = s.cur.pc ∧ y.npc = s.cur.npc ∧ y.nnpc = s.cur.nnpc ∧ y.place = .off)
      ∧ (s.savable x.id = false → SameMachine s u ∧ u.cur.saving = some (.faulted, 9, .off)
        ∧ ∃ y, u.cur.strand = some y ∧ y.id = x.id ∧ y.state = .faulted ∧ y.why = 9 ∧ y.dfp = true ∧ y.dcause = t.cause)

/-- Traps that do not enter S: delegated ones, and those of a speculative task. -/
def Obligations.OtherTraps : Prop := Claim.DelegatedTraps ∧ Claim.DeferredTraps

/-- R347: the return from S: the fetch state is SEPC, SNPC, SNNPC; SSTATUS.sie takes spie and spie is 0; the level is that of spp; into
U the held snapshot is in flight again, before what S code left; a context without a strand returns to U empty. -/
def Obligations.ReturnFromTrap : Prop :=
  ∀ (s : State), s.cur.level = .s →
    let c := s.returnS.cur
    let st := s.cur.sc.sstatus
    (∀ x, s.cur.strand = some x →
      c.pc = s.cur.sc.sepc ∧ c.npc = s.cur.sc.snpc ∧ c.nnpc = s.cur.sc.snnpc ∧ c.annul = 0
        ∧ c.sc.sstatus.getLsbD 1 = st.getLsbD 2 ∧ c.sc.sstatus.getLsbD 2 = false ∧ c.sc.sstatus.getLsbD 0 = st.getLsbD 0
        ∧ (st.getLsbD 0 = false → c.level = .u ∧ (s.cur.held = [] → c.pend = s.cur.snap ++ s.cur.pend))
        ∧ (st.getLsbD 0 = true → c.level = .s ∧ c.pend = s.cur.pend))
    ∧ (s.cur.strand = none → c.level = .u ∧ c.strand = none ∧ c.sc.srec = 0 ∧ c.sc.simg = 0)

/-! ## Events of the core and of scheduling -/

/-- R139, R142, R154, R160, R43: PACKET_FETCH of an address whose twelve bytes translate with X, carry no error and are held back by
nothing (R377, R383) brings the packet in, and where they do not translate takes the trap of the bundle at PC with the address of the check that failed; an illegal word or bundle traps with its value; an
annulled bundle moves the fetch state on; an idle issue cycle ages the results in flight. -/
def Sys2Proof.Claim.FetchEvents : Prop :=
  ∀ (s : State),
    let base := packetOf s.ev.v
    (∀ l, s.checkRange s.cur.level s.cur.sc.satp .fetch base 12 = .ok l → (∀ x ∈ l, s.badAt x.1 x.2 = false ∧ s.memHeld x.1 x.2 = false) →
      ∃ t, exec .packetFetch s = .next t ∧ t.iss.verdict = .issued ∧ SameMachine s t ∧ t.core.fetching = none
        ∧ t.core.packets.head? = some { va := base, satp := s.cur.sc.satp, w := packetWords (s.readRange l) })
    ∧ (∀ e, s.checkRange s.cur.level s.cur.sc.satp .fetch base 12 = .error e → exec .packetFetch s = .next (s.trapHere e))
    ∧ exec .illegalOpcode s
        = .next (s.trapHere ⟨cIllegalOpcode, s.ev.word.setWidth 64 ||| BitVec.ofNat 64 (s.ev.n % 4 * 2 ^ 32)⟩)
    ∧ exec .illegalBundle s = .next (s.trapHere ⟨cIllegalBundle, BitVec.ofNat 64 (s.ev.n % 4 * 4 + s.ev.v.toNat % 4)⟩)
    ∧ (s.cur.annul ≠ 0 → exec .annulledBundle s = .next (issued (s.afterBundle none).noteIssued.cycleEnd))
    ∧ exec .resultLanding s = .next (issued s.cycleEnd)

/-- R15, R48, R49, R219: LONG_LATENCY_DELIVERY of a result that is due takes it out of flight to its strand; SOLVE_DELIVERY
after its cycles fills the permutation register that waits for it; REFRESH after 1,024 issue cycles passes two wall cycles and
changes nothing else; ROW_EXPIRY makes the FULL rows of short-lived tiles that are 4,096 wall cycles old EXPIRED, and no
other row changes. -/
def Sys2Proof.Claim.CoreTimers : Prop :=
  ∀ (s : State),
    (∀ d, s.pkg.dlvs[s.ev.n]? = some d → s.isDue d.due = true →
      exec .longLatencyDelivery s = .next (issued ((s.dropDlv s.ev.n).arrive d)))
    ∧ (∀ x rest, s.core.solves = x :: rest → x.left ≤ s.core.isc → x.sid = s.cur.sid → s.cur.level = .u → s.cur.saving = none → x.pd ≠ 0 →
      s.marked x.sid x.tag (.p x.pd) = true →
      ∃ t, exec .solveDelivery s = .next t ∧ t.iss.verdict = .issued ∧ t.core.solves = rest ∧ (t.cur.pv x.pd).v = x.v
        ∧ (t.cur.pv x.pd).full = true ∧ t.mem = s.mem)
    ∧ (s.core.refreshed < s.core.isc / 1024 →
      exec .refresh s = .next (issued { s with core := { s.core with cyc := s.core.cyc + 2, refreshed := s.core.refreshed + 1 } }))
    ∧ ((s.cur.expires s.core.cyc || s.oth.expires s.core.cyc) = true →
      ∃ t, exec .rowExpiry s = .next t ∧ t.iss.verdict = .issued ∧ t.mem = s.mem
        ∧ ∀ x r,
          let q := s.cur.rowReg x r
          let old := (s.cur.tile x).attr.getLsbD 8 = true ∧ q.st = .full ∧ q.wr + 4096 ≤ s.core.cyc
          (old → t.cur.rowReg x r = { q with st := .expired }) ∧ (¬ old → t.cur.rowReg x r = q))

/-- The events of fetch, of results in flight and of the core's timers. It rests on the model's choices of log entries 4, 59. -/
def Obligations.FetchAndTimers : Prop := Claim.FetchEvents ∧ Claim.CoreTimers

/-- R11, R41, R310, R318, R322: a bundle of U held for 64 issue cycles suspends its strand: blocked on a register, in state REPLY
with why 7; held at an irrevocable operation or a TSERIAL, PARKED with why 11 until it is the oldest; without a version slot,
at once, until there is one; without an id, until one is free. -/
def Sys2Proof.Claim.Suspensions : Prop :=
  ∀ (s : State) (x : Strand), s.cur.level = .u → s.cur.strand = some x →
    (s.cur.why = .blocked → 64 ≤ s.cur.stuck →
      ∃ t y, exec .blockSuspend s = .next t ∧ t.iss.verdict = .issued ∧ SameMachine s t ∧ t.cur.pc = s.cur.pc ∧ t.cur.strand = some y
        ∧ y = { x with state := .reply, why := 7, since := s.core.cyc, wait := y.wait } ∧ (s.cur.repEnd = none → y.wait = x.wait))
    ∧ ∀ e ∈ [ (Instr.irrevocableSuspend, HoldWhy.irrevocable, WaitOn.oldest, 64), (.irrevocableSuspend, .version, .version, 0)
            , (.tserialSuspend, .tserial, .oldest, 64), (.tspawnIdSuspend, .idless, .freeId, 64) ],
      s.cur.why = e.2.1 → e.2.2.2 ≤ s.cur.stuck →
        ∃ t w, exec e.1 s = .next t ∧ t.iss.verdict = .issued ∧ SameMachine s t
          ∧ t.cur.strand = some { x with state := .parked, why := 11, since := s.core.cyc, wait := some w } ∧ w.on = e.2.2.1
          ∧ w.asked = true ∧ t.cur.pc = s.cur.pc

/-- R13, R27, R319, R352-R355, R394: DISPATCH runs the entry that the core takes, in U, in a context of its own, with the fetch state and
record of the entry; one whose image carries poison is, as an ordered task that is not irrevocable, retried; a queue transfer and a
steal move an entry; entries that have waited 2^14 wall cycles rise one level; a context save empties the context of the older
resident, once its stores permit; a spent quantum saves its strand READY with why 10, or, with qtrap and no speculative task, is the
trap PREEMPT. It rests on the model's choices of log entries 4, 47, 62, 92. -/
def Obligations.SchedulingEvents : Prop :=
  ∀ (s : State),
    (∀ x, s.taking = some x → (s.incoming.strand.isSome = true → s.savable s.incoming.sid = true) →
        (s.imageBad x = false → exec .dispatch s = .next (issued (s.dispatchStrand x)))
        ∧ (s.imageBad x = true → x.ord = true → (∀ t, x.task = some t → t.irrev = false) →
          exec .dispatch s = .next (issued ((s.logError 6 3 0 x.img 0).1.retryTask x)))
        ∧ s.queued x = true
        ∧ ∃ y, (s.dispatchStrand x).cur.strand = some y ∧ y.state = .running ∧ (s.dispatchStrand x).cur.level = .u
          ∧ (s.dispatchStrand x).cur.pc = y.pc ∧ (s.dispatchStrand x).cur.sc.srec = y.recAddr)
    ∧ (∀ x, s.transferable = some x →
        exec .queueTransfer s = .next (issued (s.modStrand x.id (fun y => { y with place := .cluQ s.cluster }))))
    ∧ (let dst := BitVec.ofNat 3 s.ev.n
       let src : BitVec 3 := BitVec.ofNat 3 s.ev.v.toNat
       dst ≠ src → s.pkg.dieIdle.get dst.toFin + 4096 ≤ s.core.isc → ∀ x,
        s.dieHead src (fun x => !x.ord && x.why != 3 && !x.wait.any (fun w => w.on.why == 3) && (s.cores x.part) &&& ((BitVec.ofNat 1024 (2 ^ 128 - 1)) <<< (128 * dst.toNat)) != 0) = some x →
          exec .dieSteal s = .next (issued (s.modStrand x.id (fun y => { y with place := .dieQ dst }))))
    ∧ ((∃ x ∈ s.pkg.strands, s.aged x = true) →
        ∃ t, exec .agingPromotion s = .next t ∧ t.iss.verdict = .issued ∧ SameMachine s t
          ∧ t.pkg.strands = s.pkg.strands.map (fun x => if s.aged x then { x with level := x.level + 1, since := s.core.cyc } else x))
    ∧ (s.saveDue s.cur = true → exec .contextSave s = .next (issued (s.finishSave false)))
    ∧ (s.saveDue s.cur = false → s.saveDue s.oth = true → exec .contextSave s = .next (issued (s.finishSave true)))
    ∧ (s.saveDue s.cur = false → s.saveDue s.oth = false → s.taking.isSome = true → s.cur.strand.isSome = true → s.oth.strand.isSome = true →
        ∀ x, s.incoming.strand = some x →
        ∃ t, exec .contextSave s = .next t ∧ t.iss.verdict = .issued
          ∧ (s.savable x.id = true → (s.oth.since < s.cur.since → t.oth.strand = none) ∧ (s.cur.since ≤ s.oth.since → t.cur.strand = none))
          ∧ (s.savable x.id = false → (s.oth.since < s.cur.since → t.oth.saving.isSome = true)
              ∧ (s.cur.since ≤ s.oth.since → t.cur.saving.isSome = true)))
    ∧ (∀ x, s.cur.level = .u → s.cur.strand = some x → x.state = .running → s.cur.quantumSpent = true → s.boundary = true →
        (s.cur.sc.sstatus.getLsbD 4 = true → NotSpec s → exec .quantumExpiry s = .next (s.asyncTrap ⟨cPreempt, 0⟩))
        ∧ (s.cur.sc.sstatus.getLsbD 4 = false ∨ s.curSpec = true → s.savable x.id = true →
          ∃ t, exec .quantumExpiry s = .next t ∧ t.iss.verdict = .issued ∧ t.cur.strand = none
            ∧ ∃ y ∈ t.pkg.strands, y.id = x.id ∧ y.state = .ready ∧ y.why = 10 ∧ y.pc = s.cur.pc)
        ∧ (s.cur.sc.sstatus.getLsbD 4 = false ∨ s.curSpec = true → s.savable x.id = false →
          ∃ t y p, exec .quantumExpiry s = .next t ∧ t.iss.verdict = .issued ∧ SameMachine s t ∧ t.cur.strand = some y
            ∧ y.state = .ready ∧ y.why = 10 ∧ t.cur.saving = some (.ready, 10, p)))

/-- R278-R282, R375: WAIT_REQUEST of a wait whose request is due settles it with what its home gives, and else has it watched; WAKE
settles one whose condition holds; WAIT_TIMEOUT reads once more for one whose time has passed, and settles it, without a result, with
2 (WAITA: its operand), as it does without one where program order keeps the place from being read; a home that refuses the read
delivers POISONED, and the requester logs it. A settled wait of a strand in the current context writes
its register, FULL or POISONED, and the strand waits no longer. -/
def Sys2Proof.Claim.WaitEvents : Prop :=
  ∀ (s : State) (x : Strand) (w : Wait), s.strandOf s.ev.id = some x → x.wait = some w →
    (s.waitDue x w = true →
      (s.resolveWait w = none → exec .waitRequest s = .next (issued (s.waitRefused x w)))
      ∧ ∀ w1, s.resolveWait w = some w1 →
        let u := s.waitView w1
        (∀ p, w1.on = .susp p none →
          exec .waitRequest s = .next (issued (u.watch x { w1 with on := .susp p (some (u.waitWord p)) })))
        ∧ ((∀ p, w1.on ≠ .susp p none) →
          (∀ r, u.waitRead x w1 = some r → exec .waitRequest s = .next (issued (u.settleAs x w1 r)))
          ∧ (u.waitRead x w1 = none → exec .waitRequest s = .next (issued (u.watch x w1)))))
    ∧ (∀ m, w.on = .events m → w.asked = true → w.res = none → s.pkg.events &&& m = m →
        exec .wake s = .next (issued (s.settleAs x w (0, false, some w.sc))))
    ∧ (∀ loc cmp r, w.on = .word loc cmp → w.asked = true → w.hit = true → (s.waitView w).waitRead x w = some r →
        exec .wake s = .next (issued ((s.waitView w).settleAs x w r)))
    ∧ (w.res = none → ∀ t, w.deadline = some t → t ≤ s.ptime.toNat →
        (w.asked = false → s.waitReady x w = false → exec .waitTimeout s = .next (issued (s.timeOut x w)))
        ∧ (w.asked = true ∨ s.waitReady x w = true →
          (s.resolveWait w = none → exec .waitTimeout s = .next (issued (s.waitRefused x w)))
          ∧ ∀ w1, s.resolveWait w = some w1 →
            let u := s.waitView w1
            (∀ r, u.waitRead x w1 = some r → exec .waitTimeout s = .next (issued (u.settleAs x w1 r)))
            ∧ (u.waitRead x w1 = none → w1.on.writes = true →
              let v := match w1.on with
                | .word _ cmp => cmp
                | _ => (2 : Word)
              exec .waitTimeout s = .next (issued ((u.settleAs x w1 (v, false, none)).traced x.launched 4 [] (leBytes 8 v.toNat))))))
    ∧ (s.core.errlogp = 0 → ∃ u, SameMachine s u ∧ s.waitRefused x w = u.settleAs x w (Config.freeWord s.choice, true, none))
    ∧ (∀ v b acq, s.cur.strand = some x → s.cur.level = .u → s.cur.saving = none → w.on.writes = true → w.d ≠ 0 →
      s.marked x.id w.tag (.s w.d) = true →
        let t := s.settleAs x w (v, b, acq)
        t.cur.sv w.d = v ∧ t.cur.sst w.d = (if b then .poisoned else .full) ∧ t.cur.strand.map Strand.wait = some none)

/-- How a held strand suspends, and how a waiting one goes on. It rests on the model's choices of log entry 54. -/
def Obligations.SuspendAndWake : Prop := Claim.Suspensions ∧ Claim.WaitEvents

/-- The events that perform a request at its home, with the requests each performs. -/
def Sys2Proof.Claim.homeEvents : List (Instr × (ReqOp → Bool)) :=
  [ (.accessAtHome, fun o => match o with
      | .load _ _ | .store _ | .ldrd _ _ _ _ _ | .strd _ _ _ _ | .note _ _ | .event _ _ => true
      | .atomic _ _ _ _ _ | .vamo _ _ _ _ _ _ | .arrive _ _ | .ack => false)
  , (.atomicPerform, fun o => match o with
      | .atomic _ _ _ _ _ | .vamo _ _ _ _ _ _ => true
      | _ => false)
  , (.objectArrival, fun o => match o with
      | .arrive _ _ => true
      | _ => false) ]

/-- R92, R117, R130, R256, R385, R386: a request whose time has come, that nothing before it of its strand holds back, is performed
at its home by its event (by the host's answer where the host has to grant or give back a line first, or completes the access); an acknowledgement that is due ends its write; the host's refusal
of an AtomicOp comes back to its bundle. A posted store, performed at a plain place of which this core holds no copy, writes its
bytes there and no others; a load that no copy serves sends one reply with the value of its bytes, POISONED where a line is; what a
cluster's copy of a window tile holds newer comes home first, and outside windows nothing does.
It rests on the model's choices of log entries 8, 9, 21. -/
def Obligations.HomeEvents : Prop :=
  (∀ (s : State) (q : Req) (earlier : List Req), s.reqAt s.ev.n = some (q, earlier) → q.due ≤ s.core.cyc →
    (s.reqReady q earlier = true → s.viaHost q = false → ∀ e ∈ Claim.homeEvents, e.2 q.op = true →
      exec e.1 s = .next (issued (s.performReq q (s.ev.w.getLsbD 0) false)))
    ∧ (q.op = .ack → ∃ t, exec .writeAcknowledgement s = .next t ∧ t.iss.verdict = .issued ∧ SameMachine s t
        ∧ t.pkg.reqs = s.pkg.reqs.eraseIdx s.ev.n)
    ∧ (s.reqReady q earlier = true → s.viaHost q = true → q.op ≠ .ack → s.ev.w.extractLsb' 0 2 = 0 → s.ev.resp = .ok →
      exec .hostResponse s = .next (issued ((s.hostAnswers q).performReq q false false)))
    ∧ (s.reqReady q earlier = true → s.viaHost q = true → q.op ≠ .ack → s.ev.w.extractLsb' 0 2 = 0 → q.host = true →
      s.ev.resp = .unsupported → q.sid = s.cur.sid →
      ∃ t, exec .hostResponse s = .next t ∧ t.iss.verdict = .issued ∧ t.mem = s.mem
        ∧ t.cur.hostOp = s.cur.hostOp.map (fun x => (x.1, .unsupported))))
  ∧ (∀ (s : State) (q : Req) (p : Phys) (bs : List Byte), Form s → q.op = .store bs → p.tt ≠ 5 → s.copyOf p = none →
    Claim.plainPlace s p bs.length →
    let u := s.homeTouch p true
    Claim.stored u (s.performServed q p) p.key0 bs ∧ SameRegs s (s.performServed q p)
      ∧ (s.ownSpad p = false ∨ s.inWindow (p.pa.extractLsb' 0 21) = false → u = s))
  ∧ (∀ (s : State) (q : Req) (p : Phys) (n : Nat) (r : BitVec 5) (zx : BitVec 1), q.op = .load n (.scalar r (zx == 1)) → p.tt ≠ 5 →
    q.acq = none → s.replicaBytes p n = none →
    let u := s.homeTouch p false
    let t := s.performServed q p
    SameRegs s t ∧ t.mem = u.mem ∧ t.poison = u.poison
      ∧ (s.ownSpad p = false ∨ s.inWindow (p.pa.extractLsb' 0 21) = false → u = s)
      ∧ ((u.readAt p n).length = n → ∃ due, t.pkg.dlvs = s.pkg.dlvs ++
        [{ sid := q.sid, tag := q.tag, dest := .s r, v := (Claim.loaded n zx (u.readAt p n)).setWidth 2048
           sel := BitVec.allOnes 256, poison := u.badAt p n, due := due }]))

/-! ## Windows, streams, engines, the matrix unit -/

/-- R94, R98-R106: a request of another core for a panel of a tile of an open window, inside its instance, goes into the directory, and
what it writes stays with its cluster's copy, which is the one left, until it is fetched (at once where a wait watches the bytes); one
from outside it, or of a closing window, is served at the home, with what a copy holds newer; a copy evicted gives back what it
has modified; a device gets the panel, of a tile of a pod window with a lease where one may be granted; leases that have passed are
noted, and a closing window that has nothing to wait for closes; a modified line is written back, and so are the modified rows of a copy.
It rests on the model's choices of log entries 40, 68, 84. -/
def Sys2Proof.Claim.WindowEvents : Prop :=
  ∀ (s : State) (x : Window),
    let t : BitVec 21 := (s.ev.v.extractLsb' 14 7) ++ (0 : BitVec 14)
    let off : BitVec 14 := s.ev.v.extractLsb' 0 14
    let p := (rowLoc (s.ownTile t) 0).plus off.toNat
    let bs := s.ev.data.take (2048 - off.toNat % 2048)
    let core := BitVec.ofNat 10 s.ev.n
    let inside := 2 ≤ x.sc.toNat ∨ core.extractLsb' 7 3 = s.die
    let asks := core ≠ s.core.core ∧ s.ev.w.getLsbD 2 = false ∧ s.ev.w.getLsbD 1 = false
    (s.windowOf t = some x →
      (asks → x.closing = none → inside →
        (s.ev.w.getLsbD 0 = false → exec .tileRequest s = .next (issued { s.dueSoon.2 with core := { s.core with
          dir := dirStep s.core.dir t core (off.extractLsb' 11 3) false [] s.dueSoon.1 } }))
        ∧ (s.ev.w.getLsbD 0 = true →
          ∃ u e, exec .tileRequest s = .next u ∧ u.iss.verdict = .issued ∧ SameRegs s u
            ∧ (s.waitedOn p bs.length = false → SameMachine s u ∧ e ∈ u.core.dir ∧ e.tile = t ∧ e.clu = core.extractLsb' 3 7 ∧ e.st = .m
              ∧ (∀ y ∈ u.core.dir, y.tile = t → y = e)
              ∧ ∀ i, i < bs.length → (e.newer.find? (fun y => y.1 == off + BitVec.ofNat 14 i)).map Prod.snd = bs[i]?)))
      ∧ (asks → x.closing ≠ none ∨ ¬ inside →
        (s.ev.w.getLsbD 0 = false → exec .tileRequest s = .next (issued (s.homeTouch p false)))
        ∧ (s.ev.w.getLsbD 0 = true → exec .tileRequest s = .next (issued (((s.homeTouch p true).writeAt p bs).dropCopies [p]))))
      ∧ (core ≠ s.core.core → s.ev.w.getLsbD 2 = false → s.ev.w.getLsbD 1 = true →
          exec .tileRequest s = .next (issued (s.evictCopy t core)))
      ∧ (s.ev.dev ≠ s.core.device →
        let q := (rowLoc (s.ownTile t) 0).plus ((s.ev.v.extractLsb' 11 3).toNat * 2048)
        let data := (s.homeTouch q false).readAt q 2048
        (x.sc = 3 → x.closing = none → s.pkg.ptimeOk = true → s.tileAwaited (s.ownTile t) = false → s.listHas t s.ev.dev = true →
          ∃ u l e k bad, exec .leaseRenewal s = .next u ∧ u.iss.verdict = .issued ∧ SameRegs s u ∧ l ∈ u.core.leases ∧ l.tile = t
            ∧ l.dev = s.ev.dev ∧ (core, k) ∈ l.steps ∧ e = s.leaseNow + BitVec.ofNat 32 (leaseLen k)
            ∧ u.pkg.out = s.pkg.out ++ [.tileReply s.ev.dev data bad (some e)]
            ∧ (∀ i, i < 32 → bad.getLsbD i = (s.homeTouch q false).badAt (q.plus (64 * i)) 64)
            ∧ (let old := s.core.leases.find? (fun y => y.tile == t && y.dev == s.ev.dev)
               (old = none → k = 0 ∧ l.expiry = e)
               ∧ ∀ y, old = some y → (y.steps.find? (fun z => z.1 == core) = none → k = 0)
                  ∧ ∀ z, y.steps.find? (fun z => z.1 == core) = some z → k = min 11 (z.2 + 1)))
        ∧ (x.sc ≠ 3 ∨ x.closing ≠ none ∨ s.pkg.ptimeOk = false ∨ s.tileAwaited (s.ownTile t) = true ∨ s.listHas t s.ev.dev = false →
          ∃ u bad, exec .leaseRenewal s = .next u ∧ u.iss.verdict = .issued ∧ SameRegs s u ∧ u.core.leases = s.core.leases
            ∧ u.pkg.out = s.pkg.out ++ [.tileReply s.ev.dev data bad none])))
    ∧ (s.core.wins = [] → (∃ l ∈ s.core.leases, l.gone = false ∧ leasePassed s.leaseNow l.expiry = true) →
        ∃ u, exec .leaseExpiry s = .next u ∧ u.iss.verdict = .issued ∧ SameMachine s u
          ∧ u.core.leases = s.core.leases.map (fun l => if leasePassed s.leaseNow l.expiry then { l with gone := true } else l))
    ∧ (x ∈ s.core.wins → s.windowOver x = true →
        ∃ u, exec .leaseExpiry s = .next u ∧ u.iss.verdict = .issued ∧ x ∉ u.core.wins)
    ∧ (s.ev.w.extractLsb' 62 2 = 0 → s.ev.dev = s.core.device → s.isDirty s.ev.n = true →
        ∃ u, exec .lineWriteback s = .next u ∧ u.iss.verdict = .issued ∧ SameMachine s u ∧ u.isDirty s.ev.n = false)
    ∧ (s.ev.w.extractLsb' 62 2 = 0 → s.ev.dev = s.core.device → s.isDirty s.ev.n = false →
        ∀ y, findLine s.pkg.lines (s.ev.w.setWidth 8) s.ev.n = some y →
        y.due.isSome = true → exec .lineWriteback s = .next (issued (s.writeBack y)))
    ∧ (s.ev.w.getLsbD 63 = true → ∀ r, s.core.replicas.find? (fun r => decide (r.tile.toNat = s.ev.v.toNat) && r.due.isSome) = some r →
        exec .lineWriteback s = .next (issued ((s.copyHome r).modCopies (fun l => l.map (fun x => if x.tile == r.tile then x.clean else x)))))

/-- R109, R231, R245, R247, R285, R113: a bound in-bound stream with room reads its next row ahead; the oldest copy of steps writes
its steps; the first matrix call starts once its strand is there and its earlier accesses are performed; one that has ended
delivers and leaves the queue, its completion released; an engine operation whose strand's earlier accesses are performed, with no change of
a die memory or a bias in progress, runs and frees its slot (while nothing it posts has to wait); another core's operation adds its entry to the arrival queue, and the head of the
queue becomes a handler strand in the lowest free frame. -/
def Sys2Proof.Claim.UnitEvents : Prop :=
  ∀ (s : State),
    (∀ k : Fin 4, s.ev.n = k.val → s.mayPrefetch k = true → ∀ p, s.dueSoon.2.check .row 256 256 (s.cur.streams.get k).addr = .ok p →
      s.accessPending p 256 = false → s.memHeld (s.homeLoc p) 256 = false → s.bankBusy p = false → p.tt ≠ 4 → s.otherDevice p = none →
      (p.tt = 2 → s.exposed p = true) →
        ∃ t, exec .streamPrefetch s = .next t ∧ t.iss.verdict = .issued ∧ t.mem = s.mem
          ∧ (t.cur.streams.get k).buf.getLast? = some (.data (s.rowAt p) (s.badAt p 256) (s.cur.streams.get k).addr s.cur.level)
          ∧ (t.cur.streams.get k).addr = (s.cur.streams.get k).next.addr ∧ ∀ j, j ≠ k → t.cur.streams.get j = s.cur.streams.get j)
    ∧ (∀ m rest, s.core.mloads = m :: rest → s.forked m.sid m.tag = true →
        (∀ p ∈ m.locs, s.memHeld (s.homeLoc p) 8 = false ∧ (s.served p true false false).isSome = true) →
        ∃ t, exec .mloadpCopy s = .next t ∧ t.iss.verdict = .issued ∧ t.core.mloads = rest ∧ SameRegs s t
          ∧ ((rest ≠ [] ∨ ∀ x ∈ s.strands, x.state ≠ .reply) → SameMachine s t)
          ∧ (m.tab = true → t.core.table.get m.idx.toFin = BitVec.ofNat 32 (m.first + m.count * 2 ^ 12))
          ∧ (m.tab = false → t.core.table = s.core.table)
          ∧ ∀ (i : Fin 4096) p, m.first ≤ i.val → m.locs[i.val - m.first]? = some p → t.core.steps.get i = s.stepAt p)
    ∧ (∀ m rest, s.core.calls = m :: rest → m.started = false → (s.ctxOf m.sid).isSome = true → s.forked m.sid m.tag = true →
        m.restage = false →
        exec .matrixCallStart s = .next (issued (s.setCall { m with started := true, due := s.core.cyc + 1 })))
    ∧ (∀ m, s.ending = some m → s.forked m.sid m.tag = true → s.releaseWaits m.sid (m.tag + 1) (m.fl.extractLsb' 0 2) = false →
        s.objLeased m.objAt = false → exec .matrixCallEnd s = .next { s.callDone m with iss := { s.iss with verdict := .issued } })
    ∧ (∀ m rest m1, s.core.calls = m :: rest → s.callEnd m = some m1 → (∀ y ∈ rest, y.ended = false ∧ (y.stop = none ∨ y.started = true)) →
        s.ending = some m1)
    ∧ (∀ o u, s.core.ops.find? (fun o => o.slot == s.ev.n) = some o → o.kind ≠ .note → o.ended = false → s.engReady o = true →
        o.desc.notify = false → (let a := s.acting o.sid o.lnch
          a.withBanks (if o.kind = .coll then a.banksFree.engColl o else a.banksFree.engCopy o).s = some u) →
        u.releaseWaits o.sid (o.tag + 1) o.desc.scope = false → u.objLeased o.obj = false →
        ∃ t, exec .engineCompletion s = .next t ∧ t.iss.verdict = .issued ∧ ∀ y ∈ t.core.ops, y.slot ≠ o.slot)
    ∧ (s.ev.data.length = 64 → s.core.arrivals.length < 64 →
        exec .arrivalHandlerCreate s = .next (issued (s.addArrival (arrivalOf s.ev.data))))
    ∧ (∀ a rest f id s1, s.ev.data.length ≠ 64 → s.core.arrivals = a :: rest → s.freeFrame (s.partSatp a.part) = some f →
        s.newId = some (id, s1) →
        ∃ t x, exec .arrivalHandlerCreate s = .next t ∧ t.iss.verdict = .issued ∧ t.core.arrivals = rest
          ∧ t.core.frames = f :: s.core.frames ∧ x ∈ t.pkg.strands ∧ x.id = id ∧ x.handler = true ∧ x.frame = some f ∧ x.pc = a.pc
          ∧ x.state = .ready ∧ x.prio = 3 ∧ x.recAddr = s.frameAt f ∧ SameRegs s t)

/-- Windows and leases; streams, copies, engines and the matrix unit. It rests on the model's choices of log entries 6, 8, 53, 54, 73. -/
def Obligations.MemoryUnits : Prop := Claim.WindowEvents ∧ Claim.UnitEvents

/-! ## Tasks, errors, debug, deadlock -/

/-- R312, R313: after 64 wall cycles a seam pulse comes; with no ordered task and no seam known it changes nothing but its count; a
FAULTED task with a deferred trap that is the oldest is queued READY with dfp cleared. -/
def Sys2Proof.Claim.SeamEvents : Prop :=
  ∀ (s : State),
    (s.pkg.pulses < s.core.cyc / 64 →
      ∃ t, exec .seamPulse s = .next t ∧ t.iss.verdict = .issued ∧ t.pkg.pulses = s.core.cyc / 64
        ∧ (s.domains = [] → t = issued { s with pkg := { s.pkg with pulses := s.core.cyc / 64 } }))
    ∧ (∀ x, s.faultedOldest = some x → s.resident x.id = false → s.strandOf x.id = some x →
        ∃ t y, exec .faultedTaskRequeue s = .next t ∧ t.iss.verdict = .issued ∧ t.strandOf x.id = some y ∧ y.state = .ready
          ∧ y.dfp = false ∧ y.pc = x.pc ∧ SameRegs s t)

/-- R396, R397, R413: a corrected error is logged with class 1 and changes nothing else of the machine; an uncorrectable one of a
scratchpad, line cache or die-memory line poisons that line (of a pooled line, the copies of it), and every byte and register stays; the
oldest pending machine check is taken, outside an annulled bundle and with no AtomicOp and no save on its way, in a core of a
partition, and is pending no longer: of no ordered task it enters S with its value; one that a bundle of no ordered task meets is
logged, and the trap enters S before the bundle with the value 0 where there is no ring; an exhausted retry is the asynchronous trap
RETRY_EXHAUSTED with the record's address. -/
def Sys2Proof.Claim.ErrorEvents : Prop :=
  ∀ (s : State),
    (s.core.errlogp = 0 → ∃ t e, exec .correctedError s = .next t ∧ t.iss.verdict = .issued ∧ SameMachine s t
        ∧ t.core.errs.head? = some e ∧ e.cls = 1 ∧ e.arr = BitVec.ofNat 8 s.ev.n ∧ e.addr = s.ev.v)
    ∧ (s.ev.n = 1 ∨ s.ev.n = 2 ∨ s.ev.n = 6 → s.core.errlogp = 0 →
        let line := ((s.ev.w.toNat % 8) * 2 ^ 52 + s.ev.v.toNat % 2 ^ 52) / 64
        ∃ t, exec .uncorrectableError s = .next t ∧ t.iss.verdict = .issued ∧ SameRegs s t ∧ t.mem = s.mem
          ∧ (2 ^ 46 ≤ line → line ∈ t.poison ∧ ∀ l, l ≠ line → (l ∈ t.poison ↔ l ∈ s.poison))
          ∧ (line < 2 ^ 46 → t.poison = s.poison
            ∧ ∀ y ∈ (if s.ev.n = 2 then t.pkg.lines else t.pkg.msc), y.line = line → y.poison = true))
    ∧ (∀ v l, s.core.mchecks = v :: l → s.checkable = true →
        let u : State := { s with core := { s.core with mchecks := l } }
        exec .machineCheck s = .next (u.takeCheck (v ||| (s.ev.w &&& 1)))
          ∧ (s.cur.strand.any (fun x => x.ord) = false → (u.takeCheck (v ||| (s.ev.w &&& 1))).cur
              = (u.enterS ⟨cMachineCheck, v ||| (s.ev.w &&& 1)⟩ s.cur.pc s.cur.npc s.cur.nnpc).cur))
    ∧ (∀ va, s.cur.level = .u → s.cur.strand.any (fun x => x.ord) = false → s.core.errlogp = 0 →
        let u := s.trapHere ⟨cMachineCheck, va⟩
        u.cur.level = .s ∧ u.cur.pc = s.cur.sc.stvec ∧ u.cur.sc.sepc = s.cur.pc ∧ u.cur.sc.scause = 0x50 ∧ u.cur.sc.stval = 0
          ∧ ∃ e, u.core.errs.head? = some e ∧ e.cls = 3 ∧ e.addr = va)
    ∧ (∀ a l, s.core.retriesDue = a :: l → s.checkable = true → NotSpec s →
        exec .retryExhausted s = .next (({ s with core := { s.core with retriesDue := l } } : State).asyncTrap ⟨cRetryExhausted, a⟩))

/-- The seam, and errors found. It rests on the model's choices of log entry 31. -/
def Obligations.SeamAndErrors : Prop := Claim.SeamEvents ∧ Claim.ErrorEvents

/-- R387, R388, R344: an asynchronous trap enters S as R389 says, whatever the strand: the fetch state, the cause and the value are
saved and issue goes on at STVEC. -/
def Sys2Proof.Claim.AsyncTraps : Prop :=
  ∀ (s : State) (t : TrapInfo), s.cur.level = .u →
    let c := (s.asyncTrap t).cur
    c.level = .s ∧ c.pc = s.cur.sc.stvec ∧ c.sc.sepc = s.cur.pc ∧ c.sc.snpc = s.cur.npc ∧ c.sc.snnpc = s.cur.nnpc
      ∧ c.sc.scause = t.cause.setWidth 64 ∧ c.sc.stval = t.value ∧ c.strand = s.cur.strand ∧ c.u = s.cur.u

/-- Entry to S by a synchronous and by an asynchronous trap. It rests on the model's choices of log entry 6. -/
def Obligations.TrapEntries : Prop := Claim.TrapEntry ∧ Claim.AsyncTraps

/-- R399: at the armed break address, before its bundle issues, a strand of U is stopped: with sdel by the trap BREAK with value 1
(deferred for a speculative task), else saved PARKED with why 9 and handed to firmware; a single-stepped strand is stopped after its
bundle: with sdel by the trap STEP with the count of bundles since the last stop, else, and a speculative task, saved and handed to
firmware. Either stop starts that count anew. -/
def Sys2Proof.Claim.DebugStops : Prop :=
  ∀ (s : State) (x : Strand), s.cur.strand = some x → s.cur.level = .u → s.cur.annul = 0 →
    (s.core.dbgctl.getLsbD 0 = true → s.cur.noBreak = false → s.cur.pc.extractLsb' 2 54 = s.core.dbgctl.extractLsb' 10 54 →
      let s1 := s.modCur (fun c => { c.modStrand (fun x => { x with steps := 0 }) with stepDue := false })
      (s.core.dbgctl.getLsbD 1 = true → s.curSpec = false → exec .addressBreak s = .next (s1.asyncTrap ⟨cBreak, 1⟩))
      ∧ (s.core.dbgctl.getLsbD 1 = true → s.curSpec = true → exec .addressBreak s = .next (s.trapHere ⟨cBreak, 1⟩))
      ∧ (s.core.dbgctl.getLsbD 1 = false →
          exec .addressBreak s = .next (issued ((s1.saveCtx false .parked 9 .off).firmwareBreak x.id s.cur.pc))))
    ∧ (s.cur.stepDue = true → s.boundary = true →
      let s1 := s.modCur (fun c => { c.modStrand (fun x => { x with steps := 0 }) with stepDue := false })
      (s.core.dbgctl.getLsbD 1 = true → s.curSpec = false → exec .stepStop s = .next (s1.asyncTrap ⟨cStep, BitVec.ofNat 64 x.steps⟩))
      ∧ (s.core.dbgctl.getLsbD 1 = false ∨ s.curSpec = true →
          exec .stepStop s = .next (issued ((s1.saveCtx false .parked 9 .off).firmwareStep x.id x.steps))))

/-- R367, R368: with nothing able to go on for 100,000 ns, on the lowest-numbered core of the partition and no report standing, the
report is made: context 0, where it runs no ordered task, is in S with cause DEADLOCK and the report's address, at STVEC; where there is no
report buffer no byte of memory changes. -/
def Sys2Proof.Claim.DeadlockReport : Prop :=
  ∀ (s : State) (p : BitVec 4) (t : Nat), s.core.dlkDue = none → s.core.inPart = some p → s.core.stuckSince = some t →
    s.stuckNow = true → s.lowestCore = true → s.core.reported = false → t + 100000 ≤ s.ptime.toNat → s.cur.annul = 0 →
    s.cur.level = .u → s.oth.level = .u → s.core.dlkp = 0 → (∀ c ∈ [s.cur, s.oth], c.strand.any (fun x => x.ord) = false ∧ c.saving = none) →
      ∃ u, exec .deadlock s = .next u ∧ u.iss.verdict = .issued ∧ u.core.curNo = false ∧ u.core.reported = true ∧ u.cur.level = .s
        ∧ u.cur.sc.scause = cDeadlock.setWidth 64 ∧ u.cur.sc.stval = s.core.dlkp ∧ u.cur.pc = u.cur.sc.stvec ∧ u.mem = s.mem

/-- Debug stops and the deadlock report. It rests on the model's choices of log entries 30, 41, 44. -/
def Obligations.DebugAndDeadlock : Prop := Claim.DebugStops ∧ Claim.DeadlockReport

/-! ## Firmware -/

/-- R358, R361, R364-R366, R380, R384, R400, R401, R413, R416, R417, R422: a command that firmware may take now, whose reserved operand bits are 0
and whose partition has cores, has its effect and completes with its status: the state after it is the one given here.
It rests on the model's choices of log entries 25, 27, 28, 29. -/
def Obligations.Commands : Prop :=
  ∀ (s : State) (slot : BitVec 6) (b : List Byte),
    let taken := fun (op : Nat) => s.cmd (· == op) = some (slot, b)
    let p : BitVec 4 := (arg b 0).extractLsb' 0 4
    let plain := (arg b 0).toNat < 16 ∧ s.cores p ≠ 0
    (taken 1 → exec .launch s = .next (issued (s.startLaunch slot b id)))
    ∧ (taken 9 → exec .record s = .next (issued (s.startLaunch slot b (fun l =>
        { l with record := l.record.map (fun _ => (arg b 1, (arg b 2).toNat)) }))))
    ∧ (taken 10 →
        (∀ feed, s.logAt (arg b 0) (arg b 1) (arg b 2).toNat = some feed →
          exec .replay s = .next (issued (s.startLaunch slot b (fun l => { l with feed := feed }))))
        ∧ (s.logAt (arg b 0) (arg b 1) (arg b 2).toNat = none → exec .replay s = .next (issued (s.complete slot 2 []))))
    ∧ ((∀ y ∈ s.pkg.parts, y.pslot = none) → taken 2 → plain → s.core.inPart ≠ some p →
        exec .preempt s = .next (issued ((s.modPart p (fun y => { y with preempted := true, pslot := none })).complete slot 0 [])))
    ∧ ((∀ y ∈ s.pkg.parts, y.pslot = none) → taken 2 → plain → s.core.inPart = some p →
        exec .preempt s = .next (issued (
          let s1 := s.modPart p (fun y => { y with preempted := true, pslot := some slot })
          { s1 with core := { s1.core with preemptDue := true } })))
    ∧ (taken 3 → plain → exec .resume s = .next (issued (
        let s1 := s.modPart p (fun y => { y with preempted := false })
        ({ s1 with pkg := { s1.pkg with
          strands := s1.pkg.strands.map (fun x => if x.part = p then { x with since := s.core.cyc } else x) } } : State).complete slot 0 [])))
    ∧ (taken 4 → plain → (arg b 1).toNat < 2 ^ 32 → s.ev.word ≠ 1 →
        let hit := fun (l : Launch) => l.lnch == (arg b 1).extractLsb' 0 32
        let l := (s.launchesOf p).filter hit
        (∀ x ∈ l, s.cur.busyWith x = false ∧ s.oth.busyWith x = false) → (∃ x ∈ l, x.phase ≠ .torn) →
        let u := (l.filter (fun x => x.phase != .torn)).foldl State.tearBegin (s.modPart p (fun x => { x with busy := true }))
        let now := (u.launchesOf p).filter hit
        (now.any u.tearWaits = true → exec .teardown s = .next (issued u))
        ∧ (now.any u.tearWaits = false → exec .teardown s = .next (issued (
          let v := now.foldl (fun (s : State) x => s.manageOthers x (.teardown (x.part ++ x.lnch))) (now.foldl State.tearEnd u)
          (v.complete slot 0 ((now.head?.map Launch.torn).getD [])).modPart p (fun x => { x with busy := false })))))
    ∧ (taken 5 → plain → s.launchesOf p = [] →
        ∃ t, exec .resetq s = .next t ∧ t.iss.verdict = .issued ∧ (∀ x ∈ t.pkg.strands, x.part ≠ p))
    ∧ (taken 6 → (arg b 0).toNat / 2 ^ 12 = 0 → (arg b 0).toNat % 256 = 2 →
        (arg b 1).toNat < 2 ^ 40 → s.cores ((arg b 0).extractLsb' 8 4) ≠ 0 → ∀ x,
        s.strands.find? (fun x => x.hasId && x.id == (arg b 1).extractLsb' 0 40 && x.part == (arg b 0).extractLsb' 8 4 && x.state != .exited)
          = some x →
        exec .query s = .next (issued (s.complete slot 0 [x.recAddr])))
    ∧ (taken 7 → (arg b 0).toNat / 2 ^ 40 % 2 ^ 20 = 0 → arg b 1 = 0 → ∀ x,
        s.strands.find? (fun x => x.hasId && x.id == (arg b 0).extractLsb' 0 40 && x.part == (arg b 0).extractLsb' 60 4 && x.state != .exited)
          = some x → s.resident x.id = false → (∀ d ∈ s.pkg.dbg, d.isBreak = true) →
        exec .step s = .next (issued ((s.debugStop x false true).complete slot 0 [x.recAddr, 0])))
    ∧ (taken 8 → plain → (arg b 1).toNat % 4 = 0 → (arg b 2).toNat < 2 ^ 40 → s.pkg.dbg = [] → s.core.inPart = some p →
        (arg b 3 = 1 → ∃ t, exec .break_ s = .next t ∧ t.iss.verdict = .issued ∧ t.core.dbgctl.getLsbD 0 = false)
        ∧ (arg b 3 = 0 → ∃ t d, exec .break_ s = .next t ∧ t.iss.verdict = .issued ∧ t.pkg.dbg = [d] ∧ d.isBreak = true
          ∧ d.slot = slot ∧ d.addr = arg b 1 ∧ t.core.dbgctl.getLsbD 0 = true ∧ t.core.dbgctl.getLsbD 1 = false
          ∧ t.core.dbgctl.extractLsb' 10 54 = (arg b 1).extractLsb' 2 54))
    ∧ (taken 12 → (arg b 0).toNat < 512 → s.hostBias (arg b 1).toNat 64 = true →
        ∃ t, exec .keyload s = .next t ∧ t.iss.verdict = .issued
          ∧ t.pkg.keyMode.get ((arg b 0).extractLsb' 0 8).toFin = (arg b 0).getLsbD 8
          ∧ t.pkg.keys.get ((arg b 0).extractLsb' 0 8).toFin = BitVec.ofNat 512 (ofBytes ((s.winRead (arg b 1).toNat 64).getD [])))
    ∧ (taken 13 → ∀ off n, arg b 0 = BitVec.ofNat 64 off → arg b 1 = BitVec.ofNat 64 n → off < 2 ^ 32 →
        off % 4096 = 0 → 1 ≤ n → n ≤ 2 ^ 20 → off + 4096 * n ≤ s.windowSize → meets off (4096 * n) 0x1000 0x2000 = false →
        s.pkg.bias = none → arg b 2 = 0 ∨ arg b 2 = 1 → exec .bias s = .next (issued { s with pkg := { s.pkg with
          bias := some { slot := slot, toHost := (arg b 2).getLsbD 0, page := off / 4096, line := 0, left := n, count := 0 } } }))
    ∧ (∀ j, s.pkg.bias = some j → s.ev.n = j.slot.toNat →
        exec .bias s = .next (issued (s.biasStep j))
          ∧ (j.left = 0 → s.biasStep j = ({ s with pkg := { s.pkg with bias := none } } : State).complete j.slot 0 [BitVec.ofNat 64 j.count])
          ∧ (j.left ≠ 0 → j.line = 63 → (j.page ∈ (s.biasStep j).pkg.devBias ↔ j.toHost = false)))
    ∧ (taken 14 → ∃ t res, exec .errlog s = .next t ∧ t.iss.verdict = .issued
        ∧ t = issued (({ s with choice := s.choice + 8 } : State).complete slot 0 res)
        ∧ ∀ e, s.core.errs = [e] → res = wordsOf e.bytes 8)
    ∧ (s.cmd (fun op => op == 0 || decide (14 < op)) = some (slot, b) → exec .unknownCommand s = .next (issued (s.complete slot 1 [])))

/-- R360, R362: a PARTITION command for cores that hold no strand, whose descriptor, image and code pages are good, loads the image, gives
the partition its cores and completes with st 0; one that fails a check completes with that check's status. -/
def Sys2Proof.Claim.PartitionCommand : Prop :=
  ∀ (s : State) (slot : BitVec 6) (b : List Byte), s.cmd (· == 11) = some (slot, b) →
    let n : BitVec 4 := (arg b 0).extractLsb' 0 4
    let cores : BitVec 1024 := BitVec.ofNat 1024 (ofBytes ((s.winRead (arg b 1).toNat 128).getD []))
    (arg b 0).toNat < 16 → (arg b 2).toNat < 2 ^ 32 → (arg b 3).extractLsb' 59 5 = 0 → s.hostBias (arg b 1).toNat 128 = true →
    ((cores ^^^ s.cores n).getLsbD s.core.core.toNat = true → (s.cur.strand.isSome || s.oth.strand.isSome) = true →
      exec .partition s = .next (issued (s.complete slot 3 [])))
    ∧ (s.cur.strand = none → s.oth.strand = none →
      (∀ st res, s.loadImage (arg b 2).toNat (arg b 3) = .error (st, res) → exec .partition s = .next (issued (s.complete slot st res)))
      ∧ ∀ s1 stvec ver, s.loadImage (arg b 2).toNat (arg b 3) = .ok (s1, stvec, ver) →
        exec .partition s = .next (issued ((s1.setPart n cores (arg b 3) stvec ver).complete slot 0 []))
          ∧ (s1.setPart n cores (arg b 3) stvec ver).cores n = cores)

/-- R22, R23, R359, R408: a replicated packet that passes its checks makes its launch; one that fails, or that comes to a device without
cores in the partition, is reported to the receiving device; a device that enters the start barrier with the launch's generation and the
incarnation on record is noted, another generation or incarnation, a refused copy, or a barrier open for 10 ms, aborts the launch,
which is then gone; a launch of which nothing is left, on its only device, completes with class 0. -/
def Sys2Proof.Claim.LaunchEvents : Prop :=
  ∀ (s : State),
    (7 ≤ s.pkg.bringUp →
      let part : BitVec 4 := (wordAt s.ev.data 8).extractLsb' 4 4
      let satp := s.partSatp part
      let lnch : BitVec 32 := (wordAt s.ev.data 48).extractLsb' 32 32
      (s.cores part = 0 → exec .launchReplica s = .next (issued (s.manage s.ev.dev (.refused (part ++ lnch)
        (BitVec.ofNat 64 (4 + 0x62 * 2 ^ 8 + s.core.device.toNat * 2 ^ 32))))))
      ∧ (s.cores part ≠ 0 →
        (∀ e, s.checkLaunch satp 0 s.ev.data false = .error e →
          exec .launchReplica s = .next (issued (s.manage s.ev.dev (.refused (part ++ lnch) e.word))))
        ∧ (∀ x, s.checkLaunch satp 0 s.ev.data false = .ok x →
          exec .launchReplica s = .next (issued (s.enroll (s.launchOf satp 0 s.ev.data x none s.ev.dev) s.ev.data)))))
    ∧ (∀ l, s.opening = some l →
      let inc := s.ev.v.extractLsb' 36 4
      let same := BitVec.ofNat 32 s.ev.v.toNat = l.gen ∧ s.ev.v.getLsbD 32 = false ∧ inc = s.incOf s.ev.dev
        ∧ ∀ x ∈ l.entered, x.1 = s.ev.dev → x.2 = inc
      (same → s.ev.v.getLsbD 33 = false →
        exec .startBarrier s = .next (issued (s.modLaunch l.lnch l.part (fun y =>
          { y with entered := (s.ev.dev, inc) :: y.entered.filter (fun d => d.1 != s.ev.dev) })).advanceAll))
      ∧ (¬ same → s.ev.v.getLsbD 33 = false →
        exec .startBarrier s = .next (issued (s.abortLaunch l ⟨0x63, s.ev.dev.toNat⟩)))
      ∧ (s.ev.v.getLsbD 33 = true →
        exec .startBarrier s = .next (issued (s.abortLaunch l ⟨s.ev.v.extractLsb' 40 8, s.ev.word.toNat⟩)))
      ∧ (s.ev.n = 1 ∨ l.receiver = s.core.device ∧ l.since + 10000000 ≤ s.ptime.toNat →
        exec .startTimeout s = .next (issued (s.abortLaunch l ⟨0x64, l.entered.length⟩))))
    ∧ (∀ l slot, s.pkg.launches.find? (fun l => l.word == s.ev.w && l.phase == .live) = some l → s.ev.dev = s.core.device →
        s.launchOver l = true → l.ended = [] → l.devFirst = s.core.device → l.devLast = s.core.device → l.receiver = s.core.device →
        l.slot = some slot →
        exec .launchEnd s = .next (issued (((((s.writeLog l).modLaunch l.lnch l.part (fun y => { y with ended := [s.core.device] })).completeAt
          l.cobj 0).dropLaunch l).complete slot 0 (State.launchRes l 0))))

/-- PARTITION, and the events of a launch. It rests on the model's choices of log entries 7, 26, 38, 51. -/
def Obligations.PartitionsAndLaunches : Prop := Claim.PartitionCommand ∧ Claim.LaunchEvents

/-! ## Device registers, the host, the fabric -/

/-- R343, R374, R376, R377, R415, R421: a write of RPLN above 64 or with a window open changes nothing, else it takes effect and the
copies are gone (what they held newer goes home); another core's is noted; ARRF takes a value that its rules allow; DMCFG takes its new
value once its time has come; DLO, DHI, SHB, EINJ and a PAPT register take the bits they have. -/
def Sys2Proof.Claim.RegisterEvents : Prop :=
  ∀ (s : State),
    (let n := s.ev.v.toNat % 128
     (64 < n → exec .rplnWrite s = .next (issued s))
     ∧ (n ≤ 64 → s.ev.w.getLsbD 0 = true →
        exec .rplnWrite s = .next (issued (s.otherRplnSet s.ev.dev (BitVec.ofNat 10 s.ev.n) n)))
     ∧ (n ≤ 64 → s.ev.w.getLsbD 0 = false →
        (s.core.wins ≠ [] → exec .rplnWrite s = .next (issued s))
        ∧ (s.core.wins = [] →
          (∃ t, exec .rplnWrite s = .next t ∧ t.iss.verdict = .issued ∧ SameRegs s t ∧ t.core.rpln = BitVec.ofNat 64 n
            ∧ t.core.replicas = [])
          ∧ ((∀ r ∈ s.core.replicas, r.lease.isSome = true) →
            exec .rplnWrite s = .next (issued { s with core := { s.core with rpln := BitVec.ofNat 64 n, replicas := [] } })))))
    ∧ (let n := s.ev.v.toNat % 128
       (64 < n → exec .arrfWrite s = .next (issued s))
       ∧ (n ≤ 64 → s.core.frames = [] →
        exec .arrfWrite s = .next (issued { s with core := { s.core with arrf := s.ev.v &&& 0x00FFFFFFFFFFF07F } })))
    ∧ (let die := BitVec.ofNat 3 s.ev.n
       ∀ near due, s.pkg.dmBusy.find? (fun x => x.1 == die) = some (die, near, due) → due ≤ s.core.cyc →
        ∃ t, exec .dmcfgWrite s = .next t ∧ t.iss.verdict = .issued ∧ t.pkg.dmcfg.get die.toFin = near.setWidth 64
          ∧ (∀ x ∈ t.pkg.dmBusy, x.1 ≠ die) ∧ SameRegs s t)
    ∧ (∀ e ∈ [(0x10100, fun (t : State) => t.pkg.dlo, 0x00000FFFFFFF0000), (0x10108, fun t => t.pkg.dhi, 0x00000FFFFFFF0000),
          (0x10110, fun t => t.pkg.shb, 0x000FFFFFFFFFF000)], s.ev.v = e.1 →
        ∃ t, exec .describedRangeWrite s = .next t ∧ t.iss.verdict = .issued ∧ SameMachine s t ∧ e.2.1 t = s.ev.w &&& e.2.2
          ∧ t.pkg.shadowKnown = [])
    ∧ exec .einjWrite s = .next (issued { s with core := { s.core with einj := s.ev.v &&& 0xFFFFFFFFFFFFF3FF } })
    ∧ (∀ i : Fin 32, s.ev.v = BitVec.ofNat 64 (0x10000 + 8 * i.val) →
        ∃ t, exec .registerWrite s = .next t ∧ t.iss.verdict = .issued ∧ SameMachine s t
          ∧ t.pkg.papt.get i = s.ev.w &&& 0x000FFFFFC000FF3F ∧ ∀ j, j ≠ i → t.pkg.papt.get j = s.pkg.papt.get j)

/-- R360, R375, R381, R383, R384, R385, R412: a peer's request is answered with what the aperture, or the scratchpad it names, serves, not
before the peer has answered this device's REJOIN; a read of the HDM window is answered with its bytes, with the metadata of its bias; of a
write of the window, what falls into a slot that firmware owns is ignored and every other byte is written, and an AtomicOp is answered
Unsupported Request; a snoop is answered with the line, and leaves in the host-line cache nothing, the line shared, or the line as it was. -/
def Sys2Proof.Claim.HostEvents : Prop :=
  ∀ (s : State),
    (s.ev.w.getLsbD 0 = false →
     let tt : BitVec 3 := if s.ev.w.getLsbD 1 then 2 else 4
     let pa : BitVec 52 := s.ev.v.setWidth 52
     let r := s.servePeer tt pa s.ev.op
     (s.pkg.rejoining.elem s.ev.dev = false → s.peerWaits tt pa s.ev.op = false →
        exec .peerRequest s = .next (issued (r.1.emit (.peerReply s.ev.dev r.2.1 r.2.2))))
     ∧ (s.pkg.rejoining.elem s.ev.dev = true ∨ s.peerWaits tt pa s.ev.op = true → exec .peerRequest s = .next (held s .other)))
    ∧ (∀ bs, s.winRead s.ev.v.toNat s.ev.n = some bs →
        let lines := winNumbers s.ev.v.toNat s.ev.n
        (∀ l ∈ lines, s.hostHeld l = false) →
        ∃ t, exec .hostRead s = .next t ∧ t.iss.verdict = .issued ∧ SameMachine s t
          ∧ t.pkg.out = s.pkg.out ++ [.hostData bs (!lines.all s.hostRule)])
    ∧ (let off := s.ev.v.toNat
       let n := s.ev.data.length
       let pieces := s.hostPieces (n / 128 + 2) off s.ev.data
       (s.ev.w.getLsbD 0 = true → exec .hostWrite s = .next (issued (s.emit .hostUnsupported)))
       ∧ (s.ev.w.getLsbD 0 = false → off + n ≤ s.windowSize → (∀ l ∈ winNumbers off n, s.hostHeld l = false) →
          exec .hostWrite s = .next (issued (((pieces.foldl (fun (s : State) x =>
            (s.winWrite x.1 x.2).traced (fun _ => true) 0 (leBytes 8 x.1) x.2) s).cleanLines
              (fun l => (s.winLines off n).elem l)).emit .hostWriteDone)))
       ∧ (∀ x ∈ pieces, s.meetsOwned x.1 x.2.length = false)
       ∧ (s.meetsOwned off n = false → (pieces.map Prod.snd).flatten = s.ev.data))
    ∧ (∃ t p, exec .hostSnoop s = .next t ∧ t.iss.verdict = .issued ∧ SameMachine s t
        ∧ p.tt = 3 ∧ p.c = true ∧ p.pa.toNat = s.ev.v.toNat % 2 ^ 52 / 64 * 64 ∧
        let l := p.key0 / 64
        t.pkg.out = s.pkg.out ++ [.snoopReply (s.isDirty l) (s.readAt p 64)]
          ∧ (s.ev.w = 0 → ∀ x ∈ t.pkg.hcache, x.1 ≠ l)
          ∧ (s.ev.w = 1 → ∀ x ∈ t.pkg.hcache, x.1 = l → x.2 = false)
          ∧ (s.ev.w = 2 → t.pkg.hcache = s.pkg.hcache))

/-- Writes of device registers, and the accesses of peers and the host. It rests on the model's choices of log entries 21, 32, 34. -/
def Obligations.RegistersAndHost : Prop := Claim.RegisterEvents ∧ Claim.HostEvents

/-- R402, R406, R407, R409, R411: a frame in its turn of the recorded incarnation is taken and its messages are received, of another
incarnation its REJOINs alone, and the drop is counted; what the frame acknowledges makes room for messages that wait; a bad frame,
or one out of its turn ahead, asks for a retry of the frame expected; a retry request sends the frames again, unchanged, and takes the
link down at the 16th; a retrained link is up; a new key goes into the other slot, and a key of the other direction comes or is cleared;
pod time out of bound and back. -/
def Sys2Proof.Claim.FabricEvents : Prop :=
  ∀ (s : State) (p : Fin 32), s.ev.n = p.val →
    let k := s.pkg.links.get p
    (∀ f, s.ev.frame = some f →
      let s1 := (s.modLink p (fun k => k.acked f.lack)).flush
      let s2 := s1.modLink p (fun k => { k with rx := f.lseq, rxWraps := k.wrapsAt f.lseq })
      let receive := fun (l : List Msg) (s : State) => l.foldl (fun (s : State) m => s.receiveMsg f.src f.inc m) s
      (s.frameBad p f = true →
        exec .frameReceive s = .next (issued ((s.countDrop f.src).emit (.retryRequest (BitVec.ofNat 5 p.val) (k.rx + 1)))))
      ∧ (s.frameBad p f = false → f.lseq = k.rx + 1 → f.inc = s.incOf f.src → exec .frameReceive s = .next (issued (receive f.msgs s2)))
      ∧ (s.frameBad p f = false → f.lseq = k.rx + 1 → f.inc ≠ s.incOf f.src → (∃ m ∈ f.msgs, m.body ≠ .rejoin) →
        exec .frameReceive s = .next (issued (receive (f.msgs.filter (fun m => m.body == .rejoin)) (s2.countDrop f.src))))
      ∧ (s.frameBad p f = false → f.lseq ≠ k.rx + 1 → (f.lseq - (k.rx + 1)).toNat < 2 ^ 23 →
        exec .frameReceive s = .next (issued (s1.emit (.retryRequest (BitVec.ofNat 5 p.val) (k.rx + 1))))))
    ∧ (let q : BitVec 24 := BitVec.ofNat 24 s.ev.v.toNat
       let n := if k.lastReplay = q then k.sameReplay + 1 else 1
       k.up = true → (∃ f ∈ k.replay, f.lseq = q) →
        (n < 16 → ∃ t, exec .linkRetry s = .next t ∧ t.iss.verdict = .issued ∧ SameMachine s t
          ∧ t.pkg.out = s.pkg.out ++ (k.replay.filter (fun f => decide ((f.lseq - q).toNat < 2 ^ 23))).map (.frame (BitVec.ofNat 5 p.val)))
        ∧ (16 ≤ n → ∃ t, exec .linkRetry s = .next t ∧ t.iss.verdict = .issued ∧ (t.pkg.links.get p).up = false))
    ∧ (k.up = false → ∃ t, exec .linkRetrained s = .next t ∧ t.iss.verdict = .issued ∧ (t.pkg.links.get p).up = true)
    ∧ (s.ev.w.getLsbD 0 = true → ∃ t, exec .keyRotation s = .next t ∧ t.iss.verdict = .issued ∧ SameMachine s t
        ∧ (t.pkg.links.get p).peerHas.getLsbD (s.ev.v.toNat % 2) = !s.ev.w.getLsbD 1)
    ∧ (s.ev.w.getLsbD 0 = false → k.oldUntil = none → ∃ t, exec .keyRotation s = .next t ∧ t.iss.verdict = .issued ∧
        let k1 := t.pkg.links.get p
        k1.oldUntil = some k.tx
          ∧ (k.kidx = 0 → k1.kidx = 1 ∧ k1.key1 = s.ev.key ∧ k1.key0 = k.key0)
          ∧ (k.kidx = 1 → k1.kidx = 0 ∧ k1.key0 = s.ev.key ∧ k1.key1 = k.key1))
    ∧ (s.pkg.ptimeOk = true → ∃ t, exec .ptimeOutOfBound s = .next t ∧ t.iss.verdict = .issued ∧ t.pkg.ptimeOk = false)
    ∧ (s.pkg.ptimeOk = false → exec .ptimeWithinBound s = .next (issued { s with pkg := { s.pkg with ptimeOk := true } }))

/-- R404, R405, R411, R412, R418, R419: an overdue message is sent again, up to eight times, then its device is lost; a recovery takes the
next incarnation and asks every peer to rejoin; a rejoining peer is recorded and no longer lost; one that does not answer within 10 ms
is lost; bring-up goes on by one step, or stops where its step fails, with no effect of it; from power loss step 1 runs; step 6 waits for the
magic, then loads the supervisor; a management request is answered from step 1 on; power goes. -/
def Sys2Proof.Claim.PlatformEvents : Prop :=
  ∀ (s : State),
    (∀ x, s.overdue = some x → 8 ≤ x.resends → exec .messageResend s = .next (issued (s.lose x.dst)))
    ∧ (∀ x, s.overdue = some x → x.resends < 8 →
        ∃ t, exec .messageResend s = .next t ∧ t.iss.verdict = .issued ∧ SameMachine s t
          ∧ Out.message x.dst x.msn x.body ∈ t.pkg.out)
    ∧ (s.pkg.launches = [] → ∃ t, exec .deviceRecovery s = .next t ∧ t.iss.verdict = .issued ∧ t.pkg.inc = s.pkg.inc + 1
        ∧ t.core.replicas = [] ∧ t.pkg.rejoining = s.podDevices)
    ∧ (∃ t, exec .rejoin s = .next t ∧ t.iss.verdict = .issued ∧ t.pkg.incs.head? = some (s.ev.dev, BitVec.ofNat 4 s.ev.v.toNat)
        ∧ s.ev.dev ∉ t.pkg.lost ∧ ∀ l ∈ t.core.leases, l.dev ≠ s.ev.dev)
    ∧ (s.pkg.rejoining.elem s.ev.dev = true → s.ev.dev ∉ s.pkg.lost → s.pkg.rejoinAt + 10000000 ≤ s.ptime.toNat →
        exec .rejoinTimeout s = .next (issued (s.lose s.ev.dev)))
    ∧ (s.pkg.powered = true → s.pkg.failed = false → s.pkg.bringUp < 5 →
        ∃ t, exec .powerUp s = .next t ∧ t.iss.verdict = .issued
          ∧ (let size := (carveOf (s.ev.data.length / 16) s.ev.data).foldl (fun a x => a + x.2.2) 0
             let fails := s.ev.w.getLsbD 0 = true ∨ s.pkg.bringUp = 4 ∧ 2 ^ 32 < size
             (¬ fails → t.pkg.bringUp = s.pkg.bringUp + 1 ∧ t.pkg.failed = false)
             ∧ (fails → t = issued { s with pkg := { s.pkg with failed := true } })))
    ∧ (s.pkg.powered = false → s.ev.w.getLsbD 0 = false →
        ∃ t, exec .powerUp s = .next t ∧ t.iss.verdict = .issued ∧ t.pkg.powered = true ∧ t.pkg.bringUp = 1 ∧ t.core.device = s.ev.dev)
    ∧ (s.pkg.bringUp = 5 → s.pkg.failed = false → ∀ bs, s.winRead 0 64 = some bs → (wordAt bs 0).extractLsb' 0 32 = 0x53444331#32 →
        ∃ t, exec .supervisorImageLoad s = .next t ∧ t.iss.verdict = .issued
          ∧ ((∃ e, s.loadImage 0 (wordAt bs 32) = .error e) → t.pkg.failed = true)
          ∧ ((∃ r, s.loadImage 0 (wordAt bs 32) = .ok r) → t.pkg.bringUp = 6))
    ∧ (s.ev.n = 2 ∨ s.ev.n = 5 → s.pkg.bringUp ≠ 0 ∨ s.pkg.failed = true →
        ∃ t v, exec .pldmRequest s = .next t ∧ t.iss.verdict = .issued ∧ SameMachine s t
        ∧ t.pkg.out = s.pkg.out ++ [.pldm (BitVec.ofNat 6 s.ev.n) v] ∧ (s.ev.n = 2 → s.ev.w = 0 → s.pkg.failed = false → v = BitVec.ofNat 64 s.pkg.bringUp))
    ∧ exec .powerLoss s = .next (issued { s with pkg := { s.pkg with powered := false } })

/-- Links, messages, recovery, bring-up, power. It rests on the model's choices of log entries 33, 35, 36, 37, 42. -/
def Obligations.FabricAndPlatform : Prop := Claim.FabricEvents ∧ Claim.PlatformEvents

/-! ## Reset, encoding, the step -/

/-- The values that the register maps give for reset: R342 (SSTATUS, SCAUSE, the saved fetch state, STVAL, RETRYMAX, QUANTUM, QCNT, PMASK,
SSCRATCH, SREC, SIMG, DLKP), R343, R421, R398, R414, R415, the user CSRs (R70, R83, R193, R268, R279, R391), R35, R36, R228, the device
registers (R374, R376, R377), R378, R383, R411; level U, nothing resident. The data of the state are in their one form. What bytes read as, and
every register the spec gives no value, is the model's choice and not stated here. -/
def Obligations.ResetValues : Prop :=
  let s := State.reset
  (∀ c ∈ [s.cur, s.oth],
      c.sc.sstatus = 0 ∧ c.sc.scause = 0 ∧ c.sc.sepc = 0 ∧ c.sc.snpc = 0 ∧ c.sc.snnpc = 0 ∧ c.sc.stval = 0 ∧ c.sc.retrymax = 3
      ∧ c.sc.quantum = 0 ∧ c.sc.qcnt = 0 ∧ c.sc.pmask = 0xF ∧ c.sc.sscratch = 0 ∧ c.sc.srec = 0 ∧ c.sc.simg = 0
      ∧ c.u.rm = 0 ∧ c.u.ffl = 0 ∧ c.u.repc = 0 ∧ c.u.vap = 0 ∧ c.u.wto = 0 ∧ c.u.utvec = 0 ∧ c.u.ucause = 0 ∧ c.u.uepc = 0 ∧ c.u.unpc = 0
      ∧ c.u.unnpc = 0 ∧ c.u.utval = 0 ∧ (∀ i, c.mav i = 0) ∧ (∀ t, (c.tile t).attr = 0 ∧ (c.tile t).tsw = 0)
      ∧ c.level = .u ∧ c.strand = none)
    ∧ s.core.dbgctl = 0 ∧ s.core.einj = 0 ∧ s.core.errlogp = 0 ∧ s.core.dlkp = 0 ∧ s.core.rpln = 32 ∧ s.core.arrf = 0
    ∧ (∀ i : Fin 32, s.pkg.papt.get i = 0) ∧ s.pkg.dlo = 0 ∧ s.pkg.dhi = 0 ∧ s.pkg.shb = 0 ∧ (∀ i : Fin 8, s.pkg.dmcfg.get i = 0)
    ∧ (∀ i : Fin 256, s.pkg.keyMode.get i = false) ∧ s.pkg.devBias = [] ∧ s.pkg.inc = 0
    ∧ Form s

/-- Every step that goes on keeps the one form of the data: memory's cells strictly rising with none that an unlisted address reads as,
the poisoned lines strictly rising. It rests on the model's choices of log entries 2, 3. -/
def Obligations.StepKeepsForm : Prop := ∀ s t : State, Form s → step s = .next t → Form t

/-- R147-R154, R232: decoding the words of a well-formed instruction gives it back, with either chain bit and every operand value; the word
of a well-formed step gives the step back. Conversely a word stands for one instruction alone: encoding what a word decodes
to gives that word back. -/
def Obligations.EncodingRoundTrips : Prop :=
  (∀ i : Instr, i.wf = true → i.isEvent = false → i.isStep = false →
    ∃ w t, encode i = w :: t ∧ ∀ x, t = [] ∨ t = [x] → decode w x = some i ∧ decode (w ||| 0x80000000) x = some i)
  ∧ (∀ i : Instr, i.wf = true → i.isStep = true → ∃ w, encodeStep i = some w ∧ decodeStep w = some i)
  ∧ (∀ (w x : BitVec 32) (i : Instr), decode w x = some i → encode i = (w &&& 0x7FFFFFFF) :: (if isMovl w then [x] else []))
  ∧ (∀ (w : BitVec 64) (i : Instr), decodeStep w = some i → encodeStep i = some w)

/-- Words written out from the encoding tables of the spec, one of each of several majors (R149): their instructions. Reserved majors and
reserved fields are no instruction (R154). -/
def Obligations.SpecWords : Prop :=
  decode 0b0_00001_000000_00011_00001_00010_0_0_000#32 0 = some (.add 3 1 2 0 0)
    ∧ decode 0b0_00010_000_00101_00101_1111111111111#32 0 = some (.addi 5 5 0x1FFF)
    ∧ decode 0b0_00100_00111_00_0000000000000000000#32 0xDEADBEEF = some (.movl 7 0xDEADBEEF)
    ∧ decode 0b0_00101_001_01_00100_1111111111111110#32 0 = some (.bnez 1 4 0xFFFE)
    ∧ decode 0b0_00111_000000_00000_00000_00000_0_0_000#32 0 = some .nop
    ∧ decode 0b0_01001_00010_00011_11_0_00_00_000000001#32 0 = some (.ld 2 3 3 0 1)
    ∧ decode 0b0_10000_00000_000_0001_0010_0011_010001#32 0 = some (.vadd 0 1 2 3 17)
    ∧ decode 0b0_10110_000000_00000_00000_00000_0_0_000#32 0 = some .sret
    ∧ (∀ x, decode 0b0_11111_00000000000000000000000000#32 x = none) ∧ (∀ x, decode 0b0_00000_00000000000000000000000000#32 x = none)
    ∧ (∀ x, decode 0b0_00111_000000_00001_00000_00000_0_0_000#32 x = none)
    ∧ decodeStep 0b0000_000000000000000000000000000000000000000000000000000000000000#64 = some .end_

/-- A step of a machine with power and nothing of its own to come runs the instruction at PC: where the words of the held packet make a
bundle of one word there that decodes to i (no REP or VAMO; the further packets that a branch or jump needs are held too), in S or
with the strand running in U and the word no SYS word, and nothing holds the bundle, exec of i decides: issued, the fetch state moves on
with the bundle; ended, the instruction acts last, on the state it has read in where it is a SUSP; trapped, the trap is taken at the
bundle; held, an issue cycle passes, but a strand found blocked for 64 of them is suspended (R41). After it the machine does what stands
beside a step. A listed event comes first, with its operands. It rests on the model's choices of log entries 4, 6, 10, 54. -/
def Obligations.StepRunsTheInstruction : Prop :=
  (∀ (s : State) (ws : Vector (BitVec 32) 3) (b : Bundle) (p : Nat) (w ext : BitVec 32) (i : Instr) (o : State),
    s.pkg.powered = true → s.agenda = [] → s.dueEvents = [] → s.core.switching = 0 →
    (s.cur.level = .s ∨ s.cur.level = .u ∧ majorOf w ≠ 22 ∧ s.cur.saving = none ∧ ∃ x, s.cur.strand = some x ∧ x.state = .running) →
    s.cur.waiting = false → (∀ x, s.cur.strand = some x → x.cross = []) → s.cur.annul = 0 → s.atBreak = false → s.cur.fpHold = none →
    s.cur.start = false → s.cur.tlbHold = false → s.foreignHere = false →
    s.fresh.heldPacket (packetOf s.cur.pc) = some ws → bundleIn ws s.cur.pc = some b → b.bad = none → b.words = [(p, w, ext)] →
    decodeIn s.curVer w ext = some i → isRep w = false → isVamo w = false →
    (∀ a ∈ s.fresh.packetsFor [{ pos := p, w := w, i := i }], (s.fresh.heldPacket a).isSome = true) →
    exec i (s.fresh.atWord { pos := p, w := w, i := i } true) = .next o →
      (o.iss.verdict = .issued → o.cur.withinLimits = true → step s = .next o.bundleDone.aside)
      ∧ (o.iss.verdict = .ended →
          let a := if o.iss.susp.isSome then o else s.fresh
          a.cur.withinLimits = true → ∀ q, exec i (a.atWord { pos := p, w := w, i := i } false) = .next q → step s = .next q.aside)
      ∧ (∀ c v, o.iss.verdict = .trapped c v → step s = .next (s.fresh.trapHere ⟨c, v⟩).aside)
      ∧ (∀ why, o.iss.verdict = .held why → (why = .blocked → o.stuckFor .blocked = false) → step s = .next (o.heldCycle why).aside)
      ∧ (o.iss.verdict = .held .blocked → o.stuckFor .blocked = true → ∀ q, exec .blockSuspend o = .next q → step s = .next q.aside))
  ∧ (∀ (s : State) (e : EvArgs) (i : Instr) (t : List (EvArgs × Instr)) (o : State), s.pkg.powered = true → s.agenda = (e, i) :: t →
    exec i { s.fresh with ev := e, agenda := t } = .next o → step s = .next o.pastDraws.aside)
end

