-- ==== Sys2Proof/Laws/State.lean ====
section
/-! SUPPORT. What each update of a state or of a context leaves and changes, field by field, so that no later proof unfolds a
record update. -/

namespace Sys2Proof.Machine

/-! ## The current context changed -/

@[simp] theorem State.modCur_cur (s : State) (f : Ctx → Ctx) : (s.modCur f).cur = f s.cur := rfl
@[simp] theorem State.modCur_oth (s : State) (f : Ctx → Ctx) : (s.modCur f).oth = s.oth := rfl
@[simp] theorem State.modCur_core (s : State) (f : Ctx → Ctx) : (s.modCur f).core = s.core := rfl
@[simp] theorem State.modCur_pkg (s : State) (f : Ctx → Ctx) : (s.modCur f).pkg = s.pkg := rfl
@[simp] theorem State.modCur_mem (s : State) (f : Ctx → Ctx) : (s.modCur f).mem = s.mem := rfl
@[simp] theorem State.modCur_poison (s : State) (f : Ctx → Ctx) : (s.modCur f).poison = s.poison := rfl
@[simp] theorem State.modCur_iss (s : State) (f : Ctx → Ctx) : (s.modCur f).iss = s.iss := rfl
@[simp] theorem State.modCur_ev (s : State) (f : Ctx → Ctx) : (s.modCur f).ev = s.ev := rfl
@[simp] theorem State.modCur_agenda (s : State) (f : Ctx → Ctx) : (s.modCur f).agenda = s.agenda := rfl
@[simp] theorem State.modCur_choice (s : State) (f : Ctx → Ctx) : (s.modCur f).choice = s.choice := rfl

/-! ## An effect queued -/

@[simp] theorem State.push_oth (s : State) (n : Nat) (e : Eff) : (s.push n e).oth = s.oth := rfl
@[simp] theorem State.push_core (s : State) (n : Nat) (e : Eff) : (s.push n e).core = s.core := rfl
@[simp] theorem State.push_pkg (s : State) (n : Nat) (e : Eff) : (s.push n e).pkg = s.pkg := rfl
@[simp] theorem State.push_mem (s : State) (n : Nat) (e : Eff) : (s.push n e).mem = s.mem := rfl
@[simp] theorem State.push_poison (s : State) (n : Nat) (e : Eff) : (s.push n e).poison = s.poison := rfl
@[simp] theorem State.push_iss (s : State) (n : Nat) (e : Eff) : (s.push n e).iss = s.iss := rfl
@[simp] theorem State.push_ev (s : State) (n : Nat) (e : Eff) : (s.push n e).ev = s.ev := rfl
@[simp] theorem State.push_agenda (s : State) (n : Nat) (e : Eff) : (s.push n e).agenda = s.agenda := rfl
@[simp] theorem State.push_choice (s : State) (n : Nat) (e : Eff) : (s.push n e).choice = s.choice := rfl
@[simp] theorem State.push_cur_s (s : State) (n : Nat) (e : Eff) : (s.push n e).cur.s = s.cur.s := rfl
@[simp] theorem State.push_cur_t (s : State) (n : Nat) (e : Eff) : (s.push n e).cur.t = s.cur.t := rfl
@[simp] theorem State.push_cur_k (s : State) (n : Nat) (e : Eff) : (s.push n e).cur.k = s.cur.k := rfl
@[simp] theorem State.push_cur_p (s : State) (n : Nat) (e : Eff) : (s.push n e).cur.p = s.cur.p := rfl
@[simp] theorem State.push_cur_ma (s : State) (n : Nat) (e : Eff) : (s.push n e).cur.ma = s.cur.ma := rfl
@[simp] theorem State.push_cur_u (s : State) (n : Nat) (e : Eff) : (s.push n e).cur.u = s.cur.u := rfl
@[simp] theorem State.push_cur_sc (s : State) (n : Nat) (e : Eff) : (s.push n e).cur.sc = s.cur.sc := rfl
@[simp] theorem State.push_cur_pc (s : State) (n : Nat) (e : Eff) : (s.push n e).cur.pc = s.cur.pc := rfl
@[simp] theorem State.push_cur_npc (s : State) (n : Nat) (e : Eff) : (s.push n e).cur.npc = s.cur.npc := rfl
@[simp] theorem State.push_cur_nnpc (s : State) (n : Nat) (e : Eff) : (s.push n e).cur.nnpc = s.cur.nnpc := rfl
@[simp] theorem State.push_cur_annul (s : State) (n : Nat) (e : Eff) : (s.push n e).cur.annul = s.cur.annul := rfl
@[simp] theorem State.push_cur_level (s : State) (n : Nat) (e : Eff) : (s.push n e).cur.level = s.cur.level := rfl
@[simp] theorem State.push_cur_pend (s : State) (n : Nat) (e : Eff) : (s.push n e).cur.pend = s.cur.pend ++ [{ rem := n, eff := e }] := rfl
@[simp] theorem State.push_cur_snap (s : State) (n : Nat) (e : Eff) : (s.push n e).cur.snap = s.cur.snap := rfl
@[simp] theorem State.push_cur_held (s : State) (n : Nat) (e : Eff) : (s.push n e).cur.held = s.cur.held := rfl
@[simp] theorem State.push_cur_sTag (s : State) (n : Nat) (e : Eff) : (s.push n e).cur.sTag = s.cur.sTag := rfl
@[simp] theorem State.push_cur_sMarks (s : State) (n : Nat) (e : Eff) : (s.push n e).cur.sMarks = s.cur.sMarks := rfl
@[simp] theorem State.push_cur_saved (s : State) (n : Nat) (e : Eff) : (s.push n e).cur.saved = s.cur.saved := rfl
@[simp] theorem State.push_cur_strand (s : State) (n : Nat) (e : Eff) : (s.push n e).cur.strand = s.cur.strand := rfl
@[simp] theorem State.push_cur_streams (s : State) (n : Nat) (e : Eff) : (s.push n e).cur.streams = s.cur.streams := rfl
@[simp] theorem State.push_cur_repN (s : State) (n : Nat) (e : Eff) : (s.push n e).cur.repN = s.cur.repN := rfl
@[simp] theorem State.push_cur_repEnd (s : State) (n : Nat) (e : Eff) : (s.push n e).cur.repEnd = s.cur.repEnd := rfl
@[simp] theorem State.push_cur_stuck (s : State) (n : Nat) (e : Eff) : (s.push n e).cur.stuck = s.cur.stuck := rfl
@[simp] theorem State.push_cur_why (s : State) (n : Nat) (e : Eff) : (s.push n e).cur.why = s.cur.why := rfl
@[simp] theorem State.push_cur_fpHold (s : State) (n : Nat) (e : Eff) : (s.push n e).cur.fpHold = s.cur.fpHold := rfl
@[simp] theorem State.push_cur_hostOp (s : State) (n : Nat) (e : Eff) : (s.push n e).cur.hostOp = s.cur.hostOp := rfl
@[simp] theorem State.push_cur_tlbHold (s : State) (n : Nat) (e : Eff) : (s.push n e).cur.tlbHold = s.cur.tlbHold := rfl
@[simp] theorem State.push_cur_loaded (s : State) (n : Nat) (e : Eff) : (s.push n e).cur.loaded = s.cur.loaded := rfl
@[simp] theorem State.push_cur_lone (s : State) (n : Nat) (e : Eff) : (s.push n e).cur.lone = s.cur.lone := rfl
@[simp] theorem State.push_cur_resumed (s : State) (n : Nat) (e : Eff) : (s.push n e).cur.resumed = s.cur.resumed := rfl
@[simp] theorem State.push_cur_bmHold (s : State) (n : Nat) (e : Eff) : (s.push n e).cur.bmHold = s.cur.bmHold := rfl
@[simp] theorem State.push_cur_saving (s : State) (n : Nat) (e : Eff) : (s.push n e).cur.saving = s.cur.saving := rfl
@[simp] theorem State.push_cur_noBreak (s : State) (n : Nat) (e : Eff) : (s.push n e).cur.noBreak = s.cur.noBreak := rfl
@[simp] theorem State.push_cur_start (s : State) (n : Nat) (e : Eff) : (s.push n e).cur.start = s.cur.start := rfl
@[simp] theorem State.push_cur_line (s : State) (n : Nat) (e : Eff) : (s.push n e).cur.line = s.cur.line := rfl
@[simp] theorem State.push_cur_stepDue (s : State) (n : Nat) (e : Eff) : (s.push n e).cur.stepDue = s.cur.stepDue := rfl
@[simp] theorem State.push_cur_since (s : State) (n : Nat) (e : Eff) : (s.push n e).cur.since = s.cur.since := rfl

/-! ## A tag drawn -/

@[simp] theorem State.newTag_tag (s : State) : s.newTag.1 = s.pkg.tag := rfl
@[simp] theorem State.newTag_cur (s : State) : s.newTag.2.cur = s.cur := rfl
@[simp] theorem State.newTag_oth (s : State) : s.newTag.2.oth = s.oth := rfl
@[simp] theorem State.newTag_core (s : State) : s.newTag.2.core = s.core := rfl
@[simp] theorem State.newTag_mem (s : State) : s.newTag.2.mem = s.mem := rfl
@[simp] theorem State.newTag_poison (s : State) : s.newTag.2.poison = s.poison := rfl
@[simp] theorem State.newTag_iss (s : State) : s.newTag.2.iss = s.iss := rfl
@[simp] theorem State.newTag_ev (s : State) : s.newTag.2.ev = s.ev := rfl
@[simp] theorem State.newTag_agenda (s : State) : s.newTag.2.agenda = s.agenda := rfl
@[simp] theorem State.newTag_choice (s : State) : s.newTag.2.choice = s.choice := rfl
@[simp] theorem State.newTag_next (s : State) : s.newTag.2.pkg.tag = s.pkg.tag + 1 := rfl

/-! ## A free value drawn -/

@[simp] theorem State.draw_cur (s : State) : s.draw.2.cur = s.cur := rfl
@[simp] theorem State.dueSoon_cur (s : State) : s.dueSoon.2.cur = s.cur := rfl
@[simp] theorem State.draw_oth (s : State) : s.draw.2.oth = s.oth := rfl
@[simp] theorem State.dueSoon_oth (s : State) : s.dueSoon.2.oth = s.oth := rfl
@[simp] theorem State.draw_core (s : State) : s.draw.2.core = s.core := rfl
@[simp] theorem State.dueSoon_core (s : State) : s.dueSoon.2.core = s.core := rfl
@[simp] theorem State.draw_pkg (s : State) : s.draw.2.pkg = s.pkg := rfl
@[simp] theorem State.dueSoon_pkg (s : State) : s.dueSoon.2.pkg = s.pkg := rfl
@[simp] theorem State.draw_mem (s : State) : s.draw.2.mem = s.mem := rfl
@[simp] theorem State.dueSoon_mem (s : State) : s.dueSoon.2.mem = s.mem := rfl
@[simp] theorem State.draw_poison (s : State) : s.draw.2.poison = s.poison := rfl
@[simp] theorem State.dueSoon_poison (s : State) : s.dueSoon.2.poison = s.poison := rfl
@[simp] theorem State.draw_iss (s : State) : s.draw.2.iss = s.iss := rfl
@[simp] theorem State.dueSoon_iss (s : State) : s.dueSoon.2.iss = s.iss := rfl
@[simp] theorem State.draw_ev (s : State) : s.draw.2.ev = s.ev := rfl
@[simp] theorem State.dueSoon_ev (s : State) : s.dueSoon.2.ev = s.ev := rfl
@[simp] theorem State.draw_agenda (s : State) : s.draw.2.agenda = s.agenda := rfl
@[simp] theorem State.dueSoon_agenda (s : State) : s.dueSoon.2.agenda = s.agenda := rfl
@[simp] theorem State.draw_choice (s : State) : s.draw.2.choice = s.choice + 1 := rfl
@[simp] theorem State.dueSoon_choice (s : State) : s.dueSoon.2.choice = s.choice + 1 := rfl

/-! ## A delivery queued -/

@[simp] theorem State.deliver_cur (s : State) (x : Dlv) : (s.deliver x).cur = s.cur := rfl
@[simp] theorem State.deliver_oth (s : State) (x : Dlv) : (s.deliver x).oth = s.oth := rfl
@[simp] theorem State.deliver_core (s : State) (x : Dlv) : (s.deliver x).core = s.core := rfl
@[simp] theorem State.deliver_mem (s : State) (x : Dlv) : (s.deliver x).mem = s.mem := rfl
@[simp] theorem State.deliver_poison (s : State) (x : Dlv) : (s.deliver x).poison = s.poison := rfl
@[simp] theorem State.deliver_iss (s : State) (x : Dlv) : (s.deliver x).iss = s.iss := rfl
@[simp] theorem State.deliver_ev (s : State) (x : Dlv) : (s.deliver x).ev = s.ev := rfl
@[simp] theorem State.deliver_agenda (s : State) (x : Dlv) : (s.deliver x).agenda = s.agenda := rfl
@[simp] theorem State.deliver_choice (s : State) (x : Dlv) : (s.deliver x).choice = s.choice := rfl
@[simp] theorem State.deliver_dlvs (s : State) (x : Dlv) : (s.deliver x).pkg.dlvs = s.pkg.dlvs ++ [x] := rfl

/-! ## A mark taken away -/

@[simp] theorem State.unmark_cur (s : State) (i : BitVec 40) (d : Dest) : (s.unmark i d).cur = s.cur := rfl
@[simp] theorem State.unmark_oth (s : State) (i : BitVec 40) (d : Dest) : (s.unmark i d).oth = s.oth := rfl
@[simp] theorem State.unmark_core (s : State) (i : BitVec 40) (d : Dest) : (s.unmark i d).core = s.core := rfl
@[simp] theorem State.unmark_mem (s : State) (i : BitVec 40) (d : Dest) : (s.unmark i d).mem = s.mem := rfl
@[simp] theorem State.unmark_poison (s : State) (i : BitVec 40) (d : Dest) : (s.unmark i d).poison = s.poison := rfl
@[simp] theorem State.unmark_iss (s : State) (i : BitVec 40) (d : Dest) : (s.unmark i d).iss = s.iss := rfl
@[simp] theorem State.unmark_ev (s : State) (i : BitVec 40) (d : Dest) : (s.unmark i d).ev = s.ev := rfl
@[simp] theorem State.unmark_agenda (s : State) (i : BitVec 40) (d : Dest) : (s.unmark i d).agenda = s.agenda := rfl
@[simp] theorem State.unmark_choice (s : State) (i : BitVec 40) (d : Dest) : (s.unmark i d).choice = s.choice := rfl

/-! ## A tile, a strand, a stream of a context changed -/

@[simp] theorem Ctx.modTile_s (c : Ctx) (x : BitVec 4) (g : Tile → Tile) : (c.modTile x g).s = c.s := rfl
@[simp] theorem Ctx.modTile_k (c : Ctx) (x : BitVec 4) (g : Tile → Tile) : (c.modTile x g).k = c.k := rfl
@[simp] theorem Ctx.modTile_p (c : Ctx) (x : BitVec 4) (g : Tile → Tile) : (c.modTile x g).p = c.p := rfl
@[simp] theorem Ctx.modTile_ma (c : Ctx) (x : BitVec 4) (g : Tile → Tile) : (c.modTile x g).ma = c.ma := rfl
@[simp] theorem Ctx.modTile_u (c : Ctx) (x : BitVec 4) (g : Tile → Tile) : (c.modTile x g).u = c.u := rfl
@[simp] theorem Ctx.modTile_sc (c : Ctx) (x : BitVec 4) (g : Tile → Tile) : (c.modTile x g).sc = c.sc := rfl
@[simp] theorem Ctx.modTile_pc (c : Ctx) (x : BitVec 4) (g : Tile → Tile) : (c.modTile x g).pc = c.pc := rfl
@[simp] theorem Ctx.modTile_npc (c : Ctx) (x : BitVec 4) (g : Tile → Tile) : (c.modTile x g).npc = c.npc := rfl
@[simp] theorem Ctx.modTile_nnpc (c : Ctx) (x : BitVec 4) (g : Tile → Tile) : (c.modTile x g).nnpc = c.nnpc := rfl
@[simp] theorem Ctx.modTile_annul (c : Ctx) (x : BitVec 4) (g : Tile → Tile) : (c.modTile x g).annul = c.annul := rfl
@[simp] theorem Ctx.modTile_level (c : Ctx) (x : BitVec 4) (g : Tile → Tile) : (c.modTile x g).level = c.level := rfl
@[simp] theorem Ctx.modTile_pend (c : Ctx) (x : BitVec 4) (g : Tile → Tile) : (c.modTile x g).pend = c.pend := rfl
@[simp] theorem Ctx.modTile_snap (c : Ctx) (x : BitVec 4) (g : Tile → Tile) : (c.modTile x g).snap = c.snap := rfl
@[simp] theorem Ctx.modTile_held (c : Ctx) (x : BitVec 4) (g : Tile → Tile) : (c.modTile x g).held = c.held := rfl
@[simp] theorem Ctx.modTile_sTag (c : Ctx) (x : BitVec 4) (g : Tile → Tile) : (c.modTile x g).sTag = c.sTag := rfl
@[simp] theorem Ctx.modTile_sMarks (c : Ctx) (x : BitVec 4) (g : Tile → Tile) : (c.modTile x g).sMarks = c.sMarks := rfl
@[simp] theorem Ctx.modTile_saved (c : Ctx) (x : BitVec 4) (g : Tile → Tile) : (c.modTile x g).saved = c.saved := rfl
@[simp] theorem Ctx.modTile_strand (c : Ctx) (x : BitVec 4) (g : Tile → Tile) : (c.modTile x g).strand = c.strand := rfl
@[simp] theorem Ctx.modTile_streams (c : Ctx) (x : BitVec 4) (g : Tile → Tile) : (c.modTile x g).streams = c.streams := rfl
@[simp] theorem Ctx.modTile_repN (c : Ctx) (x : BitVec 4) (g : Tile → Tile) : (c.modTile x g).repN = c.repN := rfl
@[simp] theorem Ctx.modTile_repEnd (c : Ctx) (x : BitVec 4) (g : Tile → Tile) : (c.modTile x g).repEnd = c.repEnd := rfl
@[simp] theorem Ctx.modTile_stuck (c : Ctx) (x : BitVec 4) (g : Tile → Tile) : (c.modTile x g).stuck = c.stuck := rfl
@[simp] theorem Ctx.modTile_why (c : Ctx) (x : BitVec 4) (g : Tile → Tile) : (c.modTile x g).why = c.why := rfl
@[simp] theorem Ctx.modTile_fpHold (c : Ctx) (x : BitVec 4) (g : Tile → Tile) : (c.modTile x g).fpHold = c.fpHold := rfl
@[simp] theorem Ctx.modTile_hostOp (c : Ctx) (x : BitVec 4) (g : Tile → Tile) : (c.modTile x g).hostOp = c.hostOp := rfl
@[simp] theorem Ctx.modTile_tlbHold (c : Ctx) (x : BitVec 4) (g : Tile → Tile) : (c.modTile x g).tlbHold = c.tlbHold := rfl
@[simp] theorem Ctx.modTile_loaded (c : Ctx) (x : BitVec 4) (g : Tile → Tile) : (c.modTile x g).loaded = c.loaded := rfl
@[simp] theorem Ctx.modTile_lone (c : Ctx) (x : BitVec 4) (g : Tile → Tile) : (c.modTile x g).lone = c.lone := rfl
@[simp] theorem Ctx.modTile_resumed (c : Ctx) (x : BitVec 4) (g : Tile → Tile) : (c.modTile x g).resumed = c.resumed := rfl
@[simp] theorem Ctx.modTile_bmHold (c : Ctx) (x : BitVec 4) (g : Tile → Tile) : (c.modTile x g).bmHold = c.bmHold := rfl
@[simp] theorem Ctx.modTile_saving (c : Ctx) (x : BitVec 4) (g : Tile → Tile) : (c.modTile x g).saving = c.saving := rfl
@[simp] theorem Ctx.modTile_noBreak (c : Ctx) (x : BitVec 4) (g : Tile → Tile) : (c.modTile x g).noBreak = c.noBreak := rfl
@[simp] theorem Ctx.modTile_start (c : Ctx) (x : BitVec 4) (g : Tile → Tile) : (c.modTile x g).start = c.start := rfl
@[simp] theorem Ctx.modTile_line (c : Ctx) (x : BitVec 4) (g : Tile → Tile) : (c.modTile x g).line = c.line := rfl
@[simp] theorem Ctx.modTile_stepDue (c : Ctx) (x : BitVec 4) (g : Tile → Tile) : (c.modTile x g).stepDue = c.stepDue := rfl
@[simp] theorem Ctx.modTile_since (c : Ctx) (x : BitVec 4) (g : Tile → Tile) : (c.modTile x g).since = c.since := rfl
@[simp] theorem Ctx.modStrand_s (c : Ctx) (g : Strand → Strand) : (c.modStrand g).s = c.s := rfl
@[simp] theorem Ctx.modStrand_t (c : Ctx) (g : Strand → Strand) : (c.modStrand g).t = c.t := rfl
@[simp] theorem Ctx.modStrand_k (c : Ctx) (g : Strand → Strand) : (c.modStrand g).k = c.k := rfl
@[simp] theorem Ctx.modStrand_p (c : Ctx) (g : Strand → Strand) : (c.modStrand g).p = c.p := rfl
@[simp] theorem Ctx.modStrand_ma (c : Ctx) (g : Strand → Strand) : (c.modStrand g).ma = c.ma := rfl
@[simp] theorem Ctx.modStrand_u (c : Ctx) (g : Strand → Strand) : (c.modStrand g).u = c.u := rfl
@[simp] theorem Ctx.modStrand_sc (c : Ctx) (g : Strand → Strand) : (c.modStrand g).sc = c.sc := rfl
@[simp] theorem Ctx.modStrand_pc (c : Ctx) (g : Strand → Strand) : (c.modStrand g).pc = c.pc := rfl
@[simp] theorem Ctx.modStrand_npc (c : Ctx) (g : Strand → Strand) : (c.modStrand g).npc = c.npc := rfl
@[simp] theorem Ctx.modStrand_nnpc (c : Ctx) (g : Strand → Strand) : (c.modStrand g).nnpc = c.nnpc := rfl
@[simp] theorem Ctx.modStrand_annul (c : Ctx) (g : Strand → Strand) : (c.modStrand g).annul = c.annul := rfl
@[simp] theorem Ctx.modStrand_level (c : Ctx) (g : Strand → Strand) : (c.modStrand g).level = c.level := rfl
@[simp] theorem Ctx.modStrand_pend (c : Ctx) (g : Strand → Strand) : (c.modStrand g).pend = c.pend := rfl
@[simp] theorem Ctx.modStrand_snap (c : Ctx) (g : Strand → Strand) : (c.modStrand g).snap = c.snap := rfl
@[simp] theorem Ctx.modStrand_held (c : Ctx) (g : Strand → Strand) : (c.modStrand g).held = c.held := rfl
@[simp] theorem Ctx.modStrand_sTag (c : Ctx) (g : Strand → Strand) : (c.modStrand g).sTag = c.sTag := rfl
@[simp] theorem Ctx.modStrand_sMarks (c : Ctx) (g : Strand → Strand) : (c.modStrand g).sMarks = c.sMarks := rfl
@[simp] theorem Ctx.modStrand_saved (c : Ctx) (g : Strand → Strand) : (c.modStrand g).saved = c.saved := rfl
@[simp] theorem Ctx.modStrand_streams (c : Ctx) (g : Strand → Strand) : (c.modStrand g).streams = c.streams := rfl
@[simp] theorem Ctx.modStrand_repN (c : Ctx) (g : Strand → Strand) : (c.modStrand g).repN = c.repN := rfl
@[simp] theorem Ctx.modStrand_repEnd (c : Ctx) (g : Strand → Strand) : (c.modStrand g).repEnd = c.repEnd := rfl
@[simp] theorem Ctx.modStrand_stuck (c : Ctx) (g : Strand → Strand) : (c.modStrand g).stuck = c.stuck := rfl
@[simp] theorem Ctx.modStrand_why (c : Ctx) (g : Strand → Strand) : (c.modStrand g).why = c.why := rfl
@[simp] theorem Ctx.modStrand_fpHold (c : Ctx) (g : Strand → Strand) : (c.modStrand g).fpHold = c.fpHold := rfl
@[simp] theorem Ctx.modStrand_hostOp (c : Ctx) (g : Strand → Strand) : (c.modStrand g).hostOp = c.hostOp := rfl
@[simp] theorem Ctx.modStrand_tlbHold (c : Ctx) (g : Strand → Strand) : (c.modStrand g).tlbHold = c.tlbHold := rfl
@[simp] theorem Ctx.modStrand_loaded (c : Ctx) (g : Strand → Strand) : (c.modStrand g).loaded = c.loaded := rfl
@[simp] theorem Ctx.modStrand_lone (c : Ctx) (g : Strand → Strand) : (c.modStrand g).lone = c.lone := rfl
@[simp] theorem Ctx.modStrand_resumed (c : Ctx) (g : Strand → Strand) : (c.modStrand g).resumed = c.resumed := rfl
@[simp] theorem Ctx.modStrand_bmHold (c : Ctx) (g : Strand → Strand) : (c.modStrand g).bmHold = c.bmHold := rfl
@[simp] theorem Ctx.modStrand_saving (c : Ctx) (g : Strand → Strand) : (c.modStrand g).saving = c.saving := rfl
@[simp] theorem Ctx.modStrand_noBreak (c : Ctx) (g : Strand → Strand) : (c.modStrand g).noBreak = c.noBreak := rfl
@[simp] theorem Ctx.modStrand_start (c : Ctx) (g : Strand → Strand) : (c.modStrand g).start = c.start := rfl
@[simp] theorem Ctx.modStrand_line (c : Ctx) (g : Strand → Strand) : (c.modStrand g).line = c.line := rfl
@[simp] theorem Ctx.modStrand_stepDue (c : Ctx) (g : Strand → Strand) : (c.modStrand g).stepDue = c.stepDue := rfl
@[simp] theorem Ctx.modStrand_since (c : Ctx) (g : Strand → Strand) : (c.modStrand g).since = c.since := rfl
@[simp] theorem Ctx.modStrand_strand (c : Ctx) (g : Strand → Strand) : (c.modStrand g).strand = c.strand.map g := rfl
@[simp] theorem Ctx.modStream_s (c : Ctx) (x : Fin 4) (g : Stream → Stream) : (c.modStream x g).s = c.s := rfl
@[simp] theorem Ctx.modStream_t (c : Ctx) (x : Fin 4) (g : Stream → Stream) : (c.modStream x g).t = c.t := rfl
@[simp] theorem Ctx.modStream_k (c : Ctx) (x : Fin 4) (g : Stream → Stream) : (c.modStream x g).k = c.k := rfl
@[simp] theorem Ctx.modStream_p (c : Ctx) (x : Fin 4) (g : Stream → Stream) : (c.modStream x g).p = c.p := rfl
@[simp] theorem Ctx.modStream_ma (c : Ctx) (x : Fin 4) (g : Stream → Stream) : (c.modStream x g).ma = c.ma := rfl
@[simp] theorem Ctx.modStream_u (c : Ctx) (x : Fin 4) (g : Stream → Stream) : (c.modStream x g).u = c.u := rfl
@[simp] theorem Ctx.modStream_sc (c : Ctx) (x : Fin 4) (g : Stream → Stream) : (c.modStream x g).sc = c.sc := rfl
@[simp] theorem Ctx.modStream_pc (c : Ctx) (x : Fin 4) (g : Stream → Stream) : (c.modStream x g).pc = c.pc := rfl
@[simp] theorem Ctx.modStream_npc (c : Ctx) (x : Fin 4) (g : Stream → Stream) : (c.modStream x g).npc = c.npc := rfl
@[simp] theorem Ctx.modStream_nnpc (c : Ctx) (x : Fin 4) (g : Stream → Stream) : (c.modStream x g).nnpc = c.nnpc := rfl
@[simp] theorem Ctx.modStream_annul (c : Ctx) (x : Fin 4) (g : Stream → Stream) : (c.modStream x g).annul = c.annul := rfl
@[simp] theorem Ctx.modStream_level (c : Ctx) (x : Fin 4) (g : Stream → Stream) : (c.modStream x g).level = c.level := rfl
@[simp] theorem Ctx.modStream_pend (c : Ctx) (x : Fin 4) (g : Stream → Stream) : (c.modStream x g).pend = c.pend := rfl
@[simp] theorem Ctx.modStream_snap (c : Ctx) (x : Fin 4) (g : Stream → Stream) : (c.modStream x g).snap = c.snap := rfl
@[simp] theorem Ctx.modStream_held (c : Ctx) (x : Fin 4) (g : Stream → Stream) : (c.modStream x g).held = c.held := rfl
@[simp] theorem Ctx.modStream_sTag (c : Ctx) (x : Fin 4) (g : Stream → Stream) : (c.modStream x g).sTag = c.sTag := rfl
@[simp] theorem Ctx.modStream_sMarks (c : Ctx) (x : Fin 4) (g : Stream → Stream) : (c.modStream x g).sMarks = c.sMarks := rfl
@[simp] theorem Ctx.modStream_saved (c : Ctx) (x : Fin 4) (g : Stream → Stream) : (c.modStream x g).saved = c.saved := rfl
@[simp] theorem Ctx.modStream_strand (c : Ctx) (x : Fin 4) (g : Stream → Stream) : (c.modStream x g).strand = c.strand := rfl
@[simp] theorem Ctx.modStream_repN (c : Ctx) (x : Fin 4) (g : Stream → Stream) : (c.modStream x g).repN = c.repN := rfl
@[simp] theorem Ctx.modStream_repEnd (c : Ctx) (x : Fin 4) (g : Stream → Stream) : (c.modStream x g).repEnd = c.repEnd := rfl
@[simp] theorem Ctx.modStream_stuck (c : Ctx) (x : Fin 4) (g : Stream → Stream) : (c.modStream x g).stuck = c.stuck := rfl
@[simp] theorem Ctx.modStream_why (c : Ctx) (x : Fin 4) (g : Stream → Stream) : (c.modStream x g).why = c.why := rfl
@[simp] theorem Ctx.modStream_fpHold (c : Ctx) (x : Fin 4) (g : Stream → Stream) : (c.modStream x g).fpHold = c.fpHold := rfl
@[simp] theorem Ctx.modStream_hostOp (c : Ctx) (x : Fin 4) (g : Stream → Stream) : (c.modStream x g).hostOp = c.hostOp := rfl
@[simp] theorem Ctx.modStream_tlbHold (c : Ctx) (x : Fin 4) (g : Stream → Stream) : (c.modStream x g).tlbHold = c.tlbHold := rfl
@[simp] theorem Ctx.modStream_loaded (c : Ctx) (x : Fin 4) (g : Stream → Stream) : (c.modStream x g).loaded = c.loaded := rfl
@[simp] theorem Ctx.modStream_lone (c : Ctx) (x : Fin 4) (g : Stream → Stream) : (c.modStream x g).lone = c.lone := rfl
@[simp] theorem Ctx.modStream_resumed (c : Ctx) (x : Fin 4) (g : Stream → Stream) : (c.modStream x g).resumed = c.resumed := rfl
@[simp] theorem Ctx.modStream_bmHold (c : Ctx) (x : Fin 4) (g : Stream → Stream) : (c.modStream x g).bmHold = c.bmHold := rfl
@[simp] theorem Ctx.modStream_saving (c : Ctx) (x : Fin 4) (g : Stream → Stream) : (c.modStream x g).saving = c.saving := rfl
@[simp] theorem Ctx.modStream_noBreak (c : Ctx) (x : Fin 4) (g : Stream → Stream) : (c.modStream x g).noBreak = c.noBreak := rfl
@[simp] theorem Ctx.modStream_start (c : Ctx) (x : Fin 4) (g : Stream → Stream) : (c.modStream x g).start = c.start := rfl
@[simp] theorem Ctx.modStream_line (c : Ctx) (x : Fin 4) (g : Stream → Stream) : (c.modStream x g).line = c.line := rfl
@[simp] theorem Ctx.modStream_stepDue (c : Ctx) (x : Fin 4) (g : Stream → Stream) : (c.modStream x g).stepDue = c.stepDue := rfl
@[simp] theorem Ctx.modStream_since (c : Ctx) (x : Fin 4) (g : Stream → Stream) : (c.modStream x g).since = c.since := rfl
@[simp] theorem Ctx.setRow_s (c : Ctx) (x : BitVec 4) (r : BitVec 6) (v : RowReg) : (c.setRow x r v).s = c.s := rfl
@[simp] theorem Ctx.setRow_k (c : Ctx) (x : BitVec 4) (r : BitVec 6) (v : RowReg) : (c.setRow x r v).k = c.k := rfl
@[simp] theorem Ctx.setRow_p (c : Ctx) (x : BitVec 4) (r : BitVec 6) (v : RowReg) : (c.setRow x r v).p = c.p := rfl
@[simp] theorem Ctx.setRow_ma (c : Ctx) (x : BitVec 4) (r : BitVec 6) (v : RowReg) : (c.setRow x r v).ma = c.ma := rfl
@[simp] theorem Ctx.setRow_u (c : Ctx) (x : BitVec 4) (r : BitVec 6) (v : RowReg) : (c.setRow x r v).u = c.u := rfl
@[simp] theorem Ctx.setRow_sc (c : Ctx) (x : BitVec 4) (r : BitVec 6) (v : RowReg) : (c.setRow x r v).sc = c.sc := rfl
@[simp] theorem Ctx.setRow_pc (c : Ctx) (x : BitVec 4) (r : BitVec 6) (v : RowReg) : (c.setRow x r v).pc = c.pc := rfl
@[simp] theorem Ctx.setRow_npc (c : Ctx) (x : BitVec 4) (r : BitVec 6) (v : RowReg) : (c.setRow x r v).npc = c.npc := rfl
@[simp] theorem Ctx.setRow_nnpc (c : Ctx) (x : BitVec 4) (r : BitVec 6) (v : RowReg) : (c.setRow x r v).nnpc = c.nnpc := rfl
@[simp] theorem Ctx.setRow_annul (c : Ctx) (x : BitVec 4) (r : BitVec 6) (v : RowReg) : (c.setRow x r v).annul = c.annul := rfl
@[simp] theorem Ctx.setRow_level (c : Ctx) (x : BitVec 4) (r : BitVec 6) (v : RowReg) : (c.setRow x r v).level = c.level := rfl
@[simp] theorem Ctx.setRow_pend (c : Ctx) (x : BitVec 4) (r : BitVec 6) (v : RowReg) : (c.setRow x r v).pend = c.pend := rfl
@[simp] theorem Ctx.setRow_snap (c : Ctx) (x : BitVec 4) (r : BitVec 6) (v : RowReg) : (c.setRow x r v).snap = c.snap := rfl
@[simp] theorem Ctx.setRow_held (c : Ctx) (x : BitVec 4) (r : BitVec 6) (v : RowReg) : (c.setRow x r v).held = c.held := rfl
@[simp] theorem Ctx.setRow_sTag (c : Ctx) (x : BitVec 4) (r : BitVec 6) (v : RowReg) : (c.setRow x r v).sTag = c.sTag := rfl
@[simp] theorem Ctx.setRow_sMarks (c : Ctx) (x : BitVec 4) (r : BitVec 6) (v : RowReg) : (c.setRow x r v).sMarks = c.sMarks := rfl
@[simp] theorem Ctx.setRow_saved (c : Ctx) (x : BitVec 4) (r : BitVec 6) (v : RowReg) : (c.setRow x r v).saved = c.saved := rfl
@[simp] theorem Ctx.setRow_strand (c : Ctx) (x : BitVec 4) (r : BitVec 6) (v : RowReg) : (c.setRow x r v).strand = c.strand := rfl
@[simp] theorem Ctx.setRow_streams (c : Ctx) (x : BitVec 4) (r : BitVec 6) (v : RowReg) : (c.setRow x r v).streams = c.streams := rfl
@[simp] theorem Ctx.setRow_repN (c : Ctx) (x : BitVec 4) (r : BitVec 6) (v : RowReg) : (c.setRow x r v).repN = c.repN := rfl
@[simp] theorem Ctx.setRow_repEnd (c : Ctx) (x : BitVec 4) (r : BitVec 6) (v : RowReg) : (c.setRow x r v).repEnd = c.repEnd := rfl
@[simp] theorem Ctx.setRow_stuck (c : Ctx) (x : BitVec 4) (r : BitVec 6) (v : RowReg) : (c.setRow x r v).stuck = c.stuck := rfl
@[simp] theorem Ctx.setRow_why (c : Ctx) (x : BitVec 4) (r : BitVec 6) (v : RowReg) : (c.setRow x r v).why = c.why := rfl
@[simp] theorem Ctx.setRow_fpHold (c : Ctx) (x : BitVec 4) (r : BitVec 6) (v : RowReg) : (c.setRow x r v).fpHold = c.fpHold := rfl
@[simp] theorem Ctx.setRow_hostOp (c : Ctx) (x : BitVec 4) (r : BitVec 6) (v : RowReg) : (c.setRow x r v).hostOp = c.hostOp := rfl
@[simp] theorem Ctx.setRow_tlbHold (c : Ctx) (x : BitVec 4) (r : BitVec 6) (v : RowReg) : (c.setRow x r v).tlbHold = c.tlbHold := rfl
@[simp] theorem Ctx.setRow_loaded (c : Ctx) (x : BitVec 4) (r : BitVec 6) (v : RowReg) : (c.setRow x r v).loaded = c.loaded := rfl
@[simp] theorem Ctx.setRow_lone (c : Ctx) (x : BitVec 4) (r : BitVec 6) (v : RowReg) : (c.setRow x r v).lone = c.lone := rfl
@[simp] theorem Ctx.setRow_resumed (c : Ctx) (x : BitVec 4) (r : BitVec 6) (v : RowReg) : (c.setRow x r v).resumed = c.resumed := rfl
@[simp] theorem Ctx.setRow_bmHold (c : Ctx) (x : BitVec 4) (r : BitVec 6) (v : RowReg) : (c.setRow x r v).bmHold = c.bmHold := rfl
@[simp] theorem Ctx.setRow_saving (c : Ctx) (x : BitVec 4) (r : BitVec 6) (v : RowReg) : (c.setRow x r v).saving = c.saving := rfl
@[simp] theorem Ctx.setRow_noBreak (c : Ctx) (x : BitVec 4) (r : BitVec 6) (v : RowReg) : (c.setRow x r v).noBreak = c.noBreak := rfl
@[simp] theorem Ctx.setRow_start (c : Ctx) (x : BitVec 4) (r : BitVec 6) (v : RowReg) : (c.setRow x r v).start = c.start := rfl
@[simp] theorem Ctx.setRow_line (c : Ctx) (x : BitVec 4) (r : BitVec 6) (v : RowReg) : (c.setRow x r v).line = c.line := rfl
@[simp] theorem Ctx.setRow_stepDue (c : Ctx) (x : BitVec 4) (r : BitVec 6) (v : RowReg) : (c.setRow x r v).stepDue = c.stepDue := rfl
@[simp] theorem Ctx.setRow_since (c : Ctx) (x : BitVec 4) (r : BitVec 6) (v : RowReg) : (c.setRow x r v).since = c.since := rfl
@[simp] theorem Ctx.setMa_s (c : Ctx) (m : BitVec 3) (v : Word) : (c.setMa m v).s = c.s := rfl
@[simp] theorem Ctx.setMa_t (c : Ctx) (m : BitVec 3) (v : Word) : (c.setMa m v).t = c.t := rfl
@[simp] theorem Ctx.setMa_k (c : Ctx) (m : BitVec 3) (v : Word) : (c.setMa m v).k = c.k := rfl
@[simp] theorem Ctx.setMa_p (c : Ctx) (m : BitVec 3) (v : Word) : (c.setMa m v).p = c.p := rfl
@[simp] theorem Ctx.setMa_u (c : Ctx) (m : BitVec 3) (v : Word) : (c.setMa m v).u = c.u := rfl
@[simp] theorem Ctx.setMa_sc (c : Ctx) (m : BitVec 3) (v : Word) : (c.setMa m v).sc = c.sc := rfl
@[simp] theorem Ctx.setMa_pc (c : Ctx) (m : BitVec 3) (v : Word) : (c.setMa m v).pc = c.pc := rfl
@[simp] theorem Ctx.setMa_npc (c : Ctx) (m : BitVec 3) (v : Word) : (c.setMa m v).npc = c.npc := rfl
@[simp] theorem Ctx.setMa_nnpc (c : Ctx) (m : BitVec 3) (v : Word) : (c.setMa m v).nnpc = c.nnpc := rfl
@[simp] theorem Ctx.setMa_annul (c : Ctx) (m : BitVec 3) (v : Word) : (c.setMa m v).annul = c.annul := rfl
@[simp] theorem Ctx.setMa_level (c : Ctx) (m : BitVec 3) (v : Word) : (c.setMa m v).level = c.level := rfl
@[simp] theorem Ctx.setMa_pend (c : Ctx) (m : BitVec 3) (v : Word) : (c.setMa m v).pend = c.pend := rfl
@[simp] theorem Ctx.setMa_snap (c : Ctx) (m : BitVec 3) (v : Word) : (c.setMa m v).snap = c.snap := rfl
@[simp] theorem Ctx.setMa_held (c : Ctx) (m : BitVec 3) (v : Word) : (c.setMa m v).held = c.held := rfl
@[simp] theorem Ctx.setMa_sTag (c : Ctx) (m : BitVec 3) (v : Word) : (c.setMa m v).sTag = c.sTag := rfl
@[simp] theorem Ctx.setMa_sMarks (c : Ctx) (m : BitVec 3) (v : Word) : (c.setMa m v).sMarks = c.sMarks := rfl
@[simp] theorem Ctx.setMa_saved (c : Ctx) (m : BitVec 3) (v : Word) : (c.setMa m v).saved = c.saved := rfl
@[simp] theorem Ctx.setMa_strand (c : Ctx) (m : BitVec 3) (v : Word) : (c.setMa m v).strand = c.strand := rfl
@[simp] theorem Ctx.setMa_streams (c : Ctx) (m : BitVec 3) (v : Word) : (c.setMa m v).streams = c.streams := rfl
@[simp] theorem Ctx.setMa_repN (c : Ctx) (m : BitVec 3) (v : Word) : (c.setMa m v).repN = c.repN := rfl
@[simp] theorem Ctx.setMa_repEnd (c : Ctx) (m : BitVec 3) (v : Word) : (c.setMa m v).repEnd = c.repEnd := rfl
@[simp] theorem Ctx.setMa_stuck (c : Ctx) (m : BitVec 3) (v : Word) : (c.setMa m v).stuck = c.stuck := rfl
@[simp] theorem Ctx.setMa_why (c : Ctx) (m : BitVec 3) (v : Word) : (c.setMa m v).why = c.why := rfl
@[simp] theorem Ctx.setMa_fpHold (c : Ctx) (m : BitVec 3) (v : Word) : (c.setMa m v).fpHold = c.fpHold := rfl
@[simp] theorem Ctx.setMa_hostOp (c : Ctx) (m : BitVec 3) (v : Word) : (c.setMa m v).hostOp = c.hostOp := rfl
@[simp] theorem Ctx.setMa_tlbHold (c : Ctx) (m : BitVec 3) (v : Word) : (c.setMa m v).tlbHold = c.tlbHold := rfl
@[simp] theorem Ctx.setMa_loaded (c : Ctx) (m : BitVec 3) (v : Word) : (c.setMa m v).loaded = c.loaded := rfl
@[simp] theorem Ctx.setMa_lone (c : Ctx) (m : BitVec 3) (v : Word) : (c.setMa m v).lone = c.lone := rfl
@[simp] theorem Ctx.setMa_resumed (c : Ctx) (m : BitVec 3) (v : Word) : (c.setMa m v).resumed = c.resumed := rfl
@[simp] theorem Ctx.setMa_bmHold (c : Ctx) (m : BitVec 3) (v : Word) : (c.setMa m v).bmHold = c.bmHold := rfl
@[simp] theorem Ctx.setMa_saving (c : Ctx) (m : BitVec 3) (v : Word) : (c.setMa m v).saving = c.saving := rfl
@[simp] theorem Ctx.setMa_noBreak (c : Ctx) (m : BitVec 3) (v : Word) : (c.setMa m v).noBreak = c.noBreak := rfl
@[simp] theorem Ctx.setMa_start (c : Ctx) (m : BitVec 3) (v : Word) : (c.setMa m v).start = c.start := rfl
@[simp] theorem Ctx.setMa_line (c : Ctx) (m : BitVec 3) (v : Word) : (c.setMa m v).line = c.line := rfl
@[simp] theorem Ctx.setMa_stepDue (c : Ctx) (m : BitVec 3) (v : Word) : (c.setMa m v).stepDue = c.stepDue := rfl
@[simp] theorem Ctx.setMa_since (c : Ctx) (m : BitVec 3) (v : Word) : (c.setMa m v).since = c.since := rfl
@[simp] theorem Ctx.setS_t (c : Ctx) (r : BitVec 5) (x : Scalar) : (c.setS r x).t = c.t := by unfold Ctx.setS; split <;> rfl
@[simp] theorem Ctx.setS_k (c : Ctx) (r : BitVec 5) (x : Scalar) : (c.setS r x).k = c.k := by unfold Ctx.setS; split <;> rfl
@[simp] theorem Ctx.setS_p (c : Ctx) (r : BitVec 5) (x : Scalar) : (c.setS r x).p = c.p := by unfold Ctx.setS; split <;> rfl
@[simp] theorem Ctx.setS_ma (c : Ctx) (r : BitVec 5) (x : Scalar) : (c.setS r x).ma = c.ma := by unfold Ctx.setS; split <;> rfl
@[simp] theorem Ctx.setS_u (c : Ctx) (r : BitVec 5) (x : Scalar) : (c.setS r x).u = c.u := by unfold Ctx.setS; split <;> rfl
@[simp] theorem Ctx.setS_sc (c : Ctx) (r : BitVec 5) (x : Scalar) : (c.setS r x).sc = c.sc := by unfold Ctx.setS; split <;> rfl
@[simp] theorem Ctx.setS_pc (c : Ctx) (r : BitVec 5) (x : Scalar) : (c.setS r x).pc = c.pc := by unfold Ctx.setS; split <;> rfl
@[simp] theorem Ctx.setS_npc (c : Ctx) (r : BitVec 5) (x : Scalar) : (c.setS r x).npc = c.npc := by unfold Ctx.setS; split <;> rfl
@[simp] theorem Ctx.setS_nnpc (c : Ctx) (r : BitVec 5) (x : Scalar) : (c.setS r x).nnpc = c.nnpc := by unfold Ctx.setS; split <;> rfl
@[simp] theorem Ctx.setS_annul (c : Ctx) (r : BitVec 5) (x : Scalar) : (c.setS r x).annul = c.annul := by unfold Ctx.setS; split <;> rfl
@[simp] theorem Ctx.setS_level (c : Ctx) (r : BitVec 5) (x : Scalar) : (c.setS r x).level = c.level := by unfold Ctx.setS; split <;> rfl
@[simp] theorem Ctx.setS_pend (c : Ctx) (r : BitVec 5) (x : Scalar) : (c.setS r x).pend = c.pend := by unfold Ctx.setS; split <;> rfl
@[simp] theorem Ctx.setS_snap (c : Ctx) (r : BitVec 5) (x : Scalar) : (c.setS r x).snap = c.snap := by unfold Ctx.setS; split <;> rfl
@[simp] theorem Ctx.setS_held (c : Ctx) (r : BitVec 5) (x : Scalar) : (c.setS r x).held = c.held := by unfold Ctx.setS; split <;> rfl
@[simp] theorem Ctx.setS_sTag (c : Ctx) (r : BitVec 5) (x : Scalar) : (c.setS r x).sTag = c.sTag := by unfold Ctx.setS; split <;> rfl
@[simp] theorem Ctx.setS_sMarks (c : Ctx) (r : BitVec 5) (x : Scalar) : (c.setS r x).sMarks = c.sMarks := by unfold Ctx.setS; split <;> rfl
@[simp] theorem Ctx.setS_saved (c : Ctx) (r : BitVec 5) (x : Scalar) : (c.setS r x).saved = c.saved := by unfold Ctx.setS; split <;> rfl
@[simp] theorem Ctx.setS_strand (c : Ctx) (r : BitVec 5) (x : Scalar) : (c.setS r x).strand = c.strand := by unfold Ctx.setS; split <;> rfl
@[simp] theorem Ctx.setS_streams (c : Ctx) (r : BitVec 5) (x : Scalar) : (c.setS r x).streams = c.streams := by unfold Ctx.setS; split <;> rfl
@[simp] theorem Ctx.setS_repN (c : Ctx) (r : BitVec 5) (x : Scalar) : (c.setS r x).repN = c.repN := by unfold Ctx.setS; split <;> rfl
@[simp] theorem Ctx.setS_repEnd (c : Ctx) (r : BitVec 5) (x : Scalar) : (c.setS r x).repEnd = c.repEnd := by unfold Ctx.setS; split <;> rfl
@[simp] theorem Ctx.setS_stuck (c : Ctx) (r : BitVec 5) (x : Scalar) : (c.setS r x).stuck = c.stuck := by unfold Ctx.setS; split <;> rfl
@[simp] theorem Ctx.setS_why (c : Ctx) (r : BitVec 5) (x : Scalar) : (c.setS r x).why = c.why := by unfold Ctx.setS; split <;> rfl
@[simp] theorem Ctx.setS_fpHold (c : Ctx) (r : BitVec 5) (x : Scalar) : (c.setS r x).fpHold = c.fpHold := by unfold Ctx.setS; split <;> rfl
@[simp] theorem Ctx.setS_hostOp (c : Ctx) (r : BitVec 5) (x : Scalar) : (c.setS r x).hostOp = c.hostOp := by unfold Ctx.setS; split <;> rfl
@[simp] theorem Ctx.setS_tlbHold (c : Ctx) (r : BitVec 5) (x : Scalar) : (c.setS r x).tlbHold = c.tlbHold := by unfold Ctx.setS; split <;> rfl
@[simp] theorem Ctx.setS_loaded (c : Ctx) (r : BitVec 5) (x : Scalar) : (c.setS r x).loaded = c.loaded := by unfold Ctx.setS; split <;> rfl
@[simp] theorem Ctx.setS_lone (c : Ctx) (r : BitVec 5) (x : Scalar) : (c.setS r x).lone = c.lone := by unfold Ctx.setS; split <;> rfl
@[simp] theorem Ctx.setS_resumed (c : Ctx) (r : BitVec 5) (x : Scalar) : (c.setS r x).resumed = c.resumed := by unfold Ctx.setS; split <;> rfl
@[simp] theorem Ctx.setS_bmHold (c : Ctx) (r : BitVec 5) (x : Scalar) : (c.setS r x).bmHold = c.bmHold := by unfold Ctx.setS; split <;> rfl
@[simp] theorem Ctx.setS_saving (c : Ctx) (r : BitVec 5) (x : Scalar) : (c.setS r x).saving = c.saving := by unfold Ctx.setS; split <;> rfl
@[simp] theorem Ctx.setS_noBreak (c : Ctx) (r : BitVec 5) (x : Scalar) : (c.setS r x).noBreak = c.noBreak := by unfold Ctx.setS; split <;> rfl
@[simp] theorem Ctx.setS_start (c : Ctx) (r : BitVec 5) (x : Scalar) : (c.setS r x).start = c.start := by unfold Ctx.setS; split <;> rfl
@[simp] theorem Ctx.setS_line (c : Ctx) (r : BitVec 5) (x : Scalar) : (c.setS r x).line = c.line := by unfold Ctx.setS; split <;> rfl
@[simp] theorem Ctx.setS_stepDue (c : Ctx) (r : BitVec 5) (x : Scalar) : (c.setS r x).stepDue = c.stepDue := by unfold Ctx.setS; split <;> rfl
@[simp] theorem Ctx.setS_since (c : Ctx) (r : BitVec 5) (x : Scalar) : (c.setS r x).since = c.since := by unfold Ctx.setS; split <;> rfl
@[simp] theorem Ctx.setK_s (c : Ctx) (r : BitVec 3) (x : Mask) : (c.setK r x).s = c.s := by unfold Ctx.setK; split <;> rfl
@[simp] theorem Ctx.setK_t (c : Ctx) (r : BitVec 3) (x : Mask) : (c.setK r x).t = c.t := by unfold Ctx.setK; split <;> rfl
@[simp] theorem Ctx.setK_p (c : Ctx) (r : BitVec 3) (x : Mask) : (c.setK r x).p = c.p := by unfold Ctx.setK; split <;> rfl
@[simp] theorem Ctx.setK_ma (c : Ctx) (r : BitVec 3) (x : Mask) : (c.setK r x).ma = c.ma := by unfold Ctx.setK; split <;> rfl
@[simp] theorem Ctx.setK_u (c : Ctx) (r : BitVec 3) (x : Mask) : (c.setK r x).u = c.u := by unfold Ctx.setK; split <;> rfl
@[simp] theorem Ctx.setK_sc (c : Ctx) (r : BitVec 3) (x : Mask) : (c.setK r x).sc = c.sc := by unfold Ctx.setK; split <;> rfl
@[simp] theorem Ctx.setK_pc (c : Ctx) (r : BitVec 3) (x : Mask) : (c.setK r x).pc = c.pc := by unfold Ctx.setK; split <;> rfl
@[simp] theorem Ctx.setK_npc (c : Ctx) (r : BitVec 3) (x : Mask) : (c.setK r x).npc = c.npc := by unfold Ctx.setK; split <;> rfl
@[simp] theorem Ctx.setK_nnpc (c : Ctx) (r : BitVec 3) (x : Mask) : (c.setK r x).nnpc = c.nnpc := by unfold Ctx.setK; split <;> rfl
@[simp] theorem Ctx.setK_annul (c : Ctx) (r : BitVec 3) (x : Mask) : (c.setK r x).annul = c.annul := by unfold Ctx.setK; split <;> rfl
@[simp] theorem Ctx.setK_level (c : Ctx) (r : BitVec 3) (x : Mask) : (c.setK r x).level = c.level := by unfold Ctx.setK; split <;> rfl
@[simp] theorem Ctx.setK_pend (c : Ctx) (r : BitVec 3) (x : Mask) : (c.setK r x).pend = c.pend := by unfold Ctx.setK; split <;> rfl
@[simp] theorem Ctx.setK_snap (c : Ctx) (r : BitVec 3) (x : Mask) : (c.setK r x).snap = c.snap := by unfold Ctx.setK; split <;> rfl
@[simp] theorem Ctx.setK_held (c : Ctx) (r : BitVec 3) (x : Mask) : (c.setK r x).held = c.held := by unfold Ctx.setK; split <;> rfl
@[simp] theorem Ctx.setK_sTag (c : Ctx) (r : BitVec 3) (x : Mask) : (c.setK r x).sTag = c.sTag := by unfold Ctx.setK; split <;> rfl
@[simp] theorem Ctx.setK_sMarks (c : Ctx) (r : BitVec 3) (x : Mask) : (c.setK r x).sMarks = c.sMarks := by unfold Ctx.setK; split <;> rfl
@[simp] theorem Ctx.setK_saved (c : Ctx) (r : BitVec 3) (x : Mask) : (c.setK r x).saved = c.saved := by unfold Ctx.setK; split <;> rfl
@[simp] theorem Ctx.setK_strand (c : Ctx) (r : BitVec 3) (x : Mask) : (c.setK r x).strand = c.strand := by unfold Ctx.setK; split <;> rfl
@[simp] theorem Ctx.setK_streams (c : Ctx) (r : BitVec 3) (x : Mask) : (c.setK r x).streams = c.streams := by unfold Ctx.setK; split <;> rfl
@[simp] theorem Ctx.setK_repN (c : Ctx) (r : BitVec 3) (x : Mask) : (c.setK r x).repN = c.repN := by unfold Ctx.setK; split <;> rfl
@[simp] theorem Ctx.setK_repEnd (c : Ctx) (r : BitVec 3) (x : Mask) : (c.setK r x).repEnd = c.repEnd := by unfold Ctx.setK; split <;> rfl
@[simp] theorem Ctx.setK_stuck (c : Ctx) (r : BitVec 3) (x : Mask) : (c.setK r x).stuck = c.stuck := by unfold Ctx.setK; split <;> rfl
@[simp] theorem Ctx.setK_why (c : Ctx) (r : BitVec 3) (x : Mask) : (c.setK r x).why = c.why := by unfold Ctx.setK; split <;> rfl
@[simp] theorem Ctx.setK_fpHold (c : Ctx) (r : BitVec 3) (x : Mask) : (c.setK r x).fpHold = c.fpHold := by unfold Ctx.setK; split <;> rfl
@[simp] theorem Ctx.setK_hostOp (c : Ctx) (r : BitVec 3) (x : Mask) : (c.setK r x).hostOp = c.hostOp := by unfold Ctx.setK; split <;> rfl
@[simp] theorem Ctx.setK_tlbHold (c : Ctx) (r : BitVec 3) (x : Mask) : (c.setK r x).tlbHold = c.tlbHold := by unfold Ctx.setK; split <;> rfl
@[simp] theorem Ctx.setK_loaded (c : Ctx) (r : BitVec 3) (x : Mask) : (c.setK r x).loaded = c.loaded := by unfold Ctx.setK; split <;> rfl
@[simp] theorem Ctx.setK_lone (c : Ctx) (r : BitVec 3) (x : Mask) : (c.setK r x).lone = c.lone := by unfold Ctx.setK; split <;> rfl
@[simp] theorem Ctx.setK_resumed (c : Ctx) (r : BitVec 3) (x : Mask) : (c.setK r x).resumed = c.resumed := by unfold Ctx.setK; split <;> rfl
@[simp] theorem Ctx.setK_bmHold (c : Ctx) (r : BitVec 3) (x : Mask) : (c.setK r x).bmHold = c.bmHold := by unfold Ctx.setK; split <;> rfl
@[simp] theorem Ctx.setK_saving (c : Ctx) (r : BitVec 3) (x : Mask) : (c.setK r x).saving = c.saving := by unfold Ctx.setK; split <;> rfl
@[simp] theorem Ctx.setK_noBreak (c : Ctx) (r : BitVec 3) (x : Mask) : (c.setK r x).noBreak = c.noBreak := by unfold Ctx.setK; split <;> rfl
@[simp] theorem Ctx.setK_start (c : Ctx) (r : BitVec 3) (x : Mask) : (c.setK r x).start = c.start := by unfold Ctx.setK; split <;> rfl
@[simp] theorem Ctx.setK_line (c : Ctx) (r : BitVec 3) (x : Mask) : (c.setK r x).line = c.line := by unfold Ctx.setK; split <;> rfl
@[simp] theorem Ctx.setK_stepDue (c : Ctx) (r : BitVec 3) (x : Mask) : (c.setK r x).stepDue = c.stepDue := by unfold Ctx.setK; split <;> rfl
@[simp] theorem Ctx.setK_since (c : Ctx) (r : BitVec 3) (x : Mask) : (c.setK r x).since = c.since := by unfold Ctx.setK; split <;> rfl
@[simp] theorem Ctx.setP_s (c : Ctx) (r : BitVec 3) (x : PermReg) : (c.setP r x).s = c.s := by unfold Ctx.setP; split <;> rfl
@[simp] theorem Ctx.setP_t (c : Ctx) (r : BitVec 3) (x : PermReg) : (c.setP r x).t = c.t := by unfold Ctx.setP; split <;> rfl
@[simp] theorem Ctx.setP_k (c : Ctx) (r : BitVec 3) (x : PermReg) : (c.setP r x).k = c.k := by unfold Ctx.setP; split <;> rfl
@[simp] theorem Ctx.setP_ma (c : Ctx) (r : BitVec 3) (x : PermReg) : (c.setP r x).ma = c.ma := by unfold Ctx.setP; split <;> rfl
@[simp] theorem Ctx.setP_u (c : Ctx) (r : BitVec 3) (x : PermReg) : (c.setP r x).u = c.u := by unfold Ctx.setP; split <;> rfl
@[simp] theorem Ctx.setP_sc (c : Ctx) (r : BitVec 3) (x : PermReg) : (c.setP r x).sc = c.sc := by unfold Ctx.setP; split <;> rfl
@[simp] theorem Ctx.setP_pc (c : Ctx) (r : BitVec 3) (x : PermReg) : (c.setP r x).pc = c.pc := by unfold Ctx.setP; split <;> rfl
@[simp] theorem Ctx.setP_npc (c : Ctx) (r : BitVec 3) (x : PermReg) : (c.setP r x).npc = c.npc := by unfold Ctx.setP; split <;> rfl
@[simp] theorem Ctx.setP_nnpc (c : Ctx) (r : BitVec 3) (x : PermReg) : (c.setP r x).nnpc = c.nnpc := by unfold Ctx.setP; split <;> rfl
@[simp] theorem Ctx.setP_annul (c : Ctx) (r : BitVec 3) (x : PermReg) : (c.setP r x).annul = c.annul := by unfold Ctx.setP; split <;> rfl
@[simp] theorem Ctx.setP_level (c : Ctx) (r : BitVec 3) (x : PermReg) : (c.setP r x).level = c.level := by unfold Ctx.setP; split <;> rfl
@[simp] theorem Ctx.setP_pend (c : Ctx) (r : BitVec 3) (x : PermReg) : (c.setP r x).pend = c.pend := by unfold Ctx.setP; split <;> rfl
@[simp] theorem Ctx.setP_snap (c : Ctx) (r : BitVec 3) (x : PermReg) : (c.setP r x).snap = c.snap := by unfold Ctx.setP; split <;> rfl
@[simp] theorem Ctx.setP_held (c : Ctx) (r : BitVec 3) (x : PermReg) : (c.setP r x).held = c.held := by unfold Ctx.setP; split <;> rfl
@[simp] theorem Ctx.setP_sTag (c : Ctx) (r : BitVec 3) (x : PermReg) : (c.setP r x).sTag = c.sTag := by unfold Ctx.setP; split <;> rfl
@[simp] theorem Ctx.setP_sMarks (c : Ctx) (r : BitVec 3) (x : PermReg) : (c.setP r x).sMarks = c.sMarks := by unfold Ctx.setP; split <;> rfl
@[simp] theorem Ctx.setP_saved (c : Ctx) (r : BitVec 3) (x : PermReg) : (c.setP r x).saved = c.saved := by unfold Ctx.setP; split <;> rfl
@[simp] theorem Ctx.setP_strand (c : Ctx) (r : BitVec 3) (x : PermReg) : (c.setP r x).strand = c.strand := by unfold Ctx.setP; split <;> rfl
@[simp] theorem Ctx.setP_streams (c : Ctx) (r : BitVec 3) (x : PermReg) : (c.setP r x).streams = c.streams := by unfold Ctx.setP; split <;> rfl
@[simp] theorem Ctx.setP_repN (c : Ctx) (r : BitVec 3) (x : PermReg) : (c.setP r x).repN = c.repN := by unfold Ctx.setP; split <;> rfl
@[simp] theorem Ctx.setP_repEnd (c : Ctx) (r : BitVec 3) (x : PermReg) : (c.setP r x).repEnd = c.repEnd := by unfold Ctx.setP; split <;> rfl
@[simp] theorem Ctx.setP_stuck (c : Ctx) (r : BitVec 3) (x : PermReg) : (c.setP r x).stuck = c.stuck := by unfold Ctx.setP; split <;> rfl
@[simp] theorem Ctx.setP_why (c : Ctx) (r : BitVec 3) (x : PermReg) : (c.setP r x).why = c.why := by unfold Ctx.setP; split <;> rfl
@[simp] theorem Ctx.setP_fpHold (c : Ctx) (r : BitVec 3) (x : PermReg) : (c.setP r x).fpHold = c.fpHold := by unfold Ctx.setP; split <;> rfl
@[simp] theorem Ctx.setP_hostOp (c : Ctx) (r : BitVec 3) (x : PermReg) : (c.setP r x).hostOp = c.hostOp := by unfold Ctx.setP; split <;> rfl
@[simp] theorem Ctx.setP_tlbHold (c : Ctx) (r : BitVec 3) (x : PermReg) : (c.setP r x).tlbHold = c.tlbHold := by unfold Ctx.setP; split <;> rfl
@[simp] theorem Ctx.setP_loaded (c : Ctx) (r : BitVec 3) (x : PermReg) : (c.setP r x).loaded = c.loaded := by unfold Ctx.setP; split <;> rfl
@[simp] theorem Ctx.setP_lone (c : Ctx) (r : BitVec 3) (x : PermReg) : (c.setP r x).lone = c.lone := by unfold Ctx.setP; split <;> rfl
@[simp] theorem Ctx.setP_resumed (c : Ctx) (r : BitVec 3) (x : PermReg) : (c.setP r x).resumed = c.resumed := by unfold Ctx.setP; split <;> rfl
@[simp] theorem Ctx.setP_bmHold (c : Ctx) (r : BitVec 3) (x : PermReg) : (c.setP r x).bmHold = c.bmHold := by unfold Ctx.setP; split <;> rfl
@[simp] theorem Ctx.setP_saving (c : Ctx) (r : BitVec 3) (x : PermReg) : (c.setP r x).saving = c.saving := by unfold Ctx.setP; split <;> rfl
@[simp] theorem Ctx.setP_noBreak (c : Ctx) (r : BitVec 3) (x : PermReg) : (c.setP r x).noBreak = c.noBreak := by unfold Ctx.setP; split <;> rfl
@[simp] theorem Ctx.setP_start (c : Ctx) (r : BitVec 3) (x : PermReg) : (c.setP r x).start = c.start := by unfold Ctx.setP; split <;> rfl
@[simp] theorem Ctx.setP_line (c : Ctx) (r : BitVec 3) (x : PermReg) : (c.setP r x).line = c.line := by unfold Ctx.setP; split <;> rfl
@[simp] theorem Ctx.setP_stepDue (c : Ctx) (r : BitVec 3) (x : PermReg) : (c.setP r x).stepDue = c.stepDue := by unfold Ctx.setP; split <;> rfl
@[simp] theorem Ctx.setP_since (c : Ctx) (r : BitVec 3) (x : PermReg) : (c.setP r x).since = c.since := by unfold Ctx.setP; split <;> rfl

end Sys2Proof.Machine
end

