-- ==== Sys2Proof/Laws/Memory.lean ====
section
/-! SUPPORT. Memory: what a byte reads as after a write, and that every operation that writes memory keeps its canonical
form. -/

namespace Sys2Proof.Machine

/-! ## One byte -/

theorem Mem.wfFrom_mono {lo lo' : Nat} {m : Mem} (h : m.wfFrom lo = true) (hl : lo' ≤ lo) : m.wfFrom lo' = true := by
  cases m with
  | nil => rfl
  | cons c t =>
    obtain ⟨a, b⟩ := c
    simp only [Mem.wfFrom, Bool.and_eq_true, decide_eq_true_eq] at h ⊢
    exact ⟨⟨by omega, h.1.2⟩, h.2⟩

theorem Mem.get_below {m : Mem} : ∀ {lo k : Nat}, m.wfFrom lo = true → k < lo → m.get k = 0 := by
  intro lo k h hk
  cases m with
  | nil => rfl
  | cons c t =>
    obtain ⟨a, b⟩ := c
    simp [Mem.wfFrom] at h
    have : a ≠ k := by omega
    simp [Mem.get, this]; omega

theorem Mem.put_wfFrom {m : Mem} {v : Byte} : ∀ {lo k : Nat}, m.wfFrom lo = true → lo ≤ k → (m.put k v).wfFrom lo = true := by
  induction m with
  | nil =>
    intro lo k _ hk
    simp only [Mem.put]
    split
    · rfl
    · rename_i hv; simp [Mem.wfFrom, hk, show ¬ v = 0#8 from hv]
  | cons c t ih =>
    obtain ⟨a, b⟩ := c
    intro lo k h hk
    simp only [Mem.wfFrom, Bool.and_eq_true, decide_eq_true_eq] at h
    obtain ⟨⟨ha, hb⟩, ht⟩ := h
    have hb' : ¬ b = 0#8 := hb
    simp only [Mem.put]
    split
    · rename_i hak
      have := ih (k := k) ht (by omega)
      simp [Mem.wfFrom, ha, hb', this]
    · split
      · subst a
        split
        · exact Mem.wfFrom_mono ht (by omega)
        · rename_i hv; simp [Mem.wfFrom, ha, ht, show ¬ v = 0#8 from hv]
      · split
        · simp [Mem.wfFrom, ha, hb', ht]
        · rename_i h1 h2 hv
          simp only [Mem.wfFrom, Bool.and_eq_true, decide_eq_true_eq]
          exact ⟨⟨hk, hv⟩, ⟨by omega, hb⟩, ht⟩

/-- Writing a byte keeps the canonical form. -/
theorem Mem.put_wf {m : Mem} (k : Nat) (v : Byte) (h : Memory.wf m = true) : Memory.wf (m.put k v) = true :=
  Mem.put_wfFrom h (Nat.zero_le k)

theorem Mem.get_put_from {m : Mem} {k : Nat} {v : Byte} :
    ∀ {lo : Nat}, m.wfFrom lo = true → (m.put k v).get k = v := by
  induction m with
  | nil =>
    intro lo _
    simp only [Mem.put]
    split
    · rename_i hv; simp [Mem.get, hv]
    · simp [Mem.get]
  | cons c t ih =>
    obtain ⟨a, b⟩ := c
    intro lo h
    simp only [Mem.wfFrom, Bool.and_eq_true, decide_eq_true_eq] at h
    obtain ⟨⟨ha, hb⟩, ht⟩ := h
    simp only [Mem.put]
    split
    · rename_i hak
      have h1 : a ≠ k := by omega
      have h2 : ¬ k < a := by omega
      simp [Mem.get, h1, h2, ih ht]
    · split
      · subst a
        split
        · rename_i hv; rw [hv]; exact Mem.get_below ht (by omega)
        · simp [Mem.get]
      · split
        · rename_i h1 h2 hv
          have h3 : k < a := by omega
          simp [Mem.get, h2, h3, hv]
        · simp [Mem.get]

/-- A byte that has been written reads as what was written. -/
theorem Mem.get_put {m : Mem} (k : Nat) (v : Byte) (h : Memory.wf m = true) : (m.put k v).get k = v := Mem.get_put_from h

theorem Mem.get_put_ne_from {m : Mem} {k j : Nat} {v : Byte} (hj : j ≠ k) :
    ∀ {lo : Nat}, m.wfFrom lo = true → (m.put k v).get j = m.get j := by
  induction m with
  | nil =>
    intro lo _
    simp only [Mem.put]
    split
    · rfl
    · simp [Mem.get, Ne.symm hj]
  | cons c t ih =>
    obtain ⟨a, b⟩ := c
    intro lo h
    simp only [Mem.wfFrom, Bool.and_eq_true, decide_eq_true_eq] at h
    obtain ⟨⟨ha, hb⟩, ht⟩ := h
    simp only [Mem.put]
    split
    · simp [Mem.get, ih ht]
    · split
      · subst a
        split
        · have : ¬ (k = j) := Ne.symm hj
          simp only [Mem.get, this, if_false]
          split
          · exact Mem.get_below ht (by omega)
          · rfl
        · simp [Mem.get, Ne.symm hj]
      · split
        · rfl
        · simp only [Mem.get, Ne.symm hj, if_false]
          split
          · split <;> first | omega | rfl | (split <;> first | omega | rfl)
          · rfl

/-- Every other byte reads as before. -/
theorem Mem.get_put_ne {m : Mem} (k j : Nat) (v : Byte) (hj : j ≠ k) (h : Memory.wf m = true) : (m.put k v).get j = m.get j :=
  Mem.get_put_ne_from hj h

/-! ## Many bytes -/

/-- Writing bytes keeps the canonical form. -/
theorem Mem.write_wf {bs : List Byte} : ∀ {m : Mem} (k : Nat), Memory.wf m = true → Memory.wf (m.write k bs) = true := by
  induction bs with
  | nil => intro m k h; exact h
  | cons b t ih => intro m k h; exact ih (k + 1) (Mem.put_wf k b h)

/-- A byte outside the range written reads as before. -/
theorem Mem.get_write_out {bs : List Byte} : ∀ {m : Mem} (k j : Nat), Memory.wf m = true → (j < k ∨ k + bs.length ≤ j) →
    (m.write k bs).get j = m.get j := by
  induction bs with
  | nil => intros; rfl
  | cons b t ih =>
    intro m k j h hj
    simp only [List.length_cons] at hj
    simp only [Mem.write]
    rw [ih (k + 1) j (Mem.put_wf k b h) (by omega), Mem.get_put_ne k j b (by omega) h]

/-- A byte inside the range written reads as the byte of that place. -/
theorem Mem.get_write_in {bs : List Byte} : ∀ {m : Mem} (k i : Nat), Memory.wf m = true → (hi : i < bs.length) →
    (m.write k bs).get (k + i) = bs[i] := by
  induction bs with
  | nil => intro m k i _ hi; simp at hi
  | cons b t ih =>
    intro m k i h hi
    simp only [Mem.write]
    cases i with
    | zero =>
      rw [Mem.get_write_out (k + 1) (k + 0) (Mem.put_wf k b h) (by omega)]
      simpa using Mem.get_put k b h
    | succ n =>
      have := ih (m := m.put k b) (k + 1) n (Mem.put_wf k b h) (by simpa using hi)
      simpa [Nat.add_assoc, Nat.add_comm 1 n] using this

theorem Mem.read_length (m : Mem) (n : Nat) : ∀ k, (m.read k n).length = n := by
  induction n with
  | zero => intro k; rfl
  | succ n ih => intro k; simp [Mem.read, ih]

/-- What has been written reads back. -/
theorem Mem.read_write {m : Mem} (k : Nat) (bs : List Byte) (h : Memory.wf m = true) : (m.write k bs).read k bs.length = bs := by
  have key : ∀ (n : Nat) (m' : Mem) (k' : Nat) (l : List Byte), l.length = n →
      (∀ i (hi : i < l.length), m'.get (k' + i) = l[i]) → m'.read k' n = l := by
    intro n
    induction n with
    | zero => intro m' k' l hl _; simp [Mem.read, List.length_eq_zero_iff.mp hl]
    | succ n ih =>
      intro m' k' l hl hg
      cases l with
      | nil => simp at hl
      | cons x t =>
        simp only [Mem.read]
        have h0 := hg 0 (by simp)
        simp at h0
        rw [h0, ih m' (k' + 1) t (by simpa using hl)]
        intro i hi
        have := hg (i + 1) (by simpa using hi)
        simpa [Nat.add_assoc, Nat.add_comm 1 i] using this
  exact key bs.length _ k bs rfl (fun i hi => Mem.get_write_in k i h hi)

/-- Leaving cells out keeps the canonical form. -/
theorem Mem.filter_wfFrom {m : Mem} {p : Host.Cell → Bool} : ∀ {lo : Nat}, m.wfFrom lo = true → Mem.wfFrom lo (m.filter p) = true := by
  induction m with
  | nil => intros; rfl
  | cons c t ih =>
    obtain ⟨a, b⟩ := c
    intro lo h
    simp only [Mem.wfFrom, Bool.and_eq_true, decide_eq_true_eq] at h
    obtain ⟨⟨ha, hb⟩, ht⟩ := h
    simp only [List.filter_cons]
    split
    · simp [Mem.wfFrom, ha, show ¬ b = 0#8 from hb, ih ht]
    · exact Mem.wfFrom_mono (ih ht) (by omega)

theorem Mem.filter_wf {m : Mem} (p : Host.Cell → Bool) (h : Memory.wf m = true) : Memory.wf (m.filter p) = true := Mem.filter_wfFrom h

/-! ## Writes of a state -/

theorem State.putLine_wf {s : State} (key : BitVec 8) (l : Nat) (f : List Byte → List Byte) (h : Memory.wf s.mem = true) :
    Memory.wf (s.putLine key l f).mem = true := by
  simp only [State.putLine]
  exact Mem.write_wf _ h

/-- A fold of steps that each keep the canonical form keeps it. -/
theorem State.foldl_wf {α : Type} {f : State → α → State} (hf : ∀ s x, Memory.wf s.mem = true → Memory.wf (f s x).mem = true) :
    ∀ (l : List α) {s : State}, Memory.wf s.mem = true → Memory.wf (l.foldl f s).mem = true := by
  intro l
  induction l with
  | nil => intro s h; exact h
  | cons x t ih => intro s h; exact ih (hf s x h)

theorem State.pokeAt_wf {s : State} (p : Phys) (bs : List Byte) (h : Memory.wf s.mem = true) :
    Memory.wf (s.pokeAt p bs).mem = true := by
  unfold State.pokeAt
  split
  · refine State.foldl_wf (fun s x hs => ?_) _ h
    by_cases hx : 64 * x < p.key0
    · simp only [hx, if_true]; exact State.putLine_wf _ _ _ hs
    · simp only [hx, if_false]; exact State.putLine_wf _ _ _ hs
  · exact Mem.write_wf _ h

theorem State.fillShadow_wf {s : State} (p : Phys) (h : Memory.wf s.mem = true) : Memory.wf (s.fillShadow p).mem = true := by
  unfold State.fillShadow
  split
  · exact Mem.write_wf _ h
  · exact h

theorem State.shadowAfter_wf {s : State} (p : Phys) (n : Nat) (h : Memory.wf s.mem = true) :
    Memory.wf (s.shadowAfter p n).mem = true := by
  unfold State.shadowAfter
  split
  · refine State.foldl_wf (fun s x hs => ?_) _ h
    split
    · exact State.fillShadow_wf _ hs
    · exact hs
  · exact h

@[simp] theorem State.dirtyAfter_mem (s : State) (p : Phys) (n : Nat) : (s.dirtyAfter p n).mem = s.mem := by
  unfold State.dirtyAfter; split
  · rfl
  · split <;> rfl

@[simp] theorem State.recheck_mem (s : State) (p : Phys) (n : Nat) : (s.recheck p n).mem = s.mem := rfl

@[simp] theorem State.soon_mem (s : State) (i : Instr) (e : EvArgs) : (s.soon i e).mem = s.mem := rfl

@[simp] theorem State.injectAfter_mem (s : State) (p : Phys) (n : Nat) : (s.injectAfter p n).mem = s.mem := by
  unfold State.injectAfter State.injectIn; dsimp only; split <;> rfl

/-- A fold of steps that each leave memory leaves it. -/
theorem State.foldl_mem {α : Type} {f : State → α → State} (hf : ∀ s x, (f s x).mem = s.mem) :
    ∀ (l : List α) (s : State), (l.foldl f s).mem = s.mem := by
  intro l
  induction l with
  | nil => intro s; rfl
  | cons x t ih => intro s; rw [List.foldl_cons, ih, hf]

theorem State.clearPoison_fold_mem (l : List Nat) (s : State) : (l.foldl State.clearPoison s).mem = s.mem :=
  State.foldl_mem (f := State.clearPoison) (fun _ _ => rfl) l s

theorem State.setPoison_fold_mem (l : List Nat) (s : State) : (l.foldl State.setPoison s).mem = s.mem :=
  State.foldl_mem (f := State.setPoison) (fun _ _ => rfl) l s

@[simp] theorem State.putPool_mem (s : State) (key : BitVec 8) (d : Bool) (l : Nat) (w : Bool) (f : List Byte → List Byte) :
    (s.putPool key d l w f).mem = s.mem := by
  show State.mem { s with pkg := _ } = _
  rfl

/-- A write through C = 1 pooled lines leaves memory as it is (R94). -/
@[simp] theorem State.pokePool_mem (s : State) (p : Phys) (bs : List Byte) : (s.pokePool p bs).mem = s.mem := by
  unfold State.pokePool
  refine State.foldl_mem (fun s l => ?_) _ s
  by_cases hx : 64 * l < p.key0
  · simp only [hx, if_true, State.putPool_mem]
  · simp only [hx, if_false, State.putPool_mem]

theorem State.putAt_wf {s : State} (p : Phys) (bs : List Byte) (h : Memory.wf s.mem = true) : Memory.wf (s.putAt p bs).mem = true := by
  unfold State.putAt
  split
  · rw [State.pokePool_mem]; exact h
  · rw [State.clearPoison_fold_mem]; exact State.pokeAt_wf _ _ h

@[simp] theorem State.poisonLines_mem (s : State) (p : Phys) (n : Nat) : (s.poisonLines p n).mem = s.mem := by
  unfold State.poisonLines
  split
  · rfl
  · exact State.setPoison_fold_mem _ _

/-- A write-back of a pooled line keeps the canonical form. -/
theorem State.writeBack_wf {s : State} (x : CLine) (h : Memory.wf s.mem = true) : Memory.wf (s.writeBack x).mem = true := by
  unfold State.writeBack
  dsimp only
  split <;> exact State.shadowAfter_wf _ _ (State.pokeAt_wf _ _ h)

theorem State.writeBackAll_wf {s : State} (f : CLine → Bool) (h : Memory.wf s.mem = true) : Memory.wf (s.writeBackAll f).mem = true :=
  State.foldl_wf (fun _ _ hs => State.writeBack_wf _ hs) _ h

theorem State.recallLines_wf {s : State} (p : Phys) (n : Nat) (h : Memory.wf s.mem = true) : Memory.wf (s.recallLines p n).mem = true := by
  unfold State.recallLines
  split
  · exact State.writeBackAll_wf _ h
  · exact h

theorem State.shadowWrite_wf {s : State} (p : Phys) (n : Nat) (h : Memory.wf s.mem = true) : Memory.wf (s.shadowWrite p n).mem = true := by
  unfold State.shadowWrite
  split
  · exact h
  · exact State.shadowAfter_wf _ _ h

/-- A write performed at its home keeps the canonical form. -/
theorem State.writeAt_wf {s : State} (p : Phys) (bs : List Byte) (h : Memory.wf s.mem = true) :
    Memory.wf (s.writeAt p bs).mem = true := by
  unfold State.writeAt
  simp only [State.injectAfter_mem, State.recheck_mem, State.dirtyAfter_mem]
  exact State.shadowWrite_wf _ _ (State.putAt_wf _ _ h)

/-- So does a write of poisoned data. -/
theorem State.writePoisonAt_wf {s : State} (p : Phys) (bs : List Byte) (h : Memory.wf s.mem = true) :
    Memory.wf (s.writePoisonAt p bs).mem = true := by
  unfold State.writePoisonAt
  simp only [State.injectAfter_mem, State.poisonLines_mem, State.recheck_mem, State.dirtyAfter_mem]
  exact State.shadowWrite_wf _ _ (State.putAt_wf _ _ h)

end Sys2Proof.Machine
end

