-- ==== Sys2Proof/Laws/Registers.lean ====
section
/-! SUPPORT. The register files: what each register reads as after one of them is set; what a landing result leaves alone. -/

namespace Sys2Proof.Machine

/-! ## Vectors -/

theorem vget_set {α : Type} {n : Nat} (v : Vector α n) (i j : Fin n) (x : α) :
    (v.set i.val x i.isLt).get j = if i = j then x else v.get j := by
  have h1 : ∀ (w : Vector α n) (k : Fin n), w.get k = w[k.val] := fun w k => rfl
  rw [h1, h1]
  by_cases h : i = j
  · subst h; simp
  · rw [Vector.getElem_set_ne _ _ (by intro h'; exact h (Fin.ext h'))]; simp [h]

/-! ## Scalars -/

theorem Ctx.sv_setS (c : Ctx) (r r' : BitVec 5) (x : Scalar) :
    (c.setS r x).sv r' = if r ≠ 0 ∧ r = r' then x.v else c.sv r' := by
  unfold Ctx.setS
  by_cases h0 : r = 0
  · simp [h0]
  · rw [if_neg h0]
    by_cases h1 : r' = 0
    · subst h1; simp [Ctx.sv]
    · simp only [Ctx.sv, if_neg h1]
      rw [show c.s.set r.toNat x r.isLt = c.s.set r.toFin.val x r.toFin.isLt from rfl, vget_set c.s r.toFin r'.toFin x]
      by_cases he : r = r'
      · subst he; rw [if_pos rfl, if_pos ⟨h0, rfl⟩]
      · have : ¬ r.toFin = r'.toFin := fun h => he (BitVec.eq_of_toFin_eq h)
        simp [he, this]

theorem Ctx.sst_setS (c : Ctx) (r r' : BitVec 5) (x : Scalar) :
    (c.setS r x).sst r' = if r ≠ 0 ∧ r = r' then x.st else c.sst r' := by
  unfold Ctx.setS
  by_cases h0 : r = 0
  · simp [h0]
  · rw [if_neg h0]
    by_cases h1 : r' = 0
    · subst h1; simp [Ctx.sst]
    · simp only [Ctx.sst, if_neg h1]
      rw [show c.s.set r.toNat x r.isLt = c.s.set r.toFin.val x r.toFin.isLt from rfl, vget_set c.s r.toFin r'.toFin x]
      by_cases he : r = r'
      · subst he; rw [if_pos rfl, if_pos ⟨h0, rfl⟩]
      · have : ¬ r.toFin = r'.toFin := fun h => he (BitVec.eq_of_toFin_eq h)
        simp [he, this]

/-- Two contexts with one scalar file read alike. -/
theorem Ctx.sv_congr {c c' : Ctx} (h : c'.s = c.s) (r : BitVec 5) : c'.sv r = c.sv r := by simp [Ctx.sv, h]

theorem Ctx.sst_congr {c c' : Ctx} (h : c'.s = c.s) (r : BitVec 5) : c'.sst r = c.sst r := by simp [Ctx.sst, h]

theorem Ctx.kv_congr {c c' : Ctx} (h : c'.k = c.k) (r : BitVec 3) : c'.kv r = c.kv r := by simp [Ctx.kv, h]

theorem Ctx.pv_congr {c c' : Ctx} (h : c'.p = c.p) (r : BitVec 3) : c'.pv r = c.pv r := by simp only [Ctx.pv, h]

/-! ## Masks, permutations, matrix arguments -/

theorem Ctx.kv_setK (c : Ctx) (r r' : BitVec 3) (x : Mask) :
    (c.setK r x).kv r' = if r ≠ 0 ∧ r = r' then x else c.kv r' := by
  unfold Ctx.setK
  by_cases h0 : r = 0
  · simp [h0]
  · rw [if_neg h0]
    by_cases h1 : r' = 0
    · subst h1; simp [Ctx.kv]
    · simp only [Ctx.kv, if_neg h1]
      rw [show c.k.set r.toNat x r.isLt = c.k.set r.toFin.val x r.toFin.isLt from rfl, vget_set c.k r.toFin r'.toFin x]
      by_cases he : r = r'
      · subst he; rw [if_pos rfl, if_pos ⟨h0, rfl⟩]
      · have : ¬ r.toFin = r'.toFin := fun h => he (BitVec.eq_of_toFin_eq h)
        simp [he, this]

theorem Ctx.pv_setP (c : Ctx) (r r' : BitVec 3) (x : PermReg) :
    (c.setP r x).pv r' = if r ≠ 0 ∧ r = r' then x else c.pv r' := by
  unfold Ctx.setP
  by_cases h0 : r = 0
  · simp [h0]
  · rw [if_neg h0]
    by_cases h1 : r' = 0
    · subst h1; simp [Ctx.pv]
    · simp only [Ctx.pv, if_neg h1]
      rw [show c.p.set r.toNat x r.isLt = c.p.set r.toFin.val x r.toFin.isLt from rfl, vget_set c.p r.toFin r'.toFin x]
      by_cases he : r = r'
      · subst he; rw [if_pos rfl, if_pos ⟨h0, rfl⟩]
      · have : ¬ r.toFin = r'.toFin := fun h => he (BitVec.eq_of_toFin_eq h)
        simp [he, this]

theorem Ctx.mav_setMa (c : Ctx) (r r' : BitVec 3) (x : Word) :
    (c.setMa r x).mav r' = if r = r' then x else c.mav r' := by
  unfold Ctx.setMa
  simp only [Ctx.mav]
  rw [show c.ma.set r.toNat x r.isLt = c.ma.set r.toFin.val x r.toFin.isLt from rfl, vget_set c.ma r.toFin r'.toFin x]
  by_cases he : r = r'
  · simp [he]
  · have : ¬ r.toFin = r'.toFin := fun h => he (BitVec.eq_of_toFin_eq h)
    simp [he, this]

/-! ## Tiles and rows -/

theorem Ctx.tile_modTile (c : Ctx) (t t' : BitVec 4) (f : Tile → Tile) :
    (c.modTile t f).tile t' = if t = t' then f (c.tile t) else c.tile t' := by
  unfold Ctx.modTile
  simp only [Ctx.tile]
  rw [show c.t.set t.toNat (f (c.t.get t.toFin)) t.isLt = c.t.set t.toFin.val (f (c.t.get t.toFin)) t.toFin.isLt from rfl,
    vget_set c.t t.toFin t'.toFin]
  by_cases he : t = t'
  · simp [he]
  · have : ¬ t.toFin = t'.toFin := fun h => he (BitVec.eq_of_toFin_eq h)
    simp [he, this]

theorem Ctx.rowReg_setRow (c : Ctx) (t t' : BitVec 4) (r r' : BitVec 6) (x : RowReg) :
    (c.setRow t r x).rowReg t' r' = if t = t' ∧ r = r' then x else c.rowReg t' r' := by
  unfold Ctx.setRow Ctx.rowReg
  rw [Ctx.tile_modTile]
  by_cases ht : t = t'
  · subst ht
    simp only [if_true, true_and]
    rw [show (c.tile t).rows.set r.toNat x r.isLt = (c.tile t).rows.set r.toFin.val x r.toFin.isLt from rfl,
      vget_set (c.tile t).rows r.toFin r'.toFin]
    by_cases he : r = r'
    · simp [he]
    · have : ¬ r.toFin = r'.toFin := fun h => he (BitVec.eq_of_toFin_eq h)
      simp [he, this]
  · simp [ht]

/-! ## What the updates of a register file leave -/

theorem Ctx.sv_setRow (c : Ctx) (t : BitVec 4) (r : BitVec 6) (x : RowReg) (n : BitVec 5) : (c.setRow t r x).sv n = c.sv n := rfl
theorem Ctx.kv_setRow (c : Ctx) (t : BitVec 4) (r : BitVec 6) (x : RowReg) (n : BitVec 3) : (c.setRow t r x).kv n = c.kv n := rfl
theorem Ctx.pv_setRow (c : Ctx) (t : BitVec 4) (r : BitVec 6) (x : RowReg) (n : BitVec 3) : (c.setRow t r x).pv n = c.pv n := rfl
theorem Ctx.mav_setRow (c : Ctx) (t : BitVec 4) (r : BitVec 6) (x : RowReg) (n : BitVec 3) : (c.setRow t r x).mav n = c.mav n := rfl

/-- What a landing result does to the context, where its row is not pushed to a stream. -/
theorem State.land_write_cur (s : State) (d : Dest) (v : Row) (sel : Mask) (poison : Bool)
    (h : ∀ t r, d = .row t r → Safe.NoPush s t) :
    (s.land (.write d v sel poison)).cur = s.cur.put s.landCycle d v sel poison := by
  cases d with
  | row t r =>
    have hn : s.cur.streamOf true t = none := h t r rfl
    have h1 : (s.cur.put s.landCycle (.row t r) v sel poison).streams = s.cur.streams := rfl
    have h2 : (s.cur.put s.landCycle (.row t r) v sel poison).streamOf true t = none := by
      rw [← hn]; simp only [Ctx.streamOf, h1]
    simp only [State.land, State.pushStream, State.unmark_cur, State.modCur_cur, h2]
  | s r => rfl
  | k r => rfl
  | p r => rfl
  | ma r => rfl

/-- What it does to the rest of the machine: nothing but take the mark of its destination. -/
theorem State.land_write_rest (s : State) (d : Dest) (v : Row) (sel : Mask) (poison : Bool)
    (h : ∀ t r, d = .row t r → Safe.NoPush s t) :
    (s.land (.write d v sel poison)).mem = s.mem ∧ (s.land (.write d v sel poison)).poison = s.poison
      ∧ (s.land (.write d v sel poison)).oth = s.oth ∧ (s.land (.write d v sel poison)).core = s.core := by
  cases d with
  | row t r =>
    have hn : s.cur.streamOf true t = none := h t r rfl
    have h1 : (s.cur.put s.landCycle (.row t r) v sel poison).streams = s.cur.streams := rfl
    have h2 : (s.cur.put s.landCycle (.row t r) v sel poison).streamOf true t = none := by
      rw [← hn]; simp only [Ctx.streamOf, h1]
    simp only [State.land, State.pushStream, State.unmark_cur, State.modCur_cur, h2]
    exact ⟨rfl, rfl, rfl, rfl⟩
  | s r => exact ⟨rfl, rfl, rfl, rfl⟩
  | k r => exact ⟨rfl, rfl, rfl, rfl⟩
  | p r => exact ⟨rfl, rfl, rfl, rfl⟩
  | ma r => exact ⟨rfl, rfl, rfl, rfl⟩

end Sys2Proof.Machine
end

