-- ==== Sys2Proof/Laws/Ops.lean ====
section
/-! SUPPORT. The shared operations of the meanings, one lemma for what each can do: how a word's outcome becomes a step, reading
sources, marks of long-latency producers, the V pipe, row sources, flags, irrevocable words, privilege. -/

namespace Sys2Proof.Machine

open Safe

/-! ## Outcomes -/

theorem State.bindsBroken_false {s s1 : State} (h : NoCall s) : s.bindsBroken s1 = false := by
  unfold State.bindsBroken
  rw [List.any_eq_false]
  intro m hm
  simp [h m hm]

/-- A word whose outcome is good issues, if no call of its strand blocks it. -/
theorem finish_ok {s s1 : State} (h : NoCall s) : finish s (.ok s1) = .next (issued s1) := by
  simp only [finish, State.bindsBroken_false h]; rfl

@[simp] theorem finish_trap (s : State) (t : TrapInfo) : finish s (.trap t) = .next (s.trapHere t) := rfl

@[simp] theorem finish_hold (s : State) (w : HoldWhy) : finish s (.hold w) = .next (held s w) := rfl

@[simp] theorem happen_ok (s s1 : State) : happen s (.ok s1) = .next (issued s1) := rfl

@[simp] theorem happen_trap (s : State) (t : TrapInfo) : happen s (.trap t) = .next (s.trapHere t) := rfl

@[simp] theorem happen_hold (s : State) (w : HoldWhy) : happen s (.hold w) = .next (held s w) := rfl

/-- A word that ends its bundle acts, where no further repetition of a REP follows. -/
theorem finishEnd_ok {s s1 : State} (i : Instr) (a : Word) (h : s.iss.repMore = false) :
    finishEnd i a s (.ok s1) = .next (ended s1) := by simp only [finishEnd, h]; rfl

@[simp] theorem finishEnd_trap (i : Instr) (a : Word) (s : State) (t : TrapInfo) :
    finishEnd i a s (.trap t) = .next (s.trapHere t) := rfl

@[simp] theorem finishEnd_hold (i : Instr) (a : Word) (s : State) (w : HoldWhy) :
    finishEnd i a s (.hold w) = .next (held s w) := rfl

/-- Whatever a word's outcome, a next state follows. -/
theorem finish_next (s : State) (r : Res) : ∃ t, finish s r = .next t := by
  cases r with
  | ok s1 => unfold finish; dsimp only; split <;> exact ⟨_, rfl⟩
  | trap t => exact ⟨_, rfl⟩
  | hold w => exact ⟨_, rfl⟩
  | wait s1 w => exact ⟨_, rfl⟩

theorem happen_next (s : State) (r : Res) : ∃ t, happen s r = .next t := by cases r <;> exact ⟨_, rfl⟩

theorem finishEnd_next (i : Instr) (a : Word) (s : State) (r : Res) : ∃ t, finishEnd i a s r = .next t := by
  cases r with
  | ok s1 => unfold finishEnd; dsimp only; split <;> exact ⟨_, rfl⟩
  | trap t => exact ⟨_, rfl⟩
  | hold w => exact ⟨_, rfl⟩
  | wait s1 w => exact ⟨_, rfl⟩

/-! ## Sources (R40) -/

/-- A source that can be read: it neither traps nor blocks. -/
def Ctx.ready (c : Ctx) (x : Src) : Prop := c.srcCause x = none ∧ c.srcBlocks x = false

theorem Ctx.srcTrap_ready {c : Ctx} {l : List Src} (h : ∀ x ∈ l, c.ready x) : c.srcTrap l = none := by
  induction l with
  | nil => rfl
  | cons x t ih =>
    have hx := (h x (by simp)).1
    have ht := ih (fun y hy => h y (by simp [hy]))
    simp [Ctx.srcTrap, hx, ht]

/-- Sources that can be read are read. -/
theorem State.withSrcs_ready {s : State} {l : List Src} {k : Unit → Res} (h : ∀ x ∈ l, s.cur.ready x) : s.withSrcs l k = k () := by
  have hb : l.any s.cur.srcBlocks = false := by
    rw [List.any_eq_false]; intro x hx; simp [(h x hx).2]
  simp [State.withSrcs, Ctx.srcTrap_ready h, hb]

theorem Ctx.ready_s {s : State} {r : BitVec 5} (w : Bool) (h : Full s r) : s.cur.ready (.s r w) := by
  unfold Full at h
  simp [Ctx.ready, Ctx.srcCause, Ctx.srcBlocks, h]

theorem Ctx.ready_row {s : State} {t : BitVec 4} {r : BitVec 6} (h : (s.cur.rowReg t r).st = .full) : s.cur.ready (.row t r) := by
  simp [Ctx.ready, Ctx.srcCause, Ctx.srcBlocks, h]

theorem Ctx.ready_p {s : State} {p : BitVec 3} (h : PermFull s p) : s.cur.ready (.p p) := by
  unfold PermFull at h
  simp [Ctx.ready, Ctx.srcCause, Ctx.srcBlocks, h]

theorem State.withSrcs_s {s : State} {a : BitVec 5} {w : Bool} {k : Unit → Res} (h : Full s a) : s.withSrcs [.s a w] k = k () :=
  State.withSrcs_ready (by intro x hx; simp at hx; subst hx; exact Ctx.ready_s w h)

theorem State.withSrcs_ss {s : State} {a b : BitVec 5} {w v : Bool} {k : Unit → Res} (ha : Full s a) (hb : Full s b) :
    s.withSrcs [.s a w, .s b v] k = k () :=
  State.withSrcs_ready (by
    intro x hx; simp at hx
    rcases hx with rfl | rfl
    · exact Ctx.ready_s w ha
    · exact Ctx.ready_s v hb)

theorem State.withSrcs_nil {s : State} {k : Unit → Res} : s.withSrcs [] k = k () := State.withSrcs_ready (by simp)

theorem State.scalar2_full {s : State} {l : Nat} {d a b : BitVec 5} {wa wb : BitVec 1} {f : Word → Word → Word}
    (ha : Full s a) (hb : Full s b) : s.scalar2 l d a b wa wb f = .ok (s.pushS l d (f (s.cur.sv a) (s.cur.sv b))) := by
  simp only [State.scalar2, State.withSrcs_ss ha hb]; rfl

theorem State.scalar1_full {s : State} {l : Nat} {d a : BitVec 5} {wa : BitVec 1} {f : Word → Word}
    (ha : Full s a) : s.scalar1 l d a wa f = .ok (s.pushS l d (f (s.cur.sv a))) := by
  simp only [State.scalar1, State.withSrcs_s ha]; rfl

/-! ## Marks (R39, R42) -/

theorem State.mark_real {s : State} {tag : Nat} {d : Dest} (h : d.real = true) :
    s.mark tag d =
      { s with
        cur := { s.cur with pend := (s.cur.pend.filter (fun p => !p.eff.writesTo d)).map (fun p => { p with eff := p.eff.sparing d })
          ++ [{ rem := 1, eff := .mark d }] }
        pkg := { s.pkg with marks := { sid := s.cur.sid, tag := tag, dest := d } :: s.pkg.marks } } := by
  simp only [State.mark, h, if_true]; rfl

theorem State.mark_not {s : State} {tag : Nat} {d : Dest} (h : d.real = false) : s.mark tag d = s := by
  simp only [State.mark, h]; rfl

/-- What marking leaves: everything but the results in flight and the marks. -/
theorem State.mark_rest (s : State) (tag : Nat) (d : Dest) :
    (s.mark tag d).mem = s.mem ∧ (s.mark tag d).core = s.core ∧ (s.mark tag d).oth = s.oth ∧ (s.mark tag d).poison = s.poison
      ∧ (s.mark tag d).iss = s.iss ∧ (s.mark tag d).ev = s.ev ∧ (s.mark tag d).agenda = s.agenda ∧ (s.mark tag d).choice = s.choice
      ∧ (s.mark tag d).cur = { s.cur with pend := (s.mark tag d).cur.pend }
      ∧ (s.mark tag d).pkg = { s.pkg with marks := (s.mark tag d).pkg.marks } := by
  cases h : d.real with
  | true => rw [State.mark_real h]; exact ⟨rfl, rfl, rfl, rfl, rfl, rfl, rfl, rfl, rfl, rfl⟩
  | false => rw [State.mark_not h]; exact ⟨rfl, rfl, rfl, rfl, rfl, rfl, rfl, rfl, rfl, rfl⟩

/-! ## The V pipe, rows and flags (R44, R83, R109, R110) -/

/-- A word that goes on with a free pipe takes it. -/
theorem State.vpipe_free {s t : State} {n : Nat} {k : State → Res} (h : VFree s) (hk : k (vTaken s n) = .ok t) : s.vpipe n k = .ok t := by
  have hk' : k { s with core := { s.core with vbusy := n } } = .ok t := hk
  unfold VFree at h; simp only [State.vpipe, h, if_true, hk']

/-- A trap of a word with a free pipe is its trap. -/
theorem State.vpipe_trap {s : State} {e : TrapInfo} {n : Nat} {k : State → Res} (h : VFree s) (hk : k (vTaken s n) = .trap e) :
    s.vpipe n k = .trap e := by
  have hk' : k { s with core := { s.core with vbusy := n } } = .trap e := hk
  unfold VFree at h; simp only [State.vpipe, h, if_true, hk']

/-- With the pipe busy a word that would go on is held. -/
theorem State.vpipe_busy {s t : State} {n : Nat} {k : State → Res} (h : ¬ VFree s) (hk : k (vTaken s n) = .ok t) :
    s.vpipe n k = .hold .other := by
  have hk' : k { s with core := { s.core with vbusy := n } } = .ok t := hk
  unfold VFree at h; simp only [State.vpipe, h, if_false, hk']

theorem State.readRow_full {s : State} {t : BitVec 4} {r : BitVec 6} (h : s.cur.streamOf false t = none) :
    s.readRow t r = .val (s.cur.rowReg t r).v s := by simp only [State.readRow, h]

/-- Rows of tiles that no in-bound stream feeds are read in place. -/
theorem State.readRows_full {s : State} {l : List (BitVec 4 × BitVec 6)} {k : List Row → State → Res}
    (h : ∀ x ∈ l, s.cur.streamOf false x.1 = none) : s.readRows l k = k (l.map (fun x => (s.cur.rowReg x.1 x.2).v)) s := by
  induction l generalizing k with
  | nil => rfl
  | cons x t ih =>
    obtain ⟨a, b⟩ := x
    have hx : s.cur.streamOf false a = none := h (a, b) (by simp)
    simp only [State.readRows, State.readRow_full hx, ih (fun y hy => h y (by simp [hy])), List.map_cons]

/-- Rows that no in-bound stream feeds want nothing of one. -/
theorem State.wanting_full {s : State} {l : List (BitVec 4 × BitVec 6)} (h : ∀ x ∈ l, s.cur.streamOf false x.1 = none) :
    s.wanting l = none := by
  unfold State.wanting
  rw [List.find?_eq_none]
  intro y hy
  obtain ⟨k, -, rfl⟩ := List.mem_map.mp hy
  dsimp only
  split
  · rename_i hb
    have h0 : l.filter (fun y => y.1 == (s.cur.streams.get k).tile) = [] := by
      rw [List.filter_eq_nil_iff]
      intro x hx hc
      have hn := h x hx
      unfold Ctx.streamOf at hn
      rw [List.find?_eq_none] at hn
      have := hn k (List.mem_finRange k)
      simp_all
    simp [h0]
  · simp

theorem State.withRows_full {s : State} {more : List Src} {l : List (BitVec 4 × BitVec 6)} {k : List Row → State → Res}
    (hm : ∀ x ∈ more, s.cur.ready x) (h : ∀ x ∈ l, RowFull s x.1 x.2) :
    s.withRows more l k = k (l.map (fun x => (s.cur.rowReg x.1 x.2).v)) s := by
  unfold State.withRows
  rw [State.withSrcs_ready, State.wanting_full (fun x hx => (h x hx).2)]
  · exact State.readRows_full (fun x hx => (h x hx).2)
  intro x hx
  rcases List.mem_append.mp hx with h1 | h1
  · exact hm x h1
  · obtain ⟨y, hy, rfl⟩ := List.mem_map.mp h1
    exact Ctx.ready_row (h y (List.mem_filter.mp hy).1).1

theorem State.pushCheck_free {s : State} {t : BitVec 4} {n : Nat} {k : State → Res} (h : NoPush s t) : s.pushCheck t n k = k s := by
  unfold NoPush at h; simp only [State.pushCheck, h]

theorem State.withFlags_free {s : State} {l : Nat} {f : Flags} {k : State → Res} (h : NoFpTrap s) :
    s.withFlags l f k = k (if f = 0 then s else s.push 1 (.flags f)) := by
  unfold NoFpTrap at h; simp only [State.withFlags, h, if_true]

/-! ## Irrevocable words, checks, privilege (R310, R346) -/

theorem State.irrevocable_goes {s : State} {k : State → Res} (h : NotSpec s) : s.irrevocable k = k s.irrev := by
  unfold NotSpec at h; simp only [State.irrevocable, h]; rfl

theorem State.irrevocable_waits {s : State} {k : State → Res} (h : s.curSpec = true) : s.irrevocable k = .hold .irrevocable := by
  simp only [State.irrevocable, h, if_true]

@[simp] theorem orTrap_ok {α : Type} (x : α) (k : α → Res) : orTrap (.ok x) k = k x := rfl

@[simp] theorem orTrap_error {α : Type} (t : TrapInfo) (k : α → Res) : orTrap (.error t) k = .trap t := rfl

theorem State.sys_s {s : State} {i : Instr} {k : Unit → Res} (h : s.cur.level = .s) : s.sys i k = k () := by
  simp only [State.sys, h]

theorem State.sys_u {s : State} {i : Instr} {k : Unit → Res} (h : s.cur.level = .u) :
    s.sys i k = .trap ⟨cPrivilege, s.wordOf i⟩ := by simp only [State.sys, h]

end Sys2Proof.Machine
end

