-- ==== Sys2Proof/Laws/Access.lean ====
section
/-! SUPPORT. What reaching memory can do: noting a translation, the checks of an access, a bank of the scratchpad, sending a
request. -/

namespace Sys2Proof.Machine

open Safe

/-! ## Noting a translation -/

/-- Noting a translation changes the translations that the core holds, and nothing else. -/
theorem State.noteTlb_rest (s : State) (satp va : Word) :
    ∃ l, s.noteTlb satp va = { s with core := { s.core with tlb := l } } := by
  unfold State.noteTlb
  split
  · exact ⟨s.core.tlb, rfl⟩
  · dsimp only
    split
    · exact ⟨s.core.tlb, rfl⟩
    · exact ⟨_, rfl⟩

/-! ## Reaching memory (R254, R304, R310) -/

/-- A state that differs from another at most in the strand it runs and in the translations held. -/
def State.Near (s t : State) : Prop :=
  ∃ x l, t = { s with cur := { s.cur with strand := x }, core := { s.core with tlb := l } } ∧ t.cur.sid = s.cur.sid

theorem State.Near.refl (s : State) : State.Near s s := ⟨s.cur.strand, s.core.tlb, rfl, rfl⟩

theorem State.irrev_sid (s : State) : s.irrev.cur.sid = s.cur.sid := by
  cases h : s.cur.strand <;> simp [State.irrev, State.modCur, Ctx.modStrand, Ctx.sid, h]

theorem State.irrev_near (s : State) : State.Near s s.irrev :=
  ⟨s.irrev.cur.strand, s.core.tlb, rfl, s.irrev_sid⟩

theorem State.Near.noteTlb {s t : State} (h : State.Near s t) (satp va : Word) : State.Near s (t.noteTlb satp va) := by
  obtain ⟨x, l, rfl, hs⟩ := h
  obtain ⟨l2, h2⟩ := State.noteTlb_rest ({ s with cur := { s.cur with strand := x }, core := { s.core with tlb := l } } : State) satp va
  exact ⟨x, l2, by rw [h2], by rw [h2]; exact hs⟩

theorem State.accessHeld_near {s t : State} (h : State.Near s t) (w : Bool) (va : Word) : t.accessHeld w va = s.accessHeld w va := by
  obtain ⟨x, l, rfl, hs⟩ := h
  unfold State.accessHeld
  rw [hs]
  rfl

/-- A good access goes on, with the location, not tracked, in a state near this one. -/
theorem State.reach_ok {s : State} {k : Acc} {align n : Nat} {ea : Word} {p : Phys} {rest : Phys → Bool → State → Res}
    (h : Reaches s k align n ea p) : ∃ t, State.Near s t ∧ s.reach k align n ea rest = rest p false t := by
  obtain ⟨hc, ht, ha, hf⟩ := h
  unfold State.reach
  rw [hc, orTrap_ok]
  simp only [ht, reduceCtorEq, if_false]
  have ht2 : (Tracking.plain == Tracking.tracked) = false := by decide
  cases hp : p.far with
  | false =>
    simp only [ha, ht2]
    exact ⟨_, (State.Near.refl s).noteTlb _ _, rfl⟩
  | true =>
    simp only [State.irrevocable_goes (hf hp), State.accessHeld_near s.irrev_near, ha, ht2, if_true]
    exact ⟨_, s.irrev_near.noteTlb _ _, rfl⟩

/-- A failed check is the word's trap. -/
theorem State.reach_trap {s : State} {k : Acc} {align n : Nat} {ea : Word} {e : TrapInfo} {rest : Phys → Bool → State → Res}
    (h : s.check k align n ea = .error e) : s.reach k align n ea rest = .trap e := by
  unfold State.reach; rw [h, orTrap_error]

/-- An access outside both sets is UNDECLARED. -/
theorem State.reach_undeclared {s : State} {k : Acc} {align n : Nat} {ea : Word} {p : Phys} {rest : Phys → Bool → State → Res}
    (h : s.check k align n ea = .ok p) (ht : s.tracking k.writes ea = .undeclared) :
    s.reach k align n ea rest = .trap (undeclaredTrap ea) := by
  unfold State.reach; rw [h, orTrap_ok]; simp only [ht, if_true]

theorem State.Near.exposed {s t : State} (h : State.Near s t) (p : Phys) : t.exposed p = s.exposed p := by
  obtain ⟨x, l, rfl, -⟩ := h; rfl

/-- A free bank is occupied from here on. -/
theorem State.bank_free {s : State} {p : Phys} {n : Nat} {rest : State → Res} (h : BankFree s p) (ho : s.ownSpad p = true) :
    s.bank p n rest = rest { s with core := { s.core with banks := (seg p.pa 8 5, n) :: s.core.banks } } := by
  unfold State.bank
  have h1 : (s.core.banks.any (fun x => x.1 == seg p.pa 8 5)) = false := by
    rw [List.any_eq_false]; intro x hx; simp [h.1 x hx]
  have h3 : s.bankBusy p = false := by simp [State.bankBusy, h1]
  have h2 : (s.pkg.reqs.any (fun q => decide (q.due < s.core.cyc) && s.ownServed q)) = false := by
    rw [List.any_eq_false]; intro q hq hc
    simp only [Bool.and_eq_true, decide_eq_true_eq] at hc
    rw [h.2 q hq hc.1] at hc
    exact Bool.noConfusion hc.2
  simp only [h2, State.takeBank, h3, ho]
  rfl

/-! ## Sending a request (R256) -/

/-- Only what the fabric keeps of messages, the own copies of remote tiles and the counter of free values differ. -/
def State.Sent (s t : State) : Prop :=
  ∃ l o e c m x b r, t = { s with
    pkg := { s.pkg with links := l, out := o, msns := m, sent := x, outbox := b }
    core := { s.core with einj := e, replicas := r }
    choice := c }

theorem State.Sent.refl (s : State) : State.Sent s s := ⟨_, _, _, _, _, _, _, _, rfl⟩

theorem State.Sent.trans {s t u : State} (h : State.Sent s t) (k : State.Sent t u) : State.Sent s u := by
  obtain ⟨_, _, _, _, _, _, _, _, rfl⟩ := h
  obtain ⟨_, _, _, _, _, _, _, _, rfl⟩ := k
  exact ⟨_, _, _, _, _, _, _, _, rfl⟩

/-- A fold of steps that each change no more changes no more. -/
theorem State.Sent.foldl {α : Type} {f : State → α → State} (hf : ∀ s x, State.Sent s (f s x)) :
    ∀ (l : List α) (s : State), State.Sent s (l.foldl f s)
  | [], s => State.Sent.refl s
  | x :: t, s => (hf s x).trans (State.Sent.foldl hf t (f s x))

theorem State.emit_sent (s : State) (o : Out) : State.Sent s (s.emit o) := ⟨_, _, _, _, _, _, _, _, rfl⟩

theorem State.place_sent (s : State) (dst : BitVec 17) (m : Msg) : State.Sent s (s.place dst m) := by
  unfold State.place
  dsimp only
  split
  · exact ⟨_, _, _, _, _, _, _, _, rfl⟩
  · split
    · exact ⟨_, _, _, _, _, _, _, _, rfl⟩
    · exact ⟨_, _, _, _, _, _, _, _, rfl⟩

theorem State.sendKept_sent (s : State) (d : BitVec 17) (b : MsgBody) (tag : Nat) : State.Sent s (s.sendKept d b tag) := by
  unfold State.sendKept State.post
  exact (State.Sent.trans ⟨_, _, _, _, _, _, _, _, rfl⟩ (State.emit_sent _ _)).trans (State.place_sent _ _ _)

theorem State.sendMessage_sent (s : State) (q : Req) : State.Sent s (s.sendMessage q) := by
  unfold State.sendMessage
  refine State.Sent.foldl (fun s x => ?_) _ s
  split
  · exact State.sendKept_sent _ _ _ _
  · exact State.Sent.refl s

theorem State.askHostFor_sent (s : State) (q : Req) : State.Sent s (s.askHostFor q) := by
  unfold State.askHostFor
  refine State.Sent.foldl (fun s p => ?_) _ s
  split
  · exact State.emit_sent _ _
  · split
    · exact State.emit_sent _ _
    · exact State.Sent.refl s

theorem State.dropCopies_sent (s : State) (l : List Phys) : State.Sent s (s.dropCopies l) := ⟨_, _, _, _, _, _, _, _, rfl⟩

/-- Sending a request: it is in flight, with a due time and a limit of 1 ms, and the launch of its strand; the rest that changes is the
own copies of what it writes, what the fabric keeps of messages and the counter of free values. -/
theorem State.send_rest (s : State) (q : Req) :
    ∃ l o e c m x b r due dom, s.send q =
      { s with
        pkg := { s.pkg with links := l, out := o, msns := m, sent := x, outbox := b
                            reqs := s.pkg.reqs ++ [{ q with due := due, limit := s.core.cyc + 1500000, dom := dom }] }
        core := { s.core with einj := e, replicas := r }
        choice := c } := by
  have key : ∀ u : State, State.Sent u (((if q.op.stores then u.dropCopies q.locs else u).askHostFor q).sendMessage q) := by
    intro u
    have h : State.Sent u (if q.op.stores then u.dropCopies q.locs else u) := by
      split
      · exact State.dropCopies_sent u _
      · exact State.Sent.refl u
    exact (h.trans (State.askHostFor_sent _ _)).trans (State.sendMessage_sent _ _)
  obtain ⟨l, o, e, c, m, x, b, r, h⟩ := key
    ({ s.dueSoon.2 with pkg := { s.dueSoon.2.pkg with reqs := s.dueSoon.2.pkg.reqs ++ [{ q with
        due := if s.ownServed q then s.core.cyc else s.dueSoon.1, limit := s.core.cyc + 1500000
        dom := q.dom <|> (s.strandOf q.sid).map (fun x => x.part ++ x.lnch) }] } } : State)
  exact ⟨l, o, e, c, m, x, b, r, _, _, h⟩

end Sys2Proof.Machine
end

