-- ==== Sys2Proof/Laws/PerInstr.lean ====
section
/-! SUPPORT. A statement made per instruction, about its syntax: how many words an instruction has (R138, R140), and which
instructions are steps of a routine (R232). -/

namespace Sys2Proof.Laws.Code

/-- The instructions of two words (R140). -/
def long : Instr → Bool
  | .movl _ _ | .movlS _ _ | .movlh _ _ => true
  | _ => false

/-- An event and a routine step have no instruction words, a long instruction has two, any other one; a step alone has a step
word. -/
def Statement (i : Instr) : Prop :=
  (encode i).length = (if i.isEvent || i.isStep then 0 else if long i then 2 else 1) ∧ (encodeStep i).isSome = i.isStep

theorem add : ∀ d a b wa wb, Statement (.add d a b wa wb) := fun _ _ _ _ _ => ⟨rfl, rfl⟩
theorem sub : ∀ d a b wa wb, Statement (.sub d a b wa wb) := fun _ _ _ _ _ => ⟨rfl, rfl⟩
theorem and_ : ∀ d a b wa wb, Statement (.and_ d a b wa wb) := fun _ _ _ _ _ => ⟨rfl, rfl⟩
theorem or_ : ∀ d a b wa wb, Statement (.or_ d a b wa wb) := fun _ _ _ _ _ => ⟨rfl, rfl⟩
theorem xor_ : ∀ d a b wa wb, Statement (.xor_ d a b wa wb) := fun _ _ _ _ _ => ⟨rfl, rfl⟩
theorem andn : ∀ d a b wa wb, Statement (.andn d a b wa wb) := fun _ _ _ _ _ => ⟨rfl, rfl⟩
theorem orn : ∀ d a b wa wb, Statement (.orn d a b wa wb) := fun _ _ _ _ _ => ⟨rfl, rfl⟩
theorem shl : ∀ d a b wa wb, Statement (.shl d a b wa wb) := fun _ _ _ _ _ => ⟨rfl, rfl⟩
theorem shr : ∀ d a b wa wb, Statement (.shr d a b wa wb) := fun _ _ _ _ _ => ⟨rfl, rfl⟩
theorem sra : ∀ d a b wa wb, Statement (.sra d a b wa wb) := fun _ _ _ _ _ => ⟨rfl, rfl⟩
theorem ror : ∀ d a b wa wb, Statement (.ror d a b wa wb) := fun _ _ _ _ _ => ⟨rfl, rfl⟩
theorem mul : ∀ d a b wa wb, Statement (.mul d a b wa wb) := fun _ _ _ _ _ => ⟨rfl, rfl⟩
theorem mulh : ∀ d a b wa wb, Statement (.mulh d a b wa wb) := fun _ _ _ _ _ => ⟨rfl, rfl⟩
theorem mulhu : ∀ d a b wa wb, Statement (.mulhu d a b wa wb) := fun _ _ _ _ _ => ⟨rfl, rfl⟩
theorem div : ∀ d a b wa wb, Statement (.div d a b wa wb) := fun _ _ _ _ _ => ⟨rfl, rfl⟩
theorem divu : ∀ d a b wa wb, Statement (.divu d a b wa wb) := fun _ _ _ _ _ => ⟨rfl, rfl⟩
theorem rem : ∀ d a b wa wb, Statement (.rem d a b wa wb) := fun _ _ _ _ _ => ⟨rfl, rfl⟩
theorem remu : ∀ d a b wa wb, Statement (.remu d a b wa wb) := fun _ _ _ _ _ => ⟨rfl, rfl⟩
theorem min : ∀ d a b wa wb, Statement (.min d a b wa wb) := fun _ _ _ _ _ => ⟨rfl, rfl⟩
theorem max : ∀ d a b wa wb, Statement (.max d a b wa wb) := fun _ _ _ _ _ => ⟨rfl, rfl⟩
theorem minu : ∀ d a b wa wb, Statement (.minu d a b wa wb) := fun _ _ _ _ _ => ⟨rfl, rfl⟩
theorem maxu : ∀ d a b wa wb, Statement (.maxu d a b wa wb) := fun _ _ _ _ _ => ⟨rfl, rfl⟩
theorem slt : ∀ d a b wa wb, Statement (.slt d a b wa wb) := fun _ _ _ _ _ => ⟨rfl, rfl⟩
theorem sltu : ∀ d a b wa wb, Statement (.sltu d a b wa wb) := fun _ _ _ _ _ => ⟨rfl, rfl⟩
theorem seq : ∀ d a b wa wb, Statement (.seq d a b wa wb) := fun _ _ _ _ _ => ⟨rfl, rfl⟩
theorem sne : ∀ d a b wa wb, Statement (.sne d a b wa wb) := fun _ _ _ _ _ => ⟨rfl, rfl⟩
theorem clz : ∀ d a wa, Statement (.clz d a wa) := fun _ _ _ => ⟨rfl, rfl⟩
theorem ctz : ∀ d a wa, Statement (.ctz d a wa) := fun _ _ _ => ⟨rfl, rfl⟩
theorem popc : ∀ d a wa, Statement (.popc d a wa) := fun _ _ _ => ⟨rfl, rfl⟩
theorem sext : ∀ d a wa sb, Statement (.sext d a wa sb) := fun _ _ _ _ => ⟨rfl, rfl⟩
theorem zext : ∀ d a wa sb, Statement (.zext d a wa sb) := fun _ _ _ _ => ⟨rfl, rfl⟩
theorem cmovz : ∀ d a b wa wb, Statement (.cmovz d a b wa wb) := fun _ _ _ _ _ => ⟨rfl, rfl⟩
theorem cmovnz : ∀ d a b wa wb, Statement (.cmovnz d a b wa wb) := fun _ _ _ _ _ => ⟨rfl, rfl⟩
theorem lea : ∀ d a b wa wb sb, Statement (.lea d a b wa wb sb) := fun _ _ _ _ _ _ => ⟨rfl, rfl⟩
theorem addw : ∀ d a b wa wb, Statement (.addw d a b wa wb) := fun _ _ _ _ _ => ⟨rfl, rfl⟩
theorem subw : ∀ d a b wa wb, Statement (.subw d a b wa wb) := fun _ _ _ _ _ => ⟨rfl, rfl⟩
theorem mulw : ∀ d a b wa wb, Statement (.mulw d a b wa wb) := fun _ _ _ _ _ => ⟨rfl, rfl⟩
theorem shlw : ∀ d a b wa wb, Statement (.shlw d a b wa wb) := fun _ _ _ _ _ => ⟨rfl, rfl⟩
theorem shrw : ∀ d a b wa wb, Statement (.shrw d a b wa wb) := fun _ _ _ _ _ => ⟨rfl, rfl⟩
theorem sraw : ∀ d a b wa wb, Statement (.sraw d a b wa wb) := fun _ _ _ _ _ => ⟨rfl, rfl⟩
theorem bswap : ∀ d a wa, Statement (.bswap d a wa) := fun _ _ _ => ⟨rfl, rfl⟩
theorem addi : ∀ d a imm, Statement (.addi d a imm) := fun _ _ _ => ⟨rfl, rfl⟩
theorem andi : ∀ d a imm, Statement (.andi d a imm) := fun _ _ _ => ⟨rfl, rfl⟩
theorem ori : ∀ d a imm, Statement (.ori d a imm) := fun _ _ _ => ⟨rfl, rfl⟩
theorem xori : ∀ d a imm, Statement (.xori d a imm) := fun _ _ _ => ⟨rfl, rfl⟩
theorem slti : ∀ d a imm, Statement (.slti d a imm) := fun _ _ _ => ⟨rfl, rfl⟩
theorem sltiu : ∀ d a imm, Statement (.sltiu d a imm) := fun _ _ _ => ⟨rfl, rfl⟩
theorem shli : ∀ d a n, Statement (.shli d a n) := fun _ _ _ => ⟨rfl, rfl⟩
theorem shri : ∀ d a n, Statement (.shri d a n) := fun _ _ _ => ⟨rfl, rfl⟩
theorem srai : ∀ d a n, Statement (.srai d a n) := fun _ _ _ => ⟨rfl, rfl⟩
theorem movz : ∀ d hw imm, Statement (.movz d hw imm) := fun _ _ _ => ⟨rfl, rfl⟩
theorem movk : ∀ d hw imm, Statement (.movk d hw imm) := fun _ _ _ => ⟨rfl, rfl⟩
theorem movn : ∀ d hw imm, Statement (.movn d hw imm) := fun _ _ _ => ⟨rfl, rfl⟩
theorem movl : ∀ d x, Statement (.movl d x) := fun _ _ => ⟨rfl, rfl⟩
theorem movlS : ∀ d x, Statement (.movlS d x) := fun _ _ => ⟨rfl, rfl⟩
theorem movlh : ∀ d x, Statement (.movlh d x) := fun _ _ => ⟨rfl, rfl⟩
theorem beqz : ∀ an a disp, Statement (.beqz an a disp) := fun _ _ _ => ⟨rfl, rfl⟩
theorem bnez : ∀ an a disp, Statement (.bnez an a disp) := fun _ _ _ => ⟨rfl, rfl⟩
theorem bltz : ∀ an a disp, Statement (.bltz an a disp) := fun _ _ _ => ⟨rfl, rfl⟩
theorem bgez : ∀ an a disp, Statement (.bgez an a disp) := fun _ _ _ => ⟨rfl, rfl⟩
theorem bgtz : ∀ an a disp, Statement (.bgtz an a disp) := fun _ _ _ => ⟨rfl, rfl⟩
theorem blez : ∀ an a disp, Statement (.blez an a disp) := fun _ _ _ => ⟨rfl, rfl⟩
theorem bbs : ∀ an a disp, Statement (.bbs an a disp) := fun _ _ _ => ⟨rfl, rfl⟩
theorem bbc : ∀ an a disp, Statement (.bbc an a disp) := fun _ _ _ => ⟨rfl, rfl⟩
theorem jmp : ∀ disp, Statement (.jmp disp) := fun _ => ⟨rfl, rfl⟩
theorem jal : ∀ disp, Statement (.jal disp) := fun _ => ⟨rfl, rfl⟩
theorem jalr : ∀ d a wa, Statement (.jalr d a wa) := fun _ _ _ => ⟨rfl, rfl⟩
theorem trap : ∀ b sb, Statement (.trap b sb) := fun _ _ => ⟨rfl, rfl⟩
theorem susp : ∀ a sb, Statement (.susp a sb) := fun _ _ => ⟨rfl, rfl⟩
theorem csrr : ∀ d n, Statement (.csrr d n) := fun _ _ => ⟨rfl, rfl⟩
theorem csrw : ∀ d n, Statement (.csrw d n) := fun _ _ => ⟨rfl, rfl⟩
theorem csrx : ∀ d n, Statement (.csrx d n) := fun _ _ => ⟨rfl, rfl⟩
theorem rep : ∀ cnt creg stp stride ke k, Statement (.rep cnt creg stp stride ke k) := fun _ _ _ _ _ _ => ⟨rfl, rfl⟩
theorem ld : ∀ d base sz zx off, Statement (.ld d base sz zx off) := fun _ _ _ _ _ => ⟨rfl, rfl⟩
theorem ldAcq : ∀ d base sz zx sc off, Statement (.ldAcq d base sz zx sc off) := fun _ _ _ _ _ _ => ⟨rfl, rfl⟩
theorem st : ∀ d base sz off, Statement (.st d base sz off) := fun _ _ _ _ => ⟨rfl, rfl⟩
theorem stRel : ∀ d base sz sc off, Statement (.stRel d base sz sc off) := fun _ _ _ _ _ => ⟨rfl, rfl⟩
theorem ldr : ∀ t row base off, Statement (.ldr t row base off) := fun _ _ _ _ => ⟨rfl, rfl⟩
theorem str : ∀ t row base off, Statement (.str t row base off) := fun _ _ _ _ => ⟨rfl, rfl⟩
theorem ldrd : ∀ t row base off, Statement (.ldrd t row base off) := fun _ _ _ _ => ⟨rfl, rfl⟩
theorem strd : ∀ t row base off, Statement (.strd t row base off) := fun _ _ _ _ => ⟨rfl, rfl⟩
theorem ldrb : ∀ t row base off, Statement (.ldrb t row base off) := fun _ _ _ _ => ⟨rfl, rfl⟩
theorem pft : ∀ base off, Statement (.pft base off) := fun _ _ => ⟨rfl, rfl⟩
theorem aadd : ∀ d a b sz, Statement (.aadd d a b sz) := fun _ _ _ _ => ⟨rfl, rfl⟩
theorem aand : ∀ d a b sz, Statement (.aand d a b sz) := fun _ _ _ _ => ⟨rfl, rfl⟩
theorem aor : ∀ d a b sz, Statement (.aor d a b sz) := fun _ _ _ _ => ⟨rfl, rfl⟩
theorem axor : ∀ d a b sz, Statement (.axor d a b sz) := fun _ _ _ _ => ⟨rfl, rfl⟩
theorem amin : ∀ d a b sz, Statement (.amin d a b sz) := fun _ _ _ _ => ⟨rfl, rfl⟩
theorem amax : ∀ d a b sz, Statement (.amax d a b sz) := fun _ _ _ _ => ⟨rfl, rfl⟩
theorem aminu : ∀ d a b sz, Statement (.aminu d a b sz) := fun _ _ _ _ => ⟨rfl, rfl⟩
theorem amaxu : ∀ d a b sz, Statement (.amaxu d a b sz) := fun _ _ _ _ => ⟨rfl, rfl⟩
theorem aswap : ∀ d a b sz, Statement (.aswap d a b sz) := fun _ _ _ _ => ⟨rfl, rfl⟩
theorem acas : ∀ d a b c sz, Statement (.acas d a b c sz) := fun _ _ _ _ _ => ⟨rfl, rfl⟩
theorem aqinc : ∀ d a b sz, Statement (.aqinc d a b sz) := fun _ _ _ _ => ⟨rfl, rfl⟩
theorem aqwrap : ∀ d a b sz, Statement (.aqwrap d a b sz) := fun _ _ _ _ => ⟨rfl, rfl⟩
theorem aqdec : ∀ d a sz, Statement (.aqdec d a sz) := fun _ _ _ => ⟨rfl, rfl⟩
theorem aqaddl : ∀ d a b, Statement (.aqaddl d a b) := fun _ _ _ => ⟨rfl, rfl⟩
theorem aqchunk : ∀ d a b, Statement (.aqchunk d a b) := fun _ _ _ => ⟨rfl, rfl⟩
theorem afadd : ∀ d a b sz, Statement (.afadd d a b sz) := fun _ _ _ _ => ⟨rfl, rfl⟩
theorem vamo : ∀ op td ta tb row, Statement (.vamo op td ta tb row) := fun _ _ _ _ _ => ⟨rfl, rfl⟩
theorem fence : ∀ ord sc, Statement (.fence ord sc) := fun _ _ => ⟨rfl, rfl⟩
theorem relt : ∀ a b sc, Statement (.relt a b sc) := fun _ _ _ => ⟨rfl, rfl⟩
theorem acqt : ∀ a b sc, Statement (.acqt a b sc) := fun _ _ _ => ⟨rfl, rfl⟩
theorem arrb : ∀ d a, Statement (.arrb d a) := fun _ _ => ⟨rfl, rfl⟩
theorem waitb : ∀ d a b, Statement (.waitb d a b) := fun _ _ _ => ⟨rfl, rfl⟩
theorem waita : ∀ d a b ord sc, Statement (.waita d a b ord sc) := fun _ _ _ _ _ => ⟨rfl, rfl⟩
theorem evset : ∀ a ord sc, Statement (.evset a ord sc) := fun _ _ _ => ⟨rfl, rfl⟩
theorem evclr : ∀ a ord sc, Statement (.evclr a ord sc) := fun _ _ _ => ⟨rfl, rfl⟩
theorem evwait : ∀ d a ord sc, Statement (.evwait d a ord sc) := fun _ _ _ _ => ⟨rfl, rfl⟩
theorem swin : ∀ d a b sc, Statement (.swin d a b sc) := fun _ _ _ _ => ⟨rfl, rfl⟩
theorem swclose : ∀ d a, Statement (.swclose d a) := fun _ _ => ⟨rfl, rfl⟩
theorem acopy : ∀ d a, Statement (.acopy d a) := fun _ _ => ⟨rfl, rfl⟩
theorem agather : ∀ d a b, Statement (.agather d a b) := fun _ _ _ => ⟨rfl, rfl⟩
theorem ascatter : ∀ d a b, Statement (.ascatter d a b) := fun _ _ _ => ⟨rfl, rfl⟩
theorem acoll : ∀ d a b, Statement (.acoll d a b) := fun _ _ _ => ⟨rfl, rfl⟩
theorem sbind : ∀ d a, Statement (.sbind d a) := fun _ _ => ⟨rfl, rfl⟩
theorem sunb : ∀ d a, Statement (.sunb d a) := fun _ _ => ⟨rfl, rfl⟩
theorem anote : ∀ d a b c, Statement (.anote d a b c) := fun _ _ _ _ => ⟨rfl, rfl⟩
theorem acancel : ∀ d, Statement (.acancel d) := fun _ => ⟨rfl, rfl⟩
theorem tspawn : ∀ d a b c, Statement (.tspawn d a b c) := fun _ _ _ _ => ⟨rfl, rfl⟩
theorem tabort : ∀ a, Statement (.tabort a) := fun _ => ⟨rfl, rfl⟩
theorem twait : ∀ d a, Statement (.twait d a) := fun _ _ => ⟨rfl, rfl⟩
theorem tinfo : ∀ d a, Statement (.tinfo d a) := fun _ _ => ⟨rfl, rfl⟩
theorem vadd : ∀ typ td ta tb row, Statement (.vadd typ td ta tb row) := fun _ _ _ _ _ => ⟨rfl, rfl⟩
theorem vsub : ∀ typ td ta tb row, Statement (.vsub typ td ta tb row) := fun _ _ _ _ _ => ⟨rfl, rfl⟩
theorem vmul : ∀ typ td ta tb row, Statement (.vmul typ td ta tb row) := fun _ _ _ _ _ => ⟨rfl, rfl⟩
theorem vfma : ∀ typ td ta tb row, Statement (.vfma typ td ta tb row) := fun _ _ _ _ _ => ⟨rfl, rfl⟩
theorem vfms : ∀ typ td ta tb row, Statement (.vfms typ td ta tb row) := fun _ _ _ _ _ => ⟨rfl, rfl⟩
theorem vfnma : ∀ typ td ta tb row, Statement (.vfnma typ td ta tb row) := fun _ _ _ _ _ => ⟨rfl, rfl⟩
theorem vmin : ∀ typ td ta tb row, Statement (.vmin typ td ta tb row) := fun _ _ _ _ _ => ⟨rfl, rfl⟩
theorem vmax : ∀ typ td ta tb row, Statement (.vmax typ td ta tb row) := fun _ _ _ _ _ => ⟨rfl, rfl⟩
theorem vdiv : ∀ typ td ta tb row, Statement (.vdiv typ td ta tb row) := fun _ _ _ _ _ => ⟨rfl, rfl⟩
theorem vand : ∀ typ td ta tb row, Statement (.vand typ td ta tb row) := fun _ _ _ _ _ => ⟨rfl, rfl⟩
theorem vor : ∀ typ td ta tb row, Statement (.vor typ td ta tb row) := fun _ _ _ _ _ => ⟨rfl, rfl⟩
theorem vxor : ∀ typ td ta tb row, Statement (.vxor typ td ta tb row) := fun _ _ _ _ _ => ⟨rfl, rfl⟩
theorem vandn : ∀ typ td ta tb row, Statement (.vandn typ td ta tb row) := fun _ _ _ _ _ => ⟨rfl, rfl⟩
theorem vshl : ∀ typ td ta tb row, Statement (.vshl typ td ta tb row) := fun _ _ _ _ _ => ⟨rfl, rfl⟩
theorem vshr : ∀ typ td ta tb row, Statement (.vshr typ td ta tb row) := fun _ _ _ _ _ => ⟨rfl, rfl⟩
theorem vsra : ∀ typ td ta tb row, Statement (.vsra typ td ta tb row) := fun _ _ _ _ _ => ⟨rfl, rfl⟩
theorem vceq : ∀ typ td ta tb row, Statement (.vceq typ td ta tb row) := fun _ _ _ _ _ => ⟨rfl, rfl⟩
theorem vclt : ∀ typ td ta tb row, Statement (.vclt typ td ta tb row) := fun _ _ _ _ _ => ⟨rfl, rfl⟩
theorem vcle : ∀ typ td ta tb row, Statement (.vcle typ td ta tb row) := fun _ _ _ _ _ => ⟨rfl, rfl⟩
theorem vcne : ∀ typ td ta tb row, Statement (.vcne typ td ta tb row) := fun _ _ _ _ _ => ⟨rfl, rfl⟩
theorem vadds : ∀ typ td ta tb row, Statement (.vadds typ td ta tb row) := fun _ _ _ _ _ => ⟨rfl, rfl⟩
theorem vsubs : ∀ typ td ta tb row, Statement (.vsubs typ td ta tb row) := fun _ _ _ _ _ => ⟨rfl, rfl⟩
theorem vmulh : ∀ typ td ta tb row, Statement (.vmulh typ td ta tb row) := fun _ _ _ _ _ => ⟨rfl, rfl⟩
theorem vabsd : ∀ typ td ta tb row, Statement (.vabsd typ td ta tb row) := fun _ _ _ _ _ => ⟨rfl, rfl⟩
theorem vsel : ∀ typ td ta tb row, Statement (.vsel typ td ta tb row) := fun _ _ _ _ _ => ⟨rfl, rfl⟩
theorem vcopysign : ∀ typ td ta tb row, Statement (.vcopysign typ td ta tb row) := fun _ _ _ _ _ => ⟨rfl, rfl⟩
theorem vabs : ∀ typ td ta row, Statement (.vabs typ td ta row) := fun _ _ _ _ => ⟨rfl, rfl⟩
theorem vneg : ∀ typ td ta row, Statement (.vneg typ td ta row) := fun _ _ _ _ => ⟨rfl, rfl⟩
theorem vsqrt : ∀ typ td ta row, Statement (.vsqrt typ td ta row) := fun _ _ _ _ => ⟨rfl, rfl⟩
theorem vrcp : ∀ typ td ta row, Statement (.vrcp typ td ta row) := fun _ _ _ _ => ⟨rfl, rfl⟩
theorem vrsq : ∀ typ td ta row, Statement (.vrsq typ td ta row) := fun _ _ _ _ => ⟨rfl, rfl⟩
theorem vexp2 : ∀ typ td ta row, Statement (.vexp2 typ td ta row) := fun _ _ _ _ => ⟨rfl, rfl⟩
theorem vlog2 : ∀ typ td ta row, Statement (.vlog2 typ td ta row) := fun _ _ _ _ => ⟨rfl, rfl⟩
theorem vtanh : ∀ typ td ta row, Statement (.vtanh typ td ta row) := fun _ _ _ _ => ⟨rfl, rfl⟩
theorem vfloor : ∀ typ td ta row, Statement (.vfloor typ td ta row) := fun _ _ _ _ => ⟨rfl, rfl⟩
theorem vceil : ∀ typ td ta row, Statement (.vceil typ td ta row) := fun _ _ _ _ => ⟨rfl, rfl⟩
theorem vrint : ∀ typ td ta row, Statement (.vrint typ td ta row) := fun _ _ _ _ => ⟨rfl, rfl⟩
theorem vcvt : ∀ typ td ta tb row, Statement (.vcvt typ td ta tb row) := fun _ _ _ _ _ => ⟨rfl, rfl⟩
theorem vcvts : ∀ typ td ta tb row, Statement (.vcvts typ td ta tb row) := fun _ _ _ _ _ => ⟨rfl, rfl⟩
theorem vclz : ∀ typ td ta row, Statement (.vclz typ td ta row) := fun _ _ _ _ => ⟨rfl, rfl⟩
theorem vpopc : ∀ typ td ta row, Statement (.vpopc typ td ta row) := fun _ _ _ _ => ⟨rfl, rfl⟩
theorem vnot : ∀ typ td ta row, Statement (.vnot typ td ta row) := fun _ _ _ _ => ⟨rfl, rfl⟩
theorem vscan : ∀ typ td ta row, Statement (.vscan typ td ta row) := fun _ _ _ _ => ⟨rfl, rfl⟩
theorem vscanmax : ∀ typ td ta row, Statement (.vscanmax typ td ta row) := fun _ _ _ _ => ⟨rfl, rfl⟩
theorem vsegscan : ∀ typ td ta row, Statement (.vsegscan typ td ta row) := fun _ _ _ _ => ⟨rfl, rfl⟩
theorem vclass : ∀ typ td ta row, Statement (.vclass typ td ta row) := fun _ _ _ _ => ⟨rfl, rfl⟩
theorem vmov : ∀ td rd ta ra, Statement (.vmov td rd ta ra) := fun _ _ _ _ => ⟨rfl, rfl⟩
theorem vswap : ∀ td rd ta ra, Statement (.vswap td rd ta ra) := fun _ _ _ _ => ⟨rfl, rfl⟩
theorem trn8B : ∀ td rd ta ra, Statement (.trn8B td rd ta ra) := fun _ _ _ _ => ⟨rfl, rfl⟩
theorem trn8H : ∀ td rd ta ra, Statement (.trn8H td rd ta ra) := fun _ _ _ _ => ⟨rfl, rfl⟩
theorem trn8W : ∀ td rd ta ra, Statement (.trn8W td rd ta ra) := fun _ _ _ _ => ⟨rfl, rfl⟩
theorem vrev : ∀ td rd ta ra, Statement (.vrev td rd ta ra) := fun _ _ _ _ => ⟨rfl, rfl⟩
theorem vzero : ∀ td rd, Statement (.vzero td rd) := fun _ _ => ⟨rfl, rfl⟩
theorem tzero : ∀ td, Statement (.tzero td) := fun _ => ⟨rfl, rfl⟩
theorem tmov : ∀ td ta, Statement (.tmov td ta) := fun _ _ => ⟨rfl, rfl⟩
theorem vbcast : ∀ typ t row s, Statement (.vbcast typ t row s) := fun _ _ _ _ => ⟨rfl, rfl⟩
theorem vextr : ∀ typ t row s, Statement (.vextr typ t row s) := fun _ _ _ _ => ⟨rfl, rfl⟩
theorem vredadd : ∀ typ t row s, Statement (.vredadd typ t row s) := fun _ _ _ _ => ⟨rfl, rfl⟩
theorem vredmax : ∀ typ t row s, Statement (.vredmax typ t row s) := fun _ _ _ _ => ⟨rfl, rfl⟩
theorem vredmin : ∀ typ t row s, Statement (.vredmin typ t row s) := fun _ _ _ _ => ⟨rfl, rfl⟩
theorem viota : ∀ typ t row s, Statement (.viota typ t row s) := fun _ _ _ _ => ⟨rfl, rfl⟩
theorem kfromrow : ∀ typ t row k, Statement (.kfromrow typ t row k) := fun _ _ _ _ => ⟨rfl, rfl⟩
theorem ktorow : ∀ typ t row k, Statement (.ktorow typ t row k) := fun _ _ _ _ => ⟨rfl, rfl⟩
theorem kpopc : ∀ typ s k, Statement (.kpopc typ s k) := fun _ _ _ => ⟨rfl, rfl⟩
theorem kfirst : ∀ typ s k, Statement (.kfirst typ s k) := fun _ _ _ => ⟨rfl, rfl⟩
theorem kmovs : ∀ q s k, Statement (.kmovs q s k) := fun _ _ _ => ⟨rfl, rfl⟩
theorem kmovd : ∀ q s k, Statement (.kmovd q s k) := fun _ _ _ => ⟨rfl, rfl⟩
theorem kand : ∀ kt ks k, Statement (.kand kt ks k) := fun _ _ _ => ⟨rfl, rfl⟩
theorem kor : ∀ kt ks k, Statement (.kor kt ks k) := fun _ _ _ => ⟨rfl, rfl⟩
theorem kxor : ∀ kt ks k, Statement (.kxor kt ks k) := fun _ _ _ => ⟨rfl, rfl⟩
theorem knot : ∀ kt k, Statement (.knot kt k) := fun _ _ => ⟨rfl, rfl⟩
theorem pload : ∀ pd t row s, Statement (.pload pd t row s) := fun _ _ _ _ => ⟨rfl, rfl⟩
theorem pstore : ∀ pa t row, Statement (.pstore pa t row) := fun _ _ _ => ⟨rfl, rfl⟩
theorem pgetr : ∀ pa t row, Statement (.pgetr pa t row) := fun _ _ _ => ⟨rfl, rfl⟩
theorem psetr : ∀ pd t row, Statement (.psetr pd t row) := fun _ _ _ => ⟨rfl, rfl⟩
theorem pcomp : ∀ pd pa pb, Statement (.pcomp pd pa pb) := fun _ _ _ => ⟨rfl, rfl⟩
theorem pinv : ∀ pd pa, Statement (.pinv pd pa) := fun _ _ => ⟨rfl, rfl⟩
theorem prand : ∀ pd s, Statement (.prand pd s) := fun _ _ => ⟨rfl, rfl⟩
theorem pid : ∀ pd, Statement (.pid pd) := fun _ => ⟨rfl, rfl⟩
theorem pmov : ∀ pd pa, Statement (.pmov pd pa) := fun _ _ => ⟨rfl, rfl⟩
theorem pcyc : ∀ pa s, Statement (.pcyc pa s) := fun _ _ => ⟨rfl, rfl⟩
theorem pfix : ∀ pa s, Statement (.pfix pa s) := fun _ _ => ⟨rfl, rfl⟩
theorem pord : ∀ pa s, Statement (.pord pa s) := fun _ _ => ⟨rfl, rfl⟩
theorem pclen : ∀ pa s, Statement (.pclen pa s) := fun _ _ => ⟨rfl, rfl⟩
theorem peq : ∀ pa pb s, Statement (.peq pa pb s) := fun _ _ _ => ⟨rfl, rfl⟩
theorem papplyR : ∀ pa td ta, Statement (.papplyR pa td ta) := fun _ _ _ => ⟨rfl, rfl⟩
theorem papplyL : ∀ pa td ta row, Statement (.papplyL pa td ta row) := fun _ _ _ _ => ⟨rfl, rfl⟩
theorem mcall : ∀ idx obj fl, Statement (.mcall idx obj fl) := fun _ _ _ => ⟨rfl, rfl⟩
theorem mpset : ∀ ma s, Statement (.mpset ma s) := fun _ _ => ⟨rfl, rfl⟩
theorem mpget : ∀ ma s, Statement (.mpget ma s) := fun _ _ => ⟨rfl, rfl⟩
theorem mtset : ∀ t s a, Statement (.mtset t s a) := fun _ _ _ => ⟨rfl, rfl⟩
theorem mtget : ∀ t s, Statement (.mtget t s) := fun _ _ => ⟨rfl, rfl⟩
theorem mtclr : ∀ t, Statement (.mtclr t) := fun _ => ⟨rfl, rfl⟩
theorem mloadp : ∀ s a, Statement (.mloadp s a) := fun _ _ => ⟨rfl, rfl⟩
theorem mbmap : ∀ t, Statement (.mbmap t) := fun _ => ⟨rfl, rfl⟩
theorem pcsrr : ∀ d n, Statement (.pcsrr d n) := fun _ _ => ⟨rfl, rfl⟩
theorem pcsrw : ∀ d n, Statement (.pcsrw d n) := fun _ _ => ⟨rfl, rfl⟩
theorem tlbinv : ∀ a b wa wb, Statement (.tlbinv a b wa wb) := fun _ _ _ _ => ⟨rfl, rfl⟩
theorem strstart : ∀ d a wa, Statement (.strstart d a wa) := fun _ _ _ => ⟨rfl, rfl⟩
theorem strstop : ∀ a wa, Statement (.strstop a wa) := fun _ _ => ⟨rfl, rfl⟩
theorem zero : ∀ m keep, Statement (.zero m keep) := fun _ _ => ⟨rfl, rfl⟩
theorem lda : ∀ m rf rc kb kn, Statement (.lda m rf rc kb kn) := fun _ _ _ _ _ => ⟨rfl, rfl⟩
theorem ldb : ∀ m rf rc kb kn, Statement (.ldb m rf rc kb kn) := fun _ _ _ _ _ => ⟨rfl, rfl⟩
theorem mac : ∀ sp kb kn, Statement (.mac sp kb kn) := fun _ _ _ => ⟨rfl, rfl⟩
theorem bmap : ∀ a b, Statement (.bmap a b) := fun _ _ => ⟨rfl, rfl⟩
theorem loop : ∀ c cnt back, Statement (.loop c cnt back) := fun _ _ _ => ⟨rfl, rfl⟩
theorem adv : ∀ m mode s, Statement (.adv m mode s) := fun _ _ _ => ⟨rfl, rfl⟩
theorem perm : ∀ p, Statement (.perm p) := fun _ => ⟨rfl, rfl⟩
theorem out : ∀ m fmt sat rnd rf rc osh, Statement (.out m fmt sat rnd rf rc osh) := fun _ _ _ _ _ _ _ => ⟨rfl, rfl⟩
theorem sig : ∀ stop msk, Statement (.sig stop msk) := fun _ _ => ⟨rfl, rfl⟩
theorem nop : Statement (.nop) := ⟨rfl, rfl⟩
theorem brk : Statement (.brk) := ⟨rfl, rfl⟩
theorem yield : Statement (.yield) := ⟨rfl, rfl⟩
theorem exit : Statement (.exit) := ⟨rfl, rfl⟩
theorem quant : Statement (.quant) := ⟨rfl, rfl⟩
theorem ifence : Statement (.ifence) := ⟨rfl, rfl⟩
theorem acancelAll : Statement (.acancelAll) := ⟨rfl, rfl⟩
theorem tend : Statement (.tend) := ⟨rfl, rfl⟩
theorem tserial : Statement (.tserial) := ⟨rfl, rfl⟩
theorem mfencep : Statement (.mfencep) := ⟨rfl, rfl⟩
theorem sret : Statement (.sret) := ⟨rfl, rfl⟩
theorem tlbsync : Statement (.tlbsync) := ⟨rfl, rfl⟩
theorem ctxsave : Statement (.ctxsave) := ⟨rfl, rfl⟩
theorem ctxload : Statement (.ctxload) := ⟨rfl, rfl⟩
theorem wfi : Statement (.wfi) := ⟨rfl, rfl⟩
theorem haltc : Statement (.haltc) := ⟨rfl, rfl⟩
theorem end_ : Statement (.end_) := ⟨rfl, rfl⟩
theorem dec : Statement (.dec) := ⟨rfl, rfl⟩
theorem packetFetch : Statement (.packetFetch) := ⟨rfl, rfl⟩
theorem illegalOpcode : Statement (.illegalOpcode) := ⟨rfl, rfl⟩
theorem illegalBundle : Statement (.illegalBundle) := ⟨rfl, rfl⟩
theorem annulledBundle : Statement (.annulledBundle) := ⟨rfl, rfl⟩
theorem repRepetition : Statement (.repRepetition) := ⟨rfl, rfl⟩
theorem resultLanding : Statement (.resultLanding) := ⟨rfl, rfl⟩
theorem longLatencyDelivery : Statement (.longLatencyDelivery) := ⟨rfl, rfl⟩
theorem solveDelivery : Statement (.solveDelivery) := ⟨rfl, rfl⟩
theorem refresh : Statement (.refresh) := ⟨rfl, rfl⟩
theorem rowExpiry : Statement (.rowExpiry) := ⟨rfl, rfl⟩
theorem blockSuspend : Statement (.blockSuspend) := ⟨rfl, rfl⟩
theorem irrevocableSuspend : Statement (.irrevocableSuspend) := ⟨rfl, rfl⟩
theorem tserialSuspend : Statement (.tserialSuspend) := ⟨rfl, rfl⟩
theorem tspawnIdSuspend : Statement (.tspawnIdSuspend) := ⟨rfl, rfl⟩
theorem dispatch : Statement (.dispatch) := ⟨rfl, rfl⟩
theorem contextSave : Statement (.contextSave) := ⟨rfl, rfl⟩
theorem queueTransfer : Statement (.queueTransfer) := ⟨rfl, rfl⟩
theorem dieSteal : Statement (.dieSteal) := ⟨rfl, rfl⟩
theorem agingPromotion : Statement (.agingPromotion) := ⟨rfl, rfl⟩
theorem quantumExpiry : Statement (.quantumExpiry) := ⟨rfl, rfl⟩
theorem waitRequest : Statement (.waitRequest) := ⟨rfl, rfl⟩
theorem objectArrival : Statement (.objectArrival) := ⟨rfl, rfl⟩
theorem wake : Statement (.wake) := ⟨rfl, rfl⟩
theorem waitTimeout : Statement (.waitTimeout) := ⟨rfl, rfl⟩
theorem atomicPerform : Statement (.atomicPerform) := ⟨rfl, rfl⟩
theorem tileRequest : Statement (.tileRequest) := ⟨rfl, rfl⟩
theorem leaseRenewal : Statement (.leaseRenewal) := ⟨rfl, rfl⟩
theorem lineWriteback : Statement (.lineWriteback) := ⟨rfl, rfl⟩
theorem streamPrefetch : Statement (.streamPrefetch) := ⟨rfl, rfl⟩
theorem mloadpCopy : Statement (.mloadpCopy) := ⟨rfl, rfl⟩
theorem matrixCallStart : Statement (.matrixCallStart) := ⟨rfl, rfl⟩
theorem matrixCallEnd : Statement (.matrixCallEnd) := ⟨rfl, rfl⟩
theorem engineCompletion : Statement (.engineCompletion) := ⟨rfl, rfl⟩
theorem arrivalHandlerCreate : Statement (.arrivalHandlerCreate) := ⟨rfl, rfl⟩
theorem seamPulse : Statement (.seamPulse) := ⟨rfl, rfl⟩
theorem faultedTaskRequeue : Statement (.faultedTaskRequeue) := ⟨rfl, rfl⟩
theorem uncorrectableError : Statement (.uncorrectableError) := ⟨rfl, rfl⟩
theorem machineCheck : Statement (.machineCheck) := ⟨rfl, rfl⟩
theorem retryExhausted : Statement (.retryExhausted) := ⟨rfl, rfl⟩
theorem stepStop : Statement (.stepStop) := ⟨rfl, rfl⟩
theorem addressBreak : Statement (.addressBreak) := ⟨rfl, rfl⟩
theorem deadlock : Statement (.deadlock) := ⟨rfl, rfl⟩
theorem launch : Statement (.launch) := ⟨rfl, rfl⟩
theorem launchReplica : Statement (.launchReplica) := ⟨rfl, rfl⟩
theorem startBarrier : Statement (.startBarrier) := ⟨rfl, rfl⟩
theorem startTimeout : Statement (.startTimeout) := ⟨rfl, rfl⟩
theorem launchEnd : Statement (.launchEnd) := ⟨rfl, rfl⟩
theorem preempt : Statement (.preempt) := ⟨rfl, rfl⟩
theorem resume : Statement (.resume) := ⟨rfl, rfl⟩
theorem teardown : Statement (.teardown) := ⟨rfl, rfl⟩
theorem resetq : Statement (.resetq) := ⟨rfl, rfl⟩
theorem query : Statement (.query) := ⟨rfl, rfl⟩
theorem step : Statement (.step) := ⟨rfl, rfl⟩
theorem break_ : Statement (.break_) := ⟨rfl, rfl⟩
theorem record : Statement (.record) := ⟨rfl, rfl⟩
theorem replay : Statement (.replay) := ⟨rfl, rfl⟩
theorem partition : Statement (.partition) := ⟨rfl, rfl⟩
theorem keyload : Statement (.keyload) := ⟨rfl, rfl⟩
theorem bias : Statement (.bias) := ⟨rfl, rfl⟩
theorem errlog : Statement (.errlog) := ⟨rfl, rfl⟩
theorem unknownCommand : Statement (.unknownCommand) := ⟨rfl, rfl⟩
theorem rplnWrite : Statement (.rplnWrite) := ⟨rfl, rfl⟩
theorem arrfWrite : Statement (.arrfWrite) := ⟨rfl, rfl⟩
theorem dmcfgWrite : Statement (.dmcfgWrite) := ⟨rfl, rfl⟩
theorem describedRangeWrite : Statement (.describedRangeWrite) := ⟨rfl, rfl⟩
theorem einjWrite : Statement (.einjWrite) := ⟨rfl, rfl⟩
theorem registerWrite : Statement (.registerWrite) := ⟨rfl, rfl⟩
theorem peerRequest : Statement (.peerRequest) := ⟨rfl, rfl⟩
theorem hostRead : Statement (.hostRead) := ⟨rfl, rfl⟩
theorem hostWrite : Statement (.hostWrite) := ⟨rfl, rfl⟩
theorem hostSnoop : Statement (.hostSnoop) := ⟨rfl, rfl⟩
theorem frameReceive : Statement (.frameReceive) := ⟨rfl, rfl⟩
theorem linkRetry : Statement (.linkRetry) := ⟨rfl, rfl⟩
theorem keyRotation : Statement (.keyRotation) := ⟨rfl, rfl⟩
theorem messageResend : Statement (.messageResend) := ⟨rfl, rfl⟩
theorem deviceRecovery : Statement (.deviceRecovery) := ⟨rfl, rfl⟩
theorem rejoin : Statement (.rejoin) := ⟨rfl, rfl⟩
theorem ptimeOutOfBound : Statement (.ptimeOutOfBound) := ⟨rfl, rfl⟩
theorem powerUp : Statement (.powerUp) := ⟨rfl, rfl⟩
theorem supervisorImageLoad : Statement (.supervisorImageLoad) := ⟨rfl, rfl⟩
theorem pldmRequest : Statement (.pldmRequest) := ⟨rfl, rfl⟩
theorem leaseExpiry : Statement (.leaseExpiry) := ⟨rfl, rfl⟩
theorem accessAtHome : Statement (.accessAtHome) := ⟨rfl, rfl⟩
theorem writeAcknowledgement : Statement (.writeAcknowledgement) := ⟨rfl, rfl⟩
theorem hostResponse : Statement (.hostResponse) := ⟨rfl, rfl⟩
theorem correctedError : Statement (.correctedError) := ⟨rfl, rfl⟩
theorem rejoinTimeout : Statement (.rejoinTimeout) := ⟨rfl, rfl⟩
theorem linkRetrained : Statement (.linkRetrained) := ⟨rfl, rfl⟩
theorem ptimeWithinBound : Statement (.ptimeWithinBound) := ⟨rfl, rfl⟩
theorem powerLoss : Statement (.powerLoss) := ⟨rfl, rfl⟩

end Sys2Proof.Laws.Code
end

