-- ==== Sys2Proof/Tests/Slice0.lean ====
section
/-! SUPPORT. The model's own tests: the smoke test of well-formedness, a word of every instruction decoded, the spec's worked
examples, and for every obligation with hypotheses a state and operands that meet them (witness_<Name>). -/

open Sys2Proof Sys2Proof.Machine Sys2Proof.Safe

namespace Sys2Proof.Tests

-- one test after another: each waits for the kernel, and waiting threads take memory
set_option Elab.async false

/-! ## Well-formedness: each check refuses an ill-formed term -/

/-- R147, R194, R206, R216, R232, R271, R342: instructions with one field at a value that they do not allow. -/
theorem wf_refuses : ∀ i ∈ ([ .sext 1 2 0 3, .zext 1 2 0 7, .beqz 3 1 4, .bnez 3 1 4, .bltz 3 1 4, .bgez 3 1 4, .bgtz 3 1 4, .blez 3 1 4
    , .bbs 3 1 4, .bbc 3 1 4, .susp 1 1, .susp 1 3, .csrr 1 0x15, .csrw 1 0x100, .csrx 1 0x3FF, .rep 32 1 0 0 1 0, .rep 1 0 0 0 0 1
    , .ld 1 2 3 1 0, .ldAcq 1 2 3 1 0 0, .waita 1 2 3 1 0, .evset 1 0 0, .evclr 1 2 0, .evwait 1 2 2 0 ] : List Instr), i.wf = false := by
  decide

/-- R194, R197, R201, R204: row instructions on a type or a format that they do not allow. -/
theorem wf_refuses_rows : ∀ i ∈ ([ .vshl 3 1 2 3 0, .vshr 0 1 2 3 0, .vsra 1 1 2 3 0, .vadds 3 1 2 3 0, .vsubs 2 1 2 3 0, .vmulh 3 1 2 3 0
    , .vcopysign 4 1 2 3 0, .vsqrt 4 1 2 0, .vrcp 5 1 2 0, .vrsq 6 1 2 0, .vexp2 7 1 2 0, .vlog2 4 1 2 0, .vtanh 4 1 2 0, .vfloor 4 1 2 0
    , .vceil 4 1 2 0, .vrint 4 1 2 0, .vcvt 0 1 2 14 0, .vcvts 0 1 2 15 0, .vclz 3 1 2 0, .vpopc 0 1 2 0, .vclass 4 1 2 0
    , .trn8B 1 4 2 0, .trn8H 1 0 2 9, .trn8W 1 8 2 63 ] : List Instr), i.wf = false := by decide

/-- R216, R232, R342, R346: the permutation words that write p0, CSR numbers beyond the privileged ones, routine steps out of range. -/
theorem wf_refuses_others : ∀ i ∈ ([ .pload 0 1 2 3, .psetr 0 1 2, .pcomp 0 1 2, .pinv 0 1, .prand 0 1, .pid 0, .pmov 0 1, .pcsrr 1 0x15
    , .pcsrw 1 0x116, .bmap 0 0, .loop 0 0 1, .loop 0 1 0, .adv 1 3 0, .out 1 0 0 5 0 0 0 ] : List Instr), i.wf = false := by decide

/-- R155: words that versions 2 and 1 lack, and those they keep. -/
theorem wf_versions : (Instr.pid 1).wfIn 2 = false ∧ Instr.tserial.wfIn 2 = false ∧ (Instr.tspawn 1 2 3 4).wfIn 2 = true
    ∧ (Instr.tspawn 1 2 3 4).wfIn 1 = false ∧ (Instr.rep 16 0 0 0 1 0).wfIn 1 = false ∧ (Instr.rep 15 0 0 0 1 0).wfIn 1 = true
    ∧ (Instr.beqz 3 1 4).wfIn 1 = true ∧ (Instr.beqz 3 1 4).wfIn 3 = false ∧ Instr.nop.wfIn 0 = false := by decide

/-! ## Decoding: a word of every instruction, from the encoding tables of 06 -/


/-- R150: a word of each salu instruction, written out field by field. -/
theorem decode_salu : ∀ x ∈ ([
    (0b0_00001_000000_00011_00101_01001_1_0_000#32, 0, .add 3 5 9 1 0)
  , (0b0_00001_000001_00011_00101_01001_1_0_000#32, 0, .sub 3 5 9 1 0)
  , (0b0_00001_000010_00011_00101_01001_1_0_000#32, 0, .and_ 3 5 9 1 0)
  , (0b0_00001_000011_00011_00101_01001_1_0_000#32, 0, .or_ 3 5 9 1 0)
  , (0b0_00001_000100_00011_00101_01001_1_0_000#32, 0, .xor_ 3 5 9 1 0)
  , (0b0_00001_000101_00011_00101_01001_1_0_000#32, 0, .andn 3 5 9 1 0)
  , (0b0_00001_000110_00011_00101_01001_1_0_000#32, 0, .orn 3 5 9 1 0)
  , (0b0_00001_000111_00011_00101_01001_1_0_000#32, 0, .shl 3 5 9 1 0)
  , (0b0_00001_001000_00011_00101_01001_1_0_000#32, 0, .shr 3 5 9 1 0)
  , (0b0_00001_001001_00011_00101_01001_1_0_000#32, 0, .sra 3 5 9 1 0)
  , (0b0_00001_001010_00011_00101_01001_1_0_000#32, 0, .ror 3 5 9 1 0)
  , (0b0_00001_001011_00011_00101_01001_1_0_000#32, 0, .mul 3 5 9 1 0)
  , (0b0_00001_001100_00011_00101_01001_1_0_000#32, 0, .mulh 3 5 9 1 0)
  , (0b0_00001_001101_00011_00101_01001_1_0_000#32, 0, .mulhu 3 5 9 1 0)
  , (0b0_00001_001110_00011_00101_01001_1_0_000#32, 0, .div 3 5 9 1 0)
  , (0b0_00001_001111_00011_00101_01001_1_0_000#32, 0, .divu 3 5 9 1 0)
  , (0b0_00001_010000_00011_00101_01001_1_0_000#32, 0, .rem 3 5 9 1 0)
  , (0b0_00001_010001_00011_00101_01001_1_0_000#32, 0, .remu 3 5 9 1 0)
  , (0b0_00001_010010_00011_00101_01001_1_0_000#32, 0, .min 3 5 9 1 0)
  , (0b0_00001_010011_00011_00101_01001_1_0_000#32, 0, .max 3 5 9 1 0)
  , (0b0_00001_010100_00011_00101_01001_1_0_000#32, 0, .minu 3 5 9 1 0)
  , (0b0_00001_010101_00011_00101_01001_1_0_000#32, 0, .maxu 3 5 9 1 0)
  , (0b0_00001_010110_00011_00101_01001_1_0_000#32, 0, .slt 3 5 9 1 0)
  , (0b0_00001_010111_00011_00101_01001_1_0_000#32, 0, .sltu 3 5 9 1 0)
  , (0b0_00001_011000_00011_00101_01001_1_0_000#32, 0, .seq 3 5 9 1 0)
  , (0b0_00001_011001_00011_00101_01001_1_0_000#32, 0, .sne 3 5 9 1 0)
  , (0b0_00001_011010_00011_00101_00000_1_0_000#32, 0, .clz 3 5 1)
  , (0b0_00001_011011_00011_00101_00000_1_0_000#32, 0, .ctz 3 5 1)
  , (0b0_00001_011100_00011_00101_00000_1_0_000#32, 0, .popc 3 5 1)
  , (0b0_00001_011101_00011_00101_00000_1_0_001#32, 0, .sext 3 5 1 1)
  , (0b0_00001_011110_00011_00101_00000_1_0_001#32, 0, .zext 3 5 1 1)
  , (0b0_00001_011111_00011_00101_01001_1_0_000#32, 0, .cmovz 3 5 9 1 0)
  , (0b0_00001_100000_00011_00101_01001_1_0_000#32, 0, .cmovnz 3 5 9 1 0)
  , (0b0_00001_100001_00011_00101_01001_1_0_111#32, 0, .lea 3 5 9 1 0 7)
  , (0b0_00001_100010_00011_00101_01001_1_0_000#32, 0, .addw 3 5 9 1 0)
  , (0b0_00001_100011_00011_00101_01001_1_0_000#32, 0, .subw 3 5 9 1 0)
  , (0b0_00001_100100_00011_00101_01001_1_0_000#32, 0, .mulw 3 5 9 1 0)
  , (0b0_00001_100101_00011_00101_01001_1_0_000#32, 0, .shlw 3 5 9 1 0)
  , (0b0_00001_100110_00011_00101_01001_1_0_000#32, 0, .shrw 3 5 9 1 0)
  , (0b0_00001_100111_00011_00101_01001_1_0_000#32, 0, .sraw 3 5 9 1 0)
  , (0b0_00001_101000_00011_00101_00000_1_0_000#32, 0, .bswap 3 5 1) ] : List (BitVec 32 × BitVec 32 × Instr)),
    decode x.1 x.2.1 = some x.2.2 := by decide

/-- R150, R147: a word of each simm instruction, written out field by field. -/
theorem decode_simm : ∀ x ∈ ([
    (0b0_00010_000_00011_00101_1000000000001#32, 0, .addi 3 5 0x1001)
  , (0b0_00010_001_00011_00101_1000000000001#32, 0, .andi 3 5 0x1001)
  , (0b0_00010_010_00011_00101_1000000000001#32, 0, .ori 3 5 0x1001)
  , (0b0_00010_011_00011_00101_1000000000001#32, 0, .xori 3 5 0x1001)
  , (0b0_00010_100_00011_00101_1000000000001#32, 0, .slti 3 5 0x1001)
  , (0b0_00010_101_00011_00101_1000000000001#32, 0, .sltiu 3 5 0x1001)
  , (0b0_00010_110_00011_00101_0000000101001#32, 0, .shli 3 5 0x29)
  , (0b0_00010_111_00011_00101_0000000101001#32, 0, .shri 3 5 0x29)
  , (0b0_00010_111_00011_00101_0000001101001#32, 0, .srai 3 5 0x29) ] : List (BitVec 32 × BitVec 32 × Instr)),
    decode x.1 x.2.1 = some x.2.2 := by decide

/-- R150: a word of each constants instruction, written out field by field. -/
theorem decode_constants : ∀ x ∈ ([
    (0b0_00011_00_00011_10_0_1001101010111100#32, 0, .movz 3 2 0x9ABC)
  , (0b0_00011_01_00011_10_0_1001101010111100#32, 0, .movk 3 2 0x9ABC)
  , (0b0_00011_10_00011_10_0_1001101010111100#32, 0, .movn 3 2 0x9ABC)
  , (0b0_00100_00011_00_0000000000000000000#32, 0xDEADBEEF, .movl 3 0xDEADBEEF)
  , (0b0_00100_00011_01_0000000000000000000#32, 0xDEADBEEF, .movlS 3 0xDEADBEEF)
  , (0b0_00100_00011_10_0000000000000000000#32, 0xDEADBEEF, .movlh 3 0xDEADBEEF) ] : List (BitVec 32 × BitVec 32 × Instr)),
    decode x.1 x.2.1 = some x.2.2 := by decide

/-- R150: a word of each branch instruction, written out field by field. -/
theorem decode_branch : ∀ x ∈ ([
    (0b0_00101_000_10_00101_1000000000000001#32, 0, .beqz 2 5 0x8001)
  , (0b0_00101_001_10_00101_1000000000000001#32, 0, .bnez 2 5 0x8001)
  , (0b0_00101_010_10_00101_1000000000000001#32, 0, .bltz 2 5 0x8001)
  , (0b0_00101_011_10_00101_1000000000000001#32, 0, .bgez 2 5 0x8001)
  , (0b0_00101_100_10_00101_1000000000000001#32, 0, .bgtz 2 5 0x8001)
  , (0b0_00101_101_10_00101_1000000000000001#32, 0, .blez 2 5 0x8001)
  , (0b0_00101_110_10_00101_1000000000000001#32, 0, .bbs 2 5 0x8001)
  , (0b0_00101_111_10_00101_1000000000000001#32, 0, .bbc 2 5 0x8001)
  , (0b0_00110_0_1000000000000000000000011#32, 0, .jmp 0x1000003)
  , (0b0_00110_1_1000000000000000000000011#32, 0, .jal 0x1000003) ] : List (BitVec 32 × BitVec 32 × Instr)),
    decode x.1 x.2.1 = some x.2.2 := by decide

/-- R150, R145: a word of each ctrl instruction, written out field by field. -/
theorem decode_ctrl : ∀ x ∈ ([
    (0b0_00111_000000_00000_00000_00000_0_0_000#32, 0, .nop)
  , (0b0_00111_000001_00011_00101_00000_1_0_000#32, 0, .jalr 3 5 1)
  , (0b0_00111_000010_00000_00000_01001_0_0_101#32, 0, .trap 9 5)
  , (0b0_00111_000011_00000_00000_00000_0_0_000#32, 0, .brk)
  , (0b0_00111_000100_00000_00000_00000_0_0_000#32, 0, .yield)
  , (0b0_00111_000101_00000_00101_00000_0_0_101#32, 0, .susp 5 5)
  , (0b0_00111_000110_00000_00000_00000_0_0_000#32, 0, .exit)
  , (0b0_00111_000111_00011_00000_10100_0_0_000#32, 0, .csrr 3 0x14)
  , (0b0_00111_001000_00011_00000_10100_0_0_000#32, 0, .csrw 3 0x14)
  , (0b0_00111_001001_00011_00000_10100_0_0_000#32, 0, .csrx 3 0x14)
  , (0b0_00111_001010_00000_00000_00000_0_0_000#32, 0, .quant)
  , (0b0_01000_100101_0_0110_10_1_101_000000000#32, 0, .rep 0x25 0 6 2 1 5) ] : List (BitVec 32 × BitVec 32 × Instr)),
    decode x.1 x.2.1 = some x.2.2 := by decide

/-- R151, R147: a word of each loads instruction, written out field by field. -/
theorem decode_loads : ∀ x ∈ ([
    (0b0_01001_00011_00111_01_1_00_00_010000001#32, 0, .ld 3 7 1 1 0x81)
  , (0b0_01001_00011_00111_01_1_01_10_010000001#32, 0, .ldAcq 3 7 1 1 2 0x81)
  , (0b0_01010_00011_00111_01_0_00_00_010000001#32, 0, .st 3 7 1 0x81)
  , (0b0_01010_00011_00111_01_0_10_10_010000001#32, 0, .stRel 3 7 1 2 0x81)
  , (0b0_01011_000_0110_101001_00111_10000001#32, 0, .ldr 6 0x29 7 0x81)
  , (0b0_01011_001_0110_101001_00111_10000001#32, 0, .str 6 0x29 7 0x81)
  , (0b0_01011_010_0110_101001_00111_10000001#32, 0, .ldrd 6 0x29 7 0x81)
  , (0b0_01011_011_0110_101001_00111_10000001#32, 0, .strd 6 0x29 7 0x81)
  , (0b0_01011_100_0110_101001_00111_10000001#32, 0, .ldrb 6 0x29 7 0x81)
  , (0b0_01011_101_0000_000000_00111_10000001#32, 0, .pft 7 0x81) ] : List (BitVec 32 × BitVec 32 × Instr)),
    decode x.1 x.2.1 = some x.2.2 := by decide

/-- R151: a word of each atoms instruction, written out field by field. -/
theorem decode_atoms : ∀ x ∈ ([
    (0b0_01100_00000_00011_00101_01001_00000_1#32, 0, .aadd 3 5 9 1)
  , (0b0_01100_00001_00011_00101_01001_00000_1#32, 0, .aand 3 5 9 1)
  , (0b0_01100_00010_00011_00101_01001_00000_1#32, 0, .aor 3 5 9 1)
  , (0b0_01100_00011_00011_00101_01001_00000_1#32, 0, .axor 3 5 9 1)
  , (0b0_01100_00100_00011_00101_01001_00000_1#32, 0, .amin 3 5 9 1)
  , (0b0_01100_00101_00011_00101_01001_00000_1#32, 0, .amax 3 5 9 1)
  , (0b0_01100_00110_00011_00101_01001_00000_1#32, 0, .aminu 3 5 9 1)
  , (0b0_01100_00111_00011_00101_01001_00000_1#32, 0, .amaxu 3 5 9 1)
  , (0b0_01100_01000_00011_00101_01001_00000_1#32, 0, .aswap 3 5 9 1)
  , (0b0_01100_01001_00011_00101_01001_10010_1#32, 0, .acas 3 5 9 0x12 1)
  , (0b0_01100_01010_00011_00101_01001_00000_1#32, 0, .aqinc 3 5 9 1)
  , (0b0_01100_01011_00011_00101_01001_00000_1#32, 0, .aqwrap 3 5 9 1)
  , (0b0_01100_01100_00011_00101_00000_00000_1#32, 0, .aqdec 3 5 1)
  , (0b0_01100_01101_00011_00101_01001_00000_1#32, 0, .aqaddl 3 5 9)
  , (0b0_01100_01110_00011_00101_01001_00000_1#32, 0, .aqchunk 3 5 9)
  , (0b0_01100_01111_00011_00101_01001_00000_1#32, 0, .afadd 3 5 9 1)
  , (0b0_01100_11111_101_0011_0101_1001_101001#32, 0, .vamo 5 3 5 9 0x29) ] : List (BitVec 32 × BitVec 32 × Instr)),
    decode x.1 x.2.1 = some x.2.2 := by decide

/-- R151: a word of each sync instruction, written out field by field. -/
theorem decode_sync : ∀ x ∈ ([
    (0b0_01101_00000_00000_00000_00000_11_10_00#32, 0, .fence 3 2)
  , (0b0_01101_00001_00000_00101_01001_00_10_00#32, 0, .relt 5 9 2)
  , (0b0_01101_00010_00000_00101_01001_00_10_00#32, 0, .acqt 5 9 2)
  , (0b0_01101_00011_00000_00000_00000_00_00_00#32, 0, .ifence)
  , (0b0_01101_00100_00011_00101_00000_00_00_00#32, 0, .arrb 3 5)
  , (0b0_01101_00101_00011_00101_01001_00_00_00#32, 0, .waitb 3 5 9)
  , (0b0_01101_00110_00011_00101_01001_11_10_00#32, 0, .waita 3 5 9 3 2)
  , (0b0_01101_00111_00000_00101_00000_11_10_00#32, 0, .evset 5 3 2)
  , (0b0_01101_01000_00000_00101_00000_11_10_00#32, 0, .evclr 5 3 2)
  , (0b0_01101_01001_00011_00101_00000_11_10_00#32, 0, .evwait 3 5 3 2)
  , (0b0_01101_01010_00011_00101_01001_00_10_00#32, 0, .swin 3 5 9 2)
  , (0b0_01101_01011_00011_00101_00000_00_00_00#32, 0, .swclose 3 5) ] : List (BitVec 32 × BitVec 32 × Instr)),
    decode x.1 x.2.1 = some x.2.2 := by decide

/-- R151, R147: a word of each engines instruction, written out field by field. -/
theorem decode_engines : ∀ x ∈ ([
    (0b0_01110_00000_00011_00101_00000_00000_0#32, 0, .acopy 3 5)
  , (0b0_01110_00001_00011_00101_01001_00000_0#32, 0, .agather 3 5 9)
  , (0b0_01110_00010_00011_00101_01001_00000_0#32, 0, .ascatter 3 5 9)
  , (0b0_01110_00011_00011_00101_01001_00000_0#32, 0, .acoll 3 5 9)
  , (0b0_01110_00100_00011_00101_00000_00000_0#32, 0, .sbind 3 5)
  , (0b0_01110_00101_00011_00101_00000_00000_0#32, 0, .sunb 3 5)
  , (0b0_01110_00110_00011_00101_01001_10010_0#32, 0, .anote 3 5 9 0x12)
  , (0b0_01110_00111_00011_00000_00000_00000_0#32, 0, .acancel 3)
  , (0b0_01110_00111_00000_00000_00000_00000_1#32, 0, .acancelAll) ] : List (BitVec 32 × BitVec 32 × Instr)),
    decode x.1 x.2.1 = some x.2.2 := by decide

/-- R150: a word of each tasks instruction, written out field by field. -/
theorem decode_tasks : ∀ x ∈ ([
    (0b0_01111_00000_00011_00101_01001_10010_0#32, 0, .tspawn 3 5 9 0x12)
  , (0b0_01111_00001_00000_00000_00000_00000_0#32, 0, .tend)
  , (0b0_01111_00010_00000_00101_00000_00000_0#32, 0, .tabort 5)
  , (0b0_01111_00011_00011_00101_00000_00000_0#32, 0, .twait 3 5)
  , (0b0_01111_00100_00000_00000_00000_00000_0#32, 0, .tserial)
  , (0b0_01111_00101_00011_00101_00000_00000_0#32, 0, .tinfo 3 5) ] : List (BitVec 32 × BitVec 32 × Instr)),
    decode x.1 x.2.1 = some x.2.2 := by decide

/-- R152: a word of each row3a instruction, written out field by field. -/
theorem decode_row3a : ∀ x ∈ ([
    (0b0_10000_00000_110_0011_0101_1001_101001#32, 0, .vadd 6 3 5 9 0x29)
  , (0b0_10000_00001_110_0011_0101_1001_101001#32, 0, .vsub 6 3 5 9 0x29)
  , (0b0_10000_00010_110_0011_0101_1001_101001#32, 0, .vmul 6 3 5 9 0x29)
  , (0b0_10000_00011_110_0011_0101_1001_101001#32, 0, .vfma 6 3 5 9 0x29)
  , (0b0_10000_00100_110_0011_0101_1001_101001#32, 0, .vfms 6 3 5 9 0x29)
  , (0b0_10000_00101_110_0011_0101_1001_101001#32, 0, .vfnma 6 3 5 9 0x29)
  , (0b0_10000_00110_110_0011_0101_1001_101001#32, 0, .vmin 6 3 5 9 0x29)
  , (0b0_10000_00111_110_0011_0101_1001_101001#32, 0, .vmax 6 3 5 9 0x29)
  , (0b0_10000_01000_110_0011_0101_1001_101001#32, 0, .vdiv 6 3 5 9 0x29)
  , (0b0_10000_01001_110_0011_0101_1001_101001#32, 0, .vand 6 3 5 9 0x29)
  , (0b0_10000_01010_110_0011_0101_1001_101001#32, 0, .vor 6 3 5 9 0x29)
  , (0b0_10000_01011_110_0011_0101_1001_101001#32, 0, .vxor 6 3 5 9 0x29)
  , (0b0_10000_01100_110_0011_0101_1001_101001#32, 0, .vandn 6 3 5 9 0x29)
  , (0b0_10000_01101_110_0011_0101_1001_101001#32, 0, .vshl 6 3 5 9 0x29)
  , (0b0_10000_01110_110_0011_0101_1001_101001#32, 0, .vshr 6 3 5 9 0x29)
  , (0b0_10000_01111_110_0011_0101_1001_101001#32, 0, .vsra 6 3 5 9 0x29)
  , (0b0_10000_10000_110_0011_0101_1001_101001#32, 0, .vceq 6 3 5 9 0x29)
  , (0b0_10000_10001_110_0011_0101_1001_101001#32, 0, .vclt 6 3 5 9 0x29)
  , (0b0_10000_10010_110_0011_0101_1001_101001#32, 0, .vcle 6 3 5 9 0x29)
  , (0b0_10000_10011_110_0011_0101_1001_101001#32, 0, .vcne 6 3 5 9 0x29)
  , (0b0_10000_10100_110_0011_0101_1001_101001#32, 0, .vadds 6 3 5 9 0x29)
  , (0b0_10000_10101_110_0011_0101_1001_101001#32, 0, .vsubs 6 3 5 9 0x29)
  , (0b0_10000_10110_110_0011_0101_1001_101001#32, 0, .vmulh 6 3 5 9 0x29)
  , (0b0_10000_10111_110_0011_0101_1001_101001#32, 0, .vabsd 6 3 5 9 0x29)
  , (0b0_10000_11000_110_0011_0101_1001_101001#32, 0, .vsel 6 3 5 9 0x29)
  , (0b0_10000_11001_010_0011_0101_1001_101001#32, 0, .vcopysign 2 3 5 9 0x29) ] : List (BitVec 32 × BitVec 32 × Instr)),
    decode x.1 x.2.1 = some x.2.2 := by decide

/-- R152, R148: a word of each row3b instruction, written out field by field. -/
theorem decode_row3b : ∀ x ∈ ([
    (0b0_10001_00000_110_0011_0101_0000_101001#32, 0, .vabs 6 3 5 0x29)
  , (0b0_10001_00001_110_0011_0101_0000_101001#32, 0, .vneg 6 3 5 0x29)
  , (0b0_10001_00010_010_0011_0101_0000_101001#32, 0, .vsqrt 2 3 5 0x29)
  , (0b0_10001_00011_010_0011_0101_0000_101001#32, 0, .vrcp 2 3 5 0x29)
  , (0b0_10001_00100_010_0011_0101_0000_101001#32, 0, .vrsq 2 3 5 0x29)
  , (0b0_10001_00101_010_0011_0101_0000_101001#32, 0, .vexp2 2 3 5 0x29)
  , (0b0_10001_00110_010_0011_0101_0000_101001#32, 0, .vlog2 2 3 5 0x29)
  , (0b0_10001_00111_010_0011_0101_0000_101001#32, 0, .vtanh 2 3 5 0x29)
  , (0b0_10001_01000_010_0011_0101_0000_101001#32, 0, .vfloor 2 3 5 0x29)
  , (0b0_10001_01001_010_0011_0101_0000_101001#32, 0, .vceil 2 3 5 0x29)
  , (0b0_10001_01010_010_0011_0101_0000_101001#32, 0, .vrint 2 3 5 0x29)
  , (0b0_10001_01011_110_0011_0101_1001_101001#32, 0, .vcvt 6 3 5 9 0x29)
  , (0b0_10001_01100_110_0011_0101_1001_101001#32, 0, .vcvts 6 3 5 9 0x29)
  , (0b0_10001_01101_110_0011_0101_0000_101001#32, 0, .vclz 6 3 5 0x29)
  , (0b0_10001_01110_110_0011_0101_0000_101001#32, 0, .vpopc 6 3 5 0x29)
  , (0b0_10001_01111_110_0011_0101_0000_101001#32, 0, .vnot 6 3 5 0x29)
  , (0b0_10001_10000_110_0011_0101_0000_101001#32, 0, .vscan 6 3 5 0x29)
  , (0b0_10001_10001_110_0011_0101_0000_101001#32, 0, .vscanmax 6 3 5 0x29)
  , (0b0_10001_10010_110_0011_0101_0000_101001#32, 0, .vsegscan 6 3 5 0x29)
  , (0b0_10001_10011_010_0011_0101_0000_101001#32, 0, .vclass 2 3 5 0x29) ] : List (BitVec 32 × BitVec 32 × Instr)),
    decode x.1 x.2.1 = some x.2.2 := by decide

/-- R152: a word of each rowx instruction, written out field by field. -/
theorem decode_rowx : ∀ x ∈ ([
    (0b0_10010_00000_0011_101001_0101_010011_0#32, 0, .vmov 3 0x29 5 0x13)
  , (0b0_10010_00001_0011_101001_0101_010011_0#32, 0, .vswap 3 0x29 5 0x13)
  , (0b0_10010_00010_0011_101000_0101_011000_0#32, 0, .trn8B 3 0x28 5 0x18)
  , (0b0_10010_00011_0011_101000_0101_011000_0#32, 0, .trn8H 3 0x28 5 0x18)
  , (0b0_10010_00100_0011_101000_0101_011000_0#32, 0, .trn8W 3 0x28 5 0x18)
  , (0b0_10010_00101_0011_101001_0101_010011_0#32, 0, .vrev 3 0x29 5 0x13)
  , (0b0_10010_00110_0011_101001_0000_000000_0#32, 0, .vzero 3 0x29)
  , (0b0_10010_00111_0011_000000_0000_000000_0#32, 0, .tzero 3)
  , (0b0_10010_01000_0011_000000_0101_000000_0#32, 0, .tmov 3 5) ] : List (BitVec 32 × BitVec 32 × Instr)),
    decode x.1 x.2.1 = some x.2.2 := by decide

/-- R152, R211: a word of each rows instruction, written out field by field. -/
theorem decode_rows : ∀ x ∈ ([
    (0b0_10011_00000_110_0110_101001_10011_000#32, 0, .vbcast 6 6 0x29 0x13)
  , (0b0_10011_00001_110_0110_101001_10011_000#32, 0, .vextr 6 6 0x29 0x13)
  , (0b0_10011_00010_110_0110_101001_10011_000#32, 0, .vredadd 6 6 0x29 0x13)
  , (0b0_10011_00011_110_0110_101001_10011_000#32, 0, .vredmax 6 6 0x29 0x13)
  , (0b0_10011_00100_110_0110_101001_10011_000#32, 0, .vredmin 6 6 0x29 0x13)
  , (0b0_10011_00101_110_0110_101001_10011_000#32, 0, .viota 6 6 0x29 0x13)
  , (0b0_10011_00110_110_0110_101001_00000_101#32, 0, .kfromrow 6 6 0x29 5)
  , (0b0_10011_00111_110_0110_101001_00000_101#32, 0, .ktorow 6 6 0x29 5)
  , (0b0_10011_01000_110_0000_000000_10011_101#32, 0, .kpopc 6 0x13 5)
  , (0b0_10011_01001_110_0000_000000_10011_101#32, 0, .kfirst 6 0x13 5)
  , (0b0_10011_01010_000_0000_000010_10011_101#32, 0, .kmovs 2 0x13 5)
  , (0b0_10011_01011_000_0000_000010_10011_101#32, 0, .kmovd 2 0x13 5)
  , (0b0_10011_01100_000_0011_000000_00101_101#32, 0, .kand 3 5 5)
  , (0b0_10011_01101_000_0011_000000_00101_101#32, 0, .kor 3 5 5)
  , (0b0_10011_01110_000_0011_000000_00101_101#32, 0, .kxor 3 5 5)
  , (0b0_10011_01111_000_0011_000000_00000_101#32, 0, .knot 3 5) ] : List (BitVec 32 × BitVec 32 × Instr)),
    decode x.1 x.2.1 = some x.2.2 := by decide

/-- R153: a word of each perms instruction, written out field by field. -/
theorem decode_perms : ∀ x ∈ ([
    (0b0_10100_00000_011_000_0110_101001_10011#32, 0, .pload 3 6 0x29 0x13)
  , (0b0_10100_00001_000_101_0110_101001_00000#32, 0, .pstore 5 6 0x29)
  , (0b0_10100_00010_000_101_0110_101001_00000#32, 0, .pgetr 5 6 0x29)
  , (0b0_10100_00011_011_000_0110_101001_00000#32, 0, .psetr 3 6 0x29)
  , (0b0_10100_00100_011_101_0110_000000_00000#32, 0, .pcomp 3 5 6)
  , (0b0_10100_00101_011_101_0000_000000_00000#32, 0, .pinv 3 5)
  , (0b0_10100_00110_011_000_0000_000000_10011#32, 0, .prand 3 0x13)
  , (0b0_10100_00111_011_000_0000_000000_00000#32, 0, .pid 3)
  , (0b0_10100_01000_011_101_0000_000000_00000#32, 0, .pmov 3 5)
  , (0b0_10100_01001_000_101_0000_000000_10011#32, 0, .pcyc 5 0x13)
  , (0b0_10100_01010_000_101_0000_000000_10011#32, 0, .pfix 5 0x13)
  , (0b0_10100_01011_000_101_0000_000000_10011#32, 0, .pord 5 0x13)
  , (0b0_10100_01100_000_101_0000_000000_10011#32, 0, .pclen 5 0x13)
  , (0b0_10100_01101_000_101_0110_000000_10011#32, 0, .peq 5 6 0x13)
  , (0b0_10100_10000_101_0011_0101_000_000000_0#32, 0, .papplyR 5 3 5)
  , (0b0_10100_10001_101_0011_0101_000_101001_0#32, 0, .papplyL 5 3 5 0x29) ] : List (BitVec 32 × BitVec 32 × Instr)),
    decode x.1 x.2.1 = some x.2.2 := by decide

/-- R153: a word of each matrix instruction, written out field by field. -/
theorem decode_matrix : ∀ x ∈ ([
    (0b0_10101_00000_10011100_01011_00000101#32, 0, .mcall 0x9C 0xB 5)
  , (0b0_10101_00001_110_0000_10011_00000_0000#32, 0, .mpset 6 0x13)
  , (0b0_10101_00010_110_0000_10011_00000_0000#32, 0, .mpget 6 0x13)
  , (0b0_10101_00011_000_0110_10011_00101_0000#32, 0, .mtset 6 0x13 5)
  , (0b0_10101_00100_000_0110_10011_00000_0000#32, 0, .mtget 6 0x13)
  , (0b0_10101_00101_000_0110_00000_00000_0000#32, 0, .mtclr 6)
  , (0b0_10101_00110_000_0000_10011_00101_0000#32, 0, .mloadp 0x13 5)
  , (0b0_10101_00111_000_0000_00000_00000_0000#32, 0, .mfencep)
  , (0b0_10101_01000_000_0110_00000_00000_0000#32, 0, .mbmap 6) ] : List (BitVec 32 × BitVec 32 × Instr)),
    decode x.1 x.2.1 = some x.2.2 := by decide

/-- R150: a word of each sys instruction, written out field by field. -/
theorem decode_sys : ∀ x ∈ ([
    (0b0_10110_000000_00000_00000_00000_0_0_000#32, 0, .sret)
  , (0b0_10110_000001_00011_01000_10101_0_0_000#32, 0, .pcsrr 3 0x115)
  , (0b0_10110_000010_00011_01000_10101_0_0_000#32, 0, .pcsrw 3 0x115)
  , (0b0_10110_000011_00000_00101_01001_1_0_000#32, 0, .tlbinv 5 9 1 0)
  , (0b0_10110_000100_00000_00000_00000_0_0_000#32, 0, .tlbsync)
  , (0b0_10110_000101_00000_00000_00000_0_0_000#32, 0, .ctxsave)
  , (0b0_10110_000110_00000_00000_00000_0_0_000#32, 0, .ctxload)
  , (0b0_10110_000111_00011_00101_00000_1_0_000#32, 0, .strstart 3 5 1)
  , (0b0_10110_001000_00000_00101_00000_1_0_000#32, 0, .strstop 5 1)
  , (0b0_10110_001001_00000_00000_00000_0_0_000#32, 0, .wfi)
  , (0b0_10110_001010_00000_00000_00000_0_0_000#32, 0, .haltc) ] : List (BitVec 32 × BitVec 32 × Instr)),
    decode x.1 x.2.1 = some x.2.2 := by decide

/-- R232: a word of each routine step. -/
theorem decode_steps : ∀ x ∈ ([
    (0b0000_0000_0000_0000_0000_0000_0000_0000_0000_0000_0000_0000_0000_0000_0000_0000#64, .end_)
  , (0b0001_0101_1000_0000_0000_0000_0000_0000_0000_0000_0000_0000_0000_0000_0000_0000#64, .zero 5 1)
  , (0b0010_0101_1000_0101_0011_1000_0000_0101_0000_0011_0000_0000_0000_0000_0000_0000#64, .lda 5 0x21 0x13 0x201 0x103)
  , (0b0011_0110_1000_0101_0011_1000_0000_0101_0000_0011_0000_0000_0000_0000_0000_0000#64, .ldb 6 0x21 0x13 0x201 0x103)
  , (0b0100_1000_0000_0000_0000_1000_0000_0101_0000_0011_0000_0000_0000_0000_0000_0000#64, .mac 1 0x201 0x103)
  , (0b0101_0000_0000_0000_0000_0000_0000_0000_0000_0000_0000_0000_0000_0000_0000_0000#64, .dec)
  , (0b0110_0000_0000_0000_0000_0000_0000_0000_0000_0000_0000_0000_0000_0000_0000_0010#64, .bmap 1 0)
  , (0b0111_0010_1000_0000_0000_0001_0000_0000_0000_0000_0000_0000_0000_1000_0000_0011#64, .loop 2 0x8001 0x803)
  , (0b1000_0101_0100_0000_0000_0000_0000_0000_0000_0000_0000_0000_1000_0000_0000_0011#64, .adv 5 1 0x8003)
  , (0b1001_0011_0000_0000_0000_0000_0000_0000_0000_0000_0000_0000_0000_0000_0000_0000#64, .perm 3)
  , (0b1010_0101_1001_1100_1000_0101_0011_1000_0011_0000_0000_0000_0000_0000_0000_0000#64, .out 5 9 1 4 0x21 0x13 0x83)
  , (0b1011_0000_0000_0000_0000_0000_0000_0000_0000_0000_0000_0000_0000_0000_0001_1001#64, .sig 1 9) ] : List (BitVec 64 × Instr)),
    decodeStep x.1 = some x.2 := by decide

/-- R147, R149, R154: reserved majors, reserved minors and non-zero unused fields are no instruction. -/
theorem decode_refuses : ∀ w ∈ ([
    0b0_00000_00000000000000000000000000, 0b0_10111_00000000000000000000000000, 0b0_11111_00000000000000000000000000
  , 0b0_00001_101001_00001_00010_00011_0_0_000, 0b0_00001_000000_00001_00010_00011_0_0_001
  , 0b0_00010_110_00001_00010_0000010000000, 0b0_00011_11_00001_00_0_0000000000000000
  , 0b0_00011_00_00001_00_1_0000000000000000, 0b0_00100_00001_11_0000000000000000000
  , 0b0_00101_000_11_00001_0000000000000001, 0b0_00111_001011_00000_00000_00000_0_0_000
  , 0b0_01001_00001_00010_00_0_10_00_000000000, 0b0_01010_00001_00010_00_0_01_00_000000000
  , 0b0_01001_00001_00010_00_0_00_01_000000000, 0b0_01011_110_0001_000000_00001_00000000
  , 0b0_01100_01101_00001_00010_00011_00000_0, 0b0_01101_00000_00000_00000_00000_00_00_01
  , 0b0_01110_00000_00001_00010_00000_00000_1, 0b0_10000_11010_000_0001_0010_0011_000000
  , 0b0_10100_00100_001_010_1110_000000_00000, 0b0_10101_00000_00000000_00000_00001000
  , 0b0_10110_001011_00000_00000_00000_0_0_000 ] : List Nat), decode (BitVec.ofNat 32 w) 0 = none := by decide

/-- R153: the two words of the fragment that the chapter encodes by hand, and the packets it reads (A, C, D). -/
theorem decode_fragment : decode 0xA4A48004 0 = some (.ld 5 4 2 0 4) ∧ decode 0x400088C0 0 = some (.vadd 0 2 2 3 0)
    ∧ decode 0x04031400 0 = some (.add 6 5 0 0 0) ∧ decode 0x1C000000 0 = some .nop ∧ decode 0xA3F08000 0 = some (.rep 63 0 1 0 0 0) := by
  decide

/-- R153: packet A holds a bundle of two words and a NOP; in packet C the bundle of the MOVL is bad (position 0, kind 0); in packet D
two words go to one pipe. -/
theorem packets_of_the_spec :
    ((bundleIn #v[0xA4A48004, 0x400088C0, 0x1C000000] 0).map (fun b => (b.bad, b.words.length))) = some (none, 2)
    ∧ ((bundleIn #v[0xA4A48004, 0x400088C0, 0x1C000000] 4).map (fun b => b.words.length)) = none
    ∧ ((bundleIn #v[0xA4A48004, 0x400088C0, 0x1C000000] 8).map (fun b => b.words.length)) = some 1
    ∧ ((bundleIn #v[0x90E00000, 0x12345678, 0x400088C0] 0).map (fun b => (b.bad, b.words.length))) = some (none, 2)
    ∧ ((bundleIn #v[0x1C000000, 0x90E00000, 0x12345678] 4).map (fun b => b.bad)) = some (some (0, 0))
    ∧ pipeOf 0x84031400 = pipeOf 0x1C000000 := by decide


/-! ## States for the witnesses -/

/-- Does an operation answer this value? -/
def okIs {ε α : Type} [DecidableEq α] (e : Except ε α) (x : α) : Bool :=
  match e with
  | .ok y => decide (y = x)
  | .error _ => false

/-- Does an operation answer this error? -/
def errIs {ε α : Type} [DecidableEq ε] (e : Except ε α) (x : ε) : Bool :=
  match e with
  | .ok _ => false
  | .error y => decide (y = x)

theorem ok_iff {ε α : Type} [DecidableEq α] (e : Except ε α) (x : α) : e = .ok x ↔ okIs e x = true := by
  cases e <;> simp [okIs]

theorem err_iff {ε α : Type} [DecidableEq ε] (e : Except ε α) (x : ε) : e = .error x ↔ errIs e x = true := by
  cases e <;> simp [errIs]

/-- Does an outcome go on to a state of this kind? -/
def goesTo (o : Out1) (f : State → Bool) : Bool :=
  match o with
  | .next t => f t
  | _ => false

theorem goesTo_iff {o : Out1} {f : State → Bool} : (∃ t, o = .next t ∧ f t = true) ↔ goesTo o f = true := by
  cases o <;> simp [goesTo]

/-- A strand in U whose code is NOPs. Its tables: from 0 on the pool, from 0x20000000 on the own scratchpad, from 0x40000000 on the
host with C = 0, from 0x60000000 on the pool without W, from 0x80000000 on described near memory, from 0xA0000000 on the pool
without U. -/
def base : State :=
  let s := State.reset.placed 0x1C000000
  let leaf := fun (s : State) (x : Nat × Nat) => s.pokeAt { tt := 0, pa := BitVec.ofNat 52 (0x40000 + 8 * x.1) } (leBytes 8 x.2)
  let s := [(1, 0x7B + 2 * 2 ^ 52), (2, 0x7B + 3 * 2 ^ 52), (3, 0x6B), (4, 0x17B + 2 ^ 52), (5, 0x3B)].foldl leaf s
  { s with pkg := { s.pkg with dmcfg := s.pkg.dmcfg.set 0 1 } }

/-- The same with a MOVL in the packet, so that its second word is no bundle start. -/
def movlBase : State := State.reset.placed 0x10E00000

/-- The same in S. -/
def sup : State := base.modCur (fun c => { c with level := .s })

/-- A scalar with a value, and one in a state. -/
def withS (s : State) (r : BitVec 5) (v : Word) : State := s.modCur (fun c => c.setS r { v := v })
def inState (s : State) (r : BitVec 5) (x : RegState) : State := s.modCur (fun c => c.setS r { st := x })

/-- The same with an ordered task that has nothing but the set that is given, and is not the oldest. -/
def task (w : List SetRange) : State :=
  let spawn : SpawnState := { pc := 0, npcOff := 0, nnpcOff := 0, s1 := 0, s2 := 0, s3 := 0, s28 := 0, rm := 0 }
  let info : TaskInfo := { ts := 5, tb := [], wset := w, spawn := spawn }
  let old : Strand := { placedStrand with id := 2, isTask := true, ord := true, ts := 1, task := some { info with ts := 1 }, state := .ready }
  let s := base.modCur (fun c => c.modStrand (fun x => { x with isTask := true, ord := true, ts := 5, task := some info }))
  { s with pkg := { s.pkg with strands := [old] } }

/-- The same with a request of the strand in flight. -/
def asking (op : ReqOp) (loc : Phys) (va : Word) : State :=
  { base with pkg := { base.pkg with
      tag := 4
      reqs := [{ sid := base.cur.sid, tag := 3, op := op, loc := loc, va := va, due := 9 }] } }

/-- The same with a matrix call of the strand under way. -/
def calling : State := base.withFetchWord 64 0

/-- A row with a value. -/
def withRow (s : State) (t : BitVec 4) (r : BitVec 6) (v : Row) : State := s.modCur (fun c => c.setRow t r { v := v })

/-- An engine operation of the strand in a slot, of a copy of nothing. -/
def anOp (slot : Nat) (kind : EngKind) : EngOp :=
  { slot := slot, sid := base.cur.sid, lnch := 0, ver := 3, kind := kind, desc := copyDesc (List.replicate 64 0), list := 0, opw := 0
    obj := none, level := .u, satp := base.cur.sc.satp, perm := 0, rm := 0, pc := 0, s28 := 0, tag := 0, due := 0 }

/-- The base state with engine operations, windows, a stream. -/
def withOps (l : List EngOp) : State := { base with core := { base.core with ops := l } }
def withWins (s : State) (l : List Window) : State := { s with core := { s.core with wins := l } }
def withStream (s : State) (k : Fin 4) (x : Stream) : State := s.modCur (fun c => c.modStream k (fun _ => x))

/-- Does an operation answer a value of this kind? -/
def okAnd {ε α : Type} (e : Except ε α) (f : α → Bool) : Bool :=
  match e with
  | .ok x => f x
  | .error _ => false

theorem okAnd_iff {ε α : Type} {e : Except ε α} {f : α → Bool} : (∃ x, e = .ok x ∧ f x = true) ↔ okAnd e f = true := by
  cases e <;> simp [okAnd]

/-- Does a staging step find a row of this kind, and the state after it? -/
def rowAnd (x : RowGet) (f : Row → State → Bool) : Bool :=
  match x with
  | .row v _ u => f v u
  | _ => false

/-- Does a read at issue give bytes of this kind? -/
def readAnd (s : State) (n : Nat) (ea : Word) (p : Phys) (f : List Byte → Bool → State → Bool) : Bool :=
  okIs (s.check .load n n ea) p && !s.accessHeld false ea && (match s.readPieces [(p, n)] with
    | some (bs, bad, v) => f bs bad v
    | none => false)

theorem deviceReads_iff {s : State} {n : Nat} {ea : Word} {p : Phys} {f : List Byte → Bool → State → Bool} :
    (∃ bs bad v, Claim.deviceReads s n ea p bs bad v ∧ f bs bad v = true) ↔ readAnd s n ea p f = true := by
  cases h : s.readPieces [(p, n)] with
  | none => simp [readAnd, Claim.deviceReads, h]
  | some r =>
    obtain ⟨bs, bad, v⟩ := r
    simp only [readAnd, Claim.deviceReads, h, ok_iff, Bool.and_eq_true, Bool.not_eq_true']
    exact ⟨fun ⟨_, _, _, ⟨a, b, e⟩, g⟩ => by cases e; exact ⟨⟨a, b⟩, g⟩, fun ⟨⟨a, b⟩, g⟩ => ⟨bs, bad, v, ⟨a, b, rfl⟩, g⟩⟩

theorem readAnd_iff {s : State} {n : Nat} {ea : Word} {p : Phys} {f : List Byte → Bool → State → Bool} :
    (∃ bs bad v, Claim.reads s n ea p bs bad v ∧ f bs bad v = true) ↔ s.tracking false ea ≠ .undeclared ∧ readAnd s n ea p f = true := by
  rw [← deviceReads_iff]
  exact ⟨fun ⟨b, c, v, h, g⟩ => ⟨h.1, b, c, v, h.2, g⟩, fun ⟨h, b, c, v, k, g⟩ => ⟨b, c, v, ⟨h, k⟩, g⟩⟩

/-- The same with a line that carries poison. -/
def poisonedAt (s : State) (p : Phys) : State := { s with poison := [p.key0 / 64] }

/-- The base state whose strand resumes, by REPC or VAP, at the bundle at PC: the low bits of the register. -/
def repAt (s : State) (i : Word) : State := s.modCur (fun c => { c with u := { c.u with repc := placeAt <<< 8 ||| 0x40 ||| i } })
def vapAt (s : State) (j : Word) : State := s.modCur (fun c => { c with u := { c.u with vap := placeAt <<< 8 ||| 0xC0 ||| j } })

/-- A call under way at step 5 whose matrix arguments name tiles 0 to 7, and a state that runs it. -/
def aCall : MCall := { placedCall base with ma := Vector.ofFn (fun i => BitVec.ofNat 64 i.val), step := 5 }
def runs (m : MCall) : State := { base with core := { base.core with calls := [m] } }

/-- A staged window of one row. -/
def staged (m : BitVec 3) (fmt : BitVec 4) : Staged :=
  { m := m, fmt := fmt, blk := false, rf := 0, lo := 0, rows := [[.val 0 0]], present := [[true]], poisoned := [false], step := 0, n := 0, koff := 0 }

/-- A tile whose element format is `f`. -/
def fmtTile (s : State) (t : BitVec 4) (f : BitVec 32) : State := s.modCur (fun c => c.modTile t (fun x => { x with attr := f }))

/-- The base state with an event's operands; with the clock; with a strand that is not resident; with other parts of the package. -/
def withEv (s : State) (e : EvArgs) : State := { s with ev := e }
def atCyc (s : State) (n : Nat) : State := { s with core := { s.core with cyc := n, isc := n } }
def withStrand (s : State) (x : Strand) : State := { s with pkg := { s.pkg with strands := x :: s.pkg.strands } }
def modPkg (s : State) (f : Pkg → Pkg) : State := { s with pkg := f s.pkg }
def noStrand (s : State) : State := s.modCur (fun c => { c with strand := none })

/-- A strand that waits in the queues. -/
def ready (place : Place) : Strand := { placedStrand with id := 9, recAddr := 0x71000, state := .ready, place := place }

/-- A wait of a strand, and the base state with its strand waiting. -/
def aWait (on : WaitOn) : Wait := { on := on, d := 31, tag := 3, acq := true, sc := 0, deadline := some 0 }
def waiting (w : Wait) : State :=
  let s := base.modCur (fun c => c.modStrand (fun x => { x with state := .parked, wait := some w }))
  withEv s { base.ev with id := base.cur.sid }

/-- A launch on the package's only device, as the firmware of slot 0 has it. -/
def aLaunch : Launch :=
  { lnch := 7, part := 0, gen := 3, devFirst := 0, devLast := 0, receiver := 0, packet := 0, param := 0, prio := 0, cobj := none, slot := some 0
    sections := [], foreign := [], groups := [], pattern := [], ptab := [], holdsPat := false, roots := [], phase := .live, entered := []
    ended := [], since := 0, record := none }

/-- The 128 bytes of a slot that is handed over, and a state with it in slot 0 of a window that ends behind it; the same
with a window of 1 MiB. -/
def slotBytes (op : Nat) (args : List Nat) : List Byte :=
  leBytes 8 (1 + 256 * op) ++ List.replicate 16 0 ++ (args.map (leBytes 8)).flatten ++ List.replicate (104 - 8 * args.length) 0
def hdm : State := modPkg base (fun p => { p with
  carve := [(0, 0, 0x1080)]
  parts := p.parts ++ [{ n := 1, cores := 2, satp := 0, stvec := 0, ver := 3, preempted := false, busy := false }] })
def wide : State := modPkg hdm (fun p => { p with carve := [(0, 0, 0x100000)] })
def cmdState (s : State) (op : Nat) (args : List Nat) : State := s.pokeAt { tt := 1, pa := 0x1000 } (slotBytes op args)

/-- Does firmware take this command now? -/
def takes (s : State) (op : Nat) (args : List Nat) : Prop := (cmdState s op args).cmd (· == op) = some (0, slotBytes op args)


/-! ## Witnesses: for every obligation with hypotheses, states that meet them, each clause's its own -/

theorem witness_ScalarArithmetic : NoCall base ∧ Full base 31 ∧ Full base 0 := by
  simp only [NoCall, Full]; decide +kernel

theorem witness_ImmediateWords : NoCall base ∧ Full base 31 ∧ Full base 0 := by
  simp only [NoCall, Full]; decide +kernel

theorem witness_ScalarSourcesAndFrame :
    (Full (inState base 31 .empty) 0 ∧ (inState base 31 .empty).cur.sst 31 = .empty)
    ∧ (inState base 31 .expired).cur.sst 31 = .expired ∧ (inState base 1 .poisoned).cur.sst 1 = .poisoned
    ∧ ∃ t, exec (.add 31 1 0 0 0) base = .next t ∧ decide (t.iss.verdict = .issued) = true := by
  simp only [Full, goesTo_iff]; decide +kernel

theorem witness_Landing : NoPush base 15 ∧ NoPush base 0 := by
  simp only [NoPush]; decide +kernel

theorem witness_LongLatency : (base.cur.level = .u ∧ (base.mark 5 (.s 31)).marked base.cur.sid 5 (.s 31) = true)
    ∧ (base.mark 5 (.s 31)).cur.level = .u ∧ (base.mark 5 (.s 31)).cur.sid = base.cur.sid ∧ base.cur.saving = none
    ∧ (base.modCur (fun c => { c with saving := some (.ready, 10, .off) })).cur.saving.isSome = true
    ∧ base.marked base.cur.sid 5 (.s 31) = false := by decide +kernel

theorem witness_EnabledFlagTraps :
    let s := base.modCur (fun c => { c with u := { c.u with rm := 0x2100 }, fpHold := some 0 })
    (0x20 : BitVec 6) &&& enables s.cur.u.rm ≠ 0 ∧ (1 : BitVec 6) &&& enables s.cur.u.rm ≠ 0 ∧ s.cur.fpHold = some 0 := by
  decide +kernel

/-- Every branch is taken on some value and not on another. -/
theorem branches_both_ways : ∀ x ∈ Claim.branches, (x.2 0 = true ∧ (x.2 1 = false ∨ x.2 (BitVec.allOnes 64) = false))
    ∨ (x.2 0 = false ∧ (x.2 1 = true ∨ x.2 (BitVec.allOnes 64) = true)) := by
  intro x hx
  simp only [Claim.branches, List.mem_cons, List.not_mem_nil, or_false] at hx
  rcases hx with rfl | rfl | rfl | rfl | rfl | rfl | rfl | rfl <;> decide

theorem witness_BranchesAndJumps :
    NoCall movlBase ∧ Full movlBase 31 ∧ movlBase.curVer ≠ 1
    ∧ movlBase.startOk (movlBase.cur.pc + BitVec.ofNat 64 (4 * movlBase.iss.pos.toNat) + BitVec.ofInt 64 (4 * (0 : BitVec 16).toInt)) = true
    ∧ movlBase.startOk (movlBase.cur.pc + BitVec.ofNat 64 (4 * movlBase.iss.pos.toNat) + BitVec.ofInt 64 (4 * (1 : BitVec 16).toInt)) = false
    ∧ (let s := withS movlBase 31 (placeAt + 1)
       Full s 31 ∧ (s.cur.sv 31).getLsbD 1 = false ∧ s.startOk (s.cur.sv 31 &&& ~~~3) = true)
    ∧ (let s := withS movlBase 31 (placeAt + 4)
       Full s 31 ∧ (s.cur.sv 31).getLsbD 1 = false ∧ s.startOk (s.cur.sv 31 &&& ~~~3) = false)
    ∧ (let s := withS movlBase 31 (placeAt + 2)
       Full s 31 ∧ (s.cur.sv 31).getLsbD 1 = true) := by
  simp only [NoCall, Full]; decide +kernel

theorem witness_ControlWords :
    (NoCall base ∧ base.iss.repMore = false ∧ NotSpec base ∧ base.bundleDone.cur.strand.isSome = true)
    ∧ (NoCall (task []) ∧ (task []).iss.repMore = false ∧ (task []).cur.level = .u ∧ (task []).curSpec = true)
    ∧ (let s := base.modCur (fun c => { c with sc := { c.sc with quantum := 5, qcnt := 5 } })
       NoCall s ∧ s.iss.repMore = false ∧ s.cur.sc.quantum ≠ 0 ∧ s.cur.sc.quantum.toNat ≤ s.cur.sc.qcnt.toNat)
    ∧ (let s := base.modCur (fun c => { c with sc := { c.sc with quantum := 5, qcnt := 4 } })
       NoCall s ∧ s.cur.sc.qcnt.toNat < s.cur.sc.quantum.toNat) ∧ base.cur.sc.quantum = 0 := by
  simp only [NoCall, NotSpec]; decide +kernel

theorem witness_UserCsrs : NoCall base ∧ Full base 31 ∧ base.fflHeld 0x007 = false ∧ base.fflHeld 0x014 = false ∧ base.pkg.launches = []
    ∧ (let s := asking (.strd { fmt := 0, first := 0, lanes := 64, blocks := [] } 0 0 0) { tt := 0, pa := 0 } 0
       let s : State := { s with pkg := { s.pkg with fences := [{ sid := s.cur.sid, tag := 4, ord := 3, sc := 0 }] } }
       NoCall s ∧ Full s 31 ∧ s.fflHeld 0x007 = true) := by
  simp only [NoCall, Full]; decide +kernel

theorem witness_RepWords :
    (NoCall base ∧ base.repResumes = false ∧ (base.cur.sv 0).toNat ≤ 0 ∧ Full base 0)
    ∧ (let s := withS base 31 64
       NoCall s ∧ s.repResumes = false ∧ Full s 31 ∧ (s.cur.sv 31).toNat ≤ (if s.curVer = 1 then 16 else 64) ∧ 0 < (s.cur.sv 31).toNat)
    ∧ (let s := withS base 31 65
       NoCall s ∧ Full s 31 ∧ (if s.curVer = 1 then 16 else 64) < (s.cur.sv 31).toNat)
    ∧ (let s := (withS base 31 17).modCur (fun c => c.modStrand (fun x => { x with ver := 1 }))
       NoCall s ∧ Full s 31 ∧ (if s.curVer = 1 then 16 else 64) < (s.cur.sv 31).toNat)
    ∧ (let s := repAt base 63
       NoCall s ∧ s.repResumes = true ∧ (s.cur.u.repc.extractLsb' 0 6).toNat = 63)
    ∧ (let s := { base.modCur (fun c => { c with repN := some 64 }) with ev := { base.ev with word := 0x23F08000 } }
       decode s.ev.word 0 = some (.rep 63 0 1 0 0 0) ∧ s.cur.repN = some 64) := by
  simp only [NoCall, Full]; decide +kernel

/-- The last word of the own scratchpad below the areas taken from programs, and one of the pool. -/
theorem witness_ScalarMemory :
    (let s := withS base 31 0x2015FFF8
     let p : Phys := { tt := 2, pa := 0x15FFF8 }
     NoCall s ∧ Form s ∧ Full s 31 ∧ Reaches s .load 8 8 (s.eaM 31 3 0) p ∧ Reaches s .store 8 8 (s.eaM 31 3 0) p ∧ s.exposed p = true
      ∧ BankFree s p ∧ NotSpec s ∧ s.releaseWaits s.cur.sid s.pkg.tag 3 = false)
    ∧ (let s := withS base 31 0x1FFFFFFF
       let p : Phys := { tt := 0, pa := 0x1FFFFFFF }
       NoCall s ∧ Form s ∧ Full s 31 ∧ Reaches s .load 1 1 (s.eaM 31 0 0) p ∧ Reaches s .store 1 1 (s.eaM 31 0 0) p
        ∧ s.exposed p = false ∧ NotSpec s) := by
  simp only [NoCall, Full, Form, Reaches, BankFree, NotSpec, ok_iff]; decide +kernel

theorem witness_RowMemory :
    (let s := withS base 31 0x20000100
     let p : Phys := { tt := 2, pa := 0x100 }
     NoCall s ∧ Form s ∧ Full s 31 ∧ NoPush s 15 ∧ (s.cur.rowReg 15 63).st = .full ∧ Reaches s .row 256 256 (s.eaW 31 0) p
      ∧ Reaches s .rowStore 256 256 (s.eaW 31 0) p ∧ Reaches s .row 4 4 (s.eaW 31 0) p ∧ s.exposed p = true ∧ BankFree s p
      ∧ p.pa.toNat % 256 = 0 ∧ (fmtOf (s.efmt 15)).bits = 8 * 4)
    ∧ (let s := fmtTile (withS base 31 0x100) 15 8
       let p : Phys := { tt := 0, pa := 0x100 }
       NoCall s ∧ Form s ∧ Full s 31 ∧ NoPush s 15 ∧ (s.cur.rowReg 15 63).st = .full ∧ Reaches s .row 256 256 (s.eaW 31 0) p
        ∧ Reaches s .rowStore 256 256 (s.eaW 31 0) p ∧ Reaches s .row 1 1 (s.eaW 31 0) p ∧ s.exposed p = false
        ∧ (fmtOf (s.efmt 15)).bits = 8 * 1)
    ∧ (inState base 31 .expired).cur.sst 31 ≠ .full ∧ (fmtOf ((fmtTile base 15 10).efmt 15)).bits < 8 ∧ (fmtOf ((fmtTile base 15 15).efmt 15)).bits < 8 := by
  simp only [NoCall, Full, Form, Reaches, BankFree, NoPush, NotSpec, ok_iff]; decide +kernel

theorem witness_AddressChecks :
    (0x7 : Word).toNat % 8 ≠ 0
    ∧ ((0xC0000000 : Word).toNat % 8 = 0 ∧ base.xlate base.cur.sc.satp 0xC0000000 = .error cPageNotPresent)
    ∧ (base.xlate base.cur.sc.satp 0x60000000 = .ok (0x6B, 29) ∧ Acc.store.writes = true ∧ (0x6B : Word).getLsbD 4 = false)
    ∧ (base.xlate base.cur.sc.satp 0xA0000000 = .ok (0x3B, 29) ∧ base.cur.level = .u ∧ (0x3B : Word).getLsbD 6 = false)
    ∧ (let e : Word := 0x7B + 2 * 2 ^ 52
       base.xlate base.cur.sc.satp 0x20160000 = .ok (e, 29) ∧ permRefused .load base.cur.level e = false
        ∧ base.targetRefused .load 8 (physOf e 29 0x20160000) = true ∧ base.targetRefused .load 8 (physOf e 29 0x2015FFF8) = false)
    ∧ (let s := withS base 31 0x60000000
       let e : TrapInfo := ⟨cPermission, 0x60000000⟩
       Full s 31 ∧ s.check .store 8 8 (s.eaM 31 3 0) = .error e ∧ (s.cur.rowReg 15 63).st = .full
        ∧ s.check .rowStore 256 256 (s.eaW 31 0) = .error e)
    ∧ (let s := withS base 31 0x20160000
       let e : TrapInfo := ⟨cTargetType, 0x20160000⟩
       Full s 31 ∧ NoPush s 15 ∧ s.check .load 8 8 (s.eaM 31 3 0) = .error e ∧ s.check .row 256 256 (s.eaW 31 0) = .error e)
    ∧ (let s := withS (task []) 31 0x100
       let p : Phys := { tt := 0, pa := 0x100 }
       Full s 31 ∧ s.check .load 8 8 (s.eaM 31 3 0) = .ok p ∧ s.tracking false (s.eaM 31 3 0) = .undeclared
        ∧ s.check .store 8 8 (s.eaM 31 3 0) = .ok p ∧ s.tracking true (s.eaM 31 3 0) = .undeclared) := by
  simp only [Full, NoPush, ok_iff, err_iff]; decide +kernel

/-- Described near memory of zeros (a good block of f32), and the same with a header of another format. -/
theorem witness_DescribedRows :
    (let s := withS base 31 0x80000000
     let bl := [0, 1, 2, 3, 4].map (fun i => (i, ({ tt := 1, pa := BitVec.ofNat 52 (64 * i), d := true } : Phys)))
     NoCall s ∧ Full s 31 ∧ NoPush s 15 ∧ (s.cur.rowReg 15 63).st = .full ∧ Claim.rowReaches s .described 15 31 0 bl
      ∧ Claim.rowReaches s .describedStore 15 31 0 bl
      ∧ ∀ b ∈ bl.map (fun b => (b.1, b.2, hdrOf (s.headerOf b.2))), hdrFault (s.efmt 15) true b.2.2 = false)
    ∧ (let s := (withS base 31 0x80000000).pokeAt { tt := 1, pa := 64 } [5]
       let bl := [0, 1, 2, 3, 4].map (fun i => (i, ({ tt := 1, pa := BitVec.ofNat 52 (64 * i), d := true } : Phys)))
       NoCall s ∧ Full s 31 ∧ NoPush s 15 ∧ Claim.rowReaches s .described 15 31 0 bl
        ∧ ((bl.map (fun b => (b.1, b.2, hdrOf (s.headerOf b.2)))).find? (fun b => hdrFault (s.efmt 15) true b.2.2)).map
            (fun b => b.1) = some 1)
    ∧ (let s := fmtTile base 15 15
       NoCall s ∧ Full s 31 ∧ NoPush s 15 ∧ (fmtOf (s.efmt 15)).bits = 0) := by
  simp only [NoCall, Full, NoPush, Claim.rowReaches, ok_iff]; decide +kernel


theorem witness_AtomicEffects :
    (let p : Phys := { tt := 0, pa := 0x10 }
     let q := fun (fn : BitVec 5) => ({ sid := 1, tag := 0, op := .atomic fn ((1 : BitVec 1) == 1) 1 0 31, loc := p, due := 0 } : Req)
     Form base ∧ (q 13).op = .atomic 13 ((1 : BitVec 1) == 1) 1 0 31 ∧ (q 14).host = false ∧ Claim.plainPlace base p (Claim.atomSize 1)
      ∧ Claim.plainPlace base p (Claim.atomSize 0) ∧ (base.atHome p 16).badAt p 16 = false ∧ base.copyOf p = none ∧ base.ownSpad p = false)
    ∧ (∃ v, (atomicOp 0 true 1 1 0 0).1 = some v) ∧ (atomicOp 12 true 0 0 0 0).1 = none := by
  refine ⟨?_, ⟨2, by decide⟩, by decide⟩
  simp only [Form, Claim.plainPlace]; decide +kernel

/-- The host port supports a size of AtomicOp or it does not: each case has its clause. -/
theorem host_support (n : Nat) : Config.hostAtomicSupport n = true ∨ Config.hostAtomicSupport n = false := by
  cases Config.hostAtomicSupport n <;> simp

theorem witness_ScalarAtomics :
    (let s := withS base 31 0x10
     let p : Phys := { tt := 0, pa := 0x10 }
     Full s 31 ∧ Full s 0 ∧ Claim.mayAtom s (Claim.atomSize 1) 0x10 p ∧ Claim.mayAtom s (Claim.atomSize 0) 0x10 p ∧ Claim.mayAtom s 16 0x10 p)
    ∧ (let s := withS base 31 0x40000008
       let p : Phys := { tt := 3, pa := 8 }
       NoCall s ∧ NotSpec s ∧ Full s 31 ∧ Full s 0 ∧ s.check .atomic (Claim.atomSize 1) (Claim.atomSize 1) (s.cur.sv 31) = .ok p
        ∧ s.check .atomic (Claim.atomSize 0) (Claim.atomSize 0) (s.cur.sv 31) = .ok p ∧ p.hostOp = true
        ∧ s.tracking true (s.cur.sv 31) ≠ .undeclared ∧ s.accessHeld true (s.cur.sv 31) = false ∧ s.cur.hostOp = none)
    ∧ (∀ x ∈ ([.value 7, .unsupported] : List HostAns),
        let s := (withS base 31 0x40000008).modCur (fun c => { c with hostOp := some (0x40000008, x) })
        NoCall s ∧ NotSpec s ∧ s.check .atomic 8 8 (s.cur.sv 31) = .ok { tt := 3, pa := 8 } ∧ s.accessHeld true (s.cur.sv 31) = false
          ∧ s.tracking true (s.cur.sv 31) ≠ .undeclared ∧ s.cur.hostOp = some (s.cur.sv 31, x)) := by
  refine ⟨?_, ?_, ?_⟩ <;> simp only [NoCall, Full, NotSpec, BankFree, Claim.mayAtom, ok_iff] <;> decide +kernel

theorem witness_VectorAtomics :
    (NoCall base ∧ NotSpec base ∧ (base.cur.rowReg 15 63).st = .full ∧ NoPush base 14 ∧ base.vapResumes = false
      ∧ ∀ k, k < 32 → base.vamoCheck 0 (Claim.vamoLane base 15 63 k) = .ok { tt := 0, pa := 0 }
        ∧ base.accessHeld true (Claim.vamoLane base 15 63 k) = false ∧ base.exposed { tt := 0, pa := 0 } = false)
    ∧ (({ tt := 0, pa := 0 } : Phys).hostOp = false)
    ∧ (let s := withRow (vapAt base 31) 14 63 0
       NoCall s ∧ s.vapResumes = true ∧ (s.cur.u.vap.extractLsb' 0 6).toNat = 31 ∧ s.cur.isEmpty (.row 14 63) = false
        ∧ s.vamoCheck 0 (Claim.vamoLane s 15 63 31) = .ok { tt := 0, pa := 0 })
    ∧ (let s := withRow base 15 63 (BitVec.ofNat 2048 (2 ^ (64 * 31)))
       NoCall s ∧ NotSpec s ∧ (s.cur.rowReg 15 63).st = .full ∧ NoPush s 14 ∧ s.vapResumes = false
        ∧ (∀ k, k < 31 → s.vamoCheck 0 (Claim.vamoLane s 15 63 k) = .ok { tt := 0, pa := 0 }
          ∧ s.accessHeld true (Claim.vamoLane s 15 63 k) = false)
        ∧ s.vamoCheck 0 (Claim.vamoLane s 15 63 31) = .error ⟨cMisaligned, 1⟩)
    ∧ (let s := withRow base 15 63 1
       (s.cur.rowReg 15 63).st = .full ∧ s.vapResumes = false ∧ s.vamoCheck 0 (Claim.vamoLane s 15 63 0) = .error ⟨cMisaligned, 1⟩) := by
  simp only [NoCall, NotSpec, NoPush, ok_iff, err_iff]; decide +kernel

theorem witness_Fences :
    (let s := asking (.load 8 .none) { tt := 0, pa := 0x4000 } 0x4000
     NoCall s ∧ NotSpec s ∧ ∀ q ∈ s.pkg.reqs, q.sid = s.cur.sid ∧ q.tag < s.pkg.tag ∧ q.op.isRead = true ∧ q.old = false ∧ q.op ≠ .ack
      ∧ s.awaited 0 q = true ∧ inRange (0x4000, 0x4000) q.va = true)
    ∧ (let s := asking (.store [1]) { tt := 0, pa := 0x7FFF } 0x7FFF
       NoCall s ∧ NotSpec s ∧ ∀ q ∈ s.pkg.reqs, q.sid = s.cur.sid ∧ q.tag < s.pkg.tag ∧ q.op.isWrite = true
        ∧ s.awaited 3 q = true ∧ s.awaited 0 q = true ∧ inRange (0x4000, 0x4000) q.va = true)
    ∧ (let s := withS base 31 0x3FFF
       Full s 31 ∧ (s.cur.sv 31).toNat % 16384 ≠ 0)
    ∧ (let s := withS (withS (asking (.store [1]) { tt := 0, pa := 0x7FFF } 0x7FFF) 31 0x4000) 30 1
       Full s 31 ∧ Full s 30 ∧ (s.cur.sv 31).toNat % 16384 = 0 ∧ 1 = min (s.cur.sv 30).toNat 65536
        ∧ s.pagesReadable (4 * 1) (s.cur.sv 31) (1 * 16384) = .ok ())
    ∧ (0 = min (base.cur.sv 0).toNat 65536 ∧ (base.cur.sv 0).toNat % 16384 = 0)
    ∧ (let s := asking .ack { tt := 0, pa := 0 } 0
       NoCall s ∧ NotSpec s ∧ s.pkg.reqs ≠ [] ∧ ∀ q ∈ s.pkg.reqs, q.sid = s.cur.sid → q.op = .ack) := by
  simp only [NoCall, NotSpec, Full, ok_iff]; decide +kernel

/-- An object of the pool with its fields. -/
def objAt (expected arrived flags : Nat) : State :=
  base.pokeAt { tt := 0, pa := 0x1000 } (leBytes 4 7 ++ leBytes 2 expected ++ leBytes 2 arrived ++ List.replicate 12 0 ++ leBytes 4 flags)

theorem witness_Objects :
    let p : Phys := { tt := 0, pa := 0x1000 }
    (∀ x ∈ ([(0, 0, 0), (2, 1, 8), (2, 0, 0), (65535, 65534, 4), (1, 0, 1)] : List (Nat × Nat × Nat)),
      let s := objAt x.1 x.2.1 x.2.2
      Claim.plainPlace s p 32 ∧ Claim.num s p.key0 4 = 7 ∧ Claim.num s (p.key0 + 4) 2 = x.1
        ∧ Claim.num s (p.key0 + 6) 2 = x.2.1 ∧ Claim.num s (p.key0 + 20) 4 = x.2.2)
    ∧ Form (objAt 2 0 0) ∧ Form (objAt 1 0 1) ∧ p.pa.toNat + 32 ≤ 2 ^ 52
    ∧ ([6, 5, 0x80000008, 7, 8, 0x80000007] : List (BitVec 32)).map (fun t => (7 + 2 ^ 32 - t.toNat) % 2 ^ 32)
        = [1, 2, 2 ^ 31 - 1, 0, 2 ^ 32 - 1, 2 ^ 31] := by
  simp only [Form, Claim.num, Claim.plainPlace]; decide +kernel

theorem witness_WindowWords :
    let p : Phys := { tt := 2, pa := 0 }
    let hyp := fun (s : State) (p : Phys) => NoCall s ∧ NotSpec s ∧ Full s 31 ∧ s.windowAddr (s.cur.sv 31) = .ok p ∧ s.ownSpad p = true
    (hyp (withS base 31 0x20003FFF) { tt := 2, pa := 0x3FFF })
    ∧ (hyp (withS base 31 0x20000000) p ∧ (withS base 31 0x20000000).core.wins = []
      ∧ (withS base 31 0x20000000).windowMeets 0 (88 * 0x4000) = false
      ∧ 0x1E0000 - (base.core.rpln.extractLsb' 0 7).toNat * 0x4000 = 88 * 0x4000)
    ∧ (let s := withWins (withS base 31 0x20000000) (List.replicate 8 { base := 0x8000, tiles := 1, sc := 1 })
       hyp s p ∧ s.windowMeets 0 (2 * 0x4000) = false ∧ s.core.wins.length = 8 ∧ s.windowMeets 0 (3 * 0x4000) = true)
    ∧ (let s := withWins (withS base 31 0x20000000) [{ base := 0, tiles := 1, sc := 1 }]
       hyp s p ∧ (∀ w ∈ s.core.wins, w.base = p.pa.extractLsb' 0 21 ∧ w.closing = none) ∧ ∀ e ∈ s.core.dir, e.newer = [])
    ∧ (let s := withWins (withS base 31 0x20000000) [{ base := 0, tiles := 1, sc := 1, closing := some (9, 9, 9) }]
       hyp s p ∧ ∀ w ∈ s.core.wins, w.base = p.pa.extractLsb' 0 21 → w.closing.isSome = true) := by
  simp only [NoCall, NotSpec, Full, ok_iff]; decide +kernel

theorem witness_SyncAndSuspend :
    (let s := withS base 31 0x20000020
     let p : Phys := { tt := 2, pa := 0x20 }
     s.accessPending p 32 = false ∧ s.bankBusy p = false ∧ p.tt ≠ 4 ∧ s.exposed p = true ∧ Full s 31 ∧ s.iss.susp = none
      ∧ BankFree s p ∧ Reaches s .load 8 8 (s.cur.sv 31) p)
    ∧ (let s := modPkg (withS (task []) 31 0x20) (fun p => { p with strands := [] })
       NoCall s ∧ NotSpec s ∧ Full s 31 ∧ s.checkObj (s.cur.sv 31) = .ok { tt := 0, pa := 0x20 } ∧ s.tracking true (s.cur.sv 31) = .undeclared)
    ∧ (let s := withS base 31 0x20
       let p : Phys := { tt := 0, pa := 0x20 }
       NoCall s ∧ NotSpec s ∧ Full s 31 ∧ Full s 0 ∧ s.checkObj (s.cur.sv 31) = .ok p ∧ s.cur.strand.isSome = true
        ∧ s.check .load 8 8 (s.cur.sv 31) = .ok p ∧ s.accessHeld true (s.cur.sv 31) = false ∧ s.accessHeld false (s.cur.sv 31) = false
        ∧ s.accessHeld true 0 = false ∧ s.tracking true (s.cur.sv 31) ≠ .undeclared ∧ s.tracking false (s.cur.sv 31) ≠ .undeclared
        ∧ s.iss.repMore = false ∧ s.iss.putOff = false ∧ Reaches s .load 8 8 (s.cur.sv 31) p
        ∧ s.exposed p = false ∧ s.bundleDone.cur.strand.isSome = true
        ∧ ∃ bs bad v, Claim.reads s.irrev 32 (s.cur.sv 31) p bs bad v ∧ (!bad) = true)
    ∧ (let p : Phys := { tt := 0, pa := 0x20 }
       let s := poisonedAt (withS base 31 0x20) p
       ∃ bs bad v, Claim.reads s.irrev 32 (s.cur.sv 31) p bs bad v ∧ bad = true)
    ∧ (∀ b ∈ [true, false], let s : State := { base with iss := { base.iss with repMore := b, putOff := !b } }
       s.iss.susp = none ∧ s.iss.repMore = b ∧ s.iss.putOff = !b)
    ∧ (let w := aWait (.susp { tt := 0, pa := 0x20 } none)
       let s : State := { base with iss := { base.iss with susp := some w } }
       s.iss.susp = some w ∧ s.iss.repMore = false ∧ s.iss.putOff = false ∧ s.bundleDone.cur.strand.isSome = true)
    ∧ (let s := withS base 31 0x30
       Full s 31 ∧ s.checkObj (s.cur.sv 31) = .error ⟨cMisaligned, 0x30⟩) := by
  refine ⟨?_, ?_, ?_, ?_, ?_, ?_, ?_⟩ <;> (try simp only [NoCall, NotSpec, Full, Reaches, BankFree, ok_iff, err_iff, readAnd_iff]) <;> decide +kernel

theorem witness_WaitingWordsComplete :
    (let s := withS base 31 0x20000020
     let p : Phys := { tt := 2, pa := 0x20 }
     NoCall s ∧ NotSpec s ∧ Full s 31 ∧ Full s 0 ∧ s.cur.strand.isSome = true ∧ s.checkObj (s.cur.sv 31) = .ok p
      ∧ s.accessHeld true (s.cur.sv 31) = false ∧ s.accessHeld false (s.cur.sv 31) = false ∧ s.check .load 8 8 (s.cur.sv 31) = .ok p
      ∧ s.check .load 32 32 (s.cur.sv 31) = .ok p ∧ s.exposed p = true ∧ s.accessPending p 32 = false ∧ s.bankBusy p = false
      ∧ s.badAt p 32 = false ∧ s.accessHeld true 0 = false ∧ Reaches s .load 8 8 (s.cur.sv 31) p ∧ s.iss.susp = none
      ∧ s.iss.repMore = false ∧ s.iss.putOff = false ∧ s.repResumes = false ∧ s.curVer ≠ 1
      ∧ s.tracking true (s.cur.sv 31) ≠ .undeclared ∧ s.tracking false (s.cur.sv 31) ≠ .undeclared ∧ BankFree s p)
    ∧ (let s := { (repAt base 7).modCur (fun c => { c with repN := some 64 }) with ev := { base.ev with word := 0x23F08000 } }
       decode s.ev.word 0 = some (.rep 63 0 1 0 0 0) ∧ s.cur.repN = some 64) := by
  simp only [NoCall, NotSpec, Full, Reaches, BankFree, ok_iff]; decide +kernel

theorem witness_EngineWords :
    (let s := withS (withS base 31 0x40) 30 0x1020
     let p : Phys := { tt := 0, pa := 0x40 }
     NoCall s ∧ NotSpec s ∧ Full s 31 ∧ Full s 30 ∧ s.freeSlot = some 0
      ∧ (∃ bs bad v, Claim.reads s.irrev 64 (s.cur.sv 31) p bs bad v ∧ (!bad && !(copyDesc bs).pe
          && okIs ((v.noteTlb s.cur.sc.satp (s.cur.sv 31)).objOf 30) (some { tt := 0, pa := 0x1020 })
          && okIs ((v.noteTlb s.cur.sc.satp (s.cur.sv 31)).objOf 0) none) = true)
      ∧ (let s := poisonedAt s p
         ∃ bs bad v, Claim.reads s.irrev 64 (s.cur.sv 31) p bs bad v
          ∧ (bad && okIs ((v.noteTlb s.cur.sc.satp (s.cur.sv 31)).objOf 0) none) = true))
    ∧ PermFull base 7
    ∧ (let s := withOps ((List.range 7).map (fun i => anOp i .copy))
       NoCall s ∧ NotSpec s ∧ Full s 31 ∧ s.freeSlot = some 7)
    ∧ (let s := withOps ((List.range 8).map (fun i => anOp i .copy))
       NoCall s ∧ NotSpec s ∧ Full s 31 ∧ s.freeSlot = none)
    ∧ (let s := withS base 31 0x60
       Full s 31 ∧ s.freeSlot ≠ none ∧ s.check .load 64 64 (s.cur.sv 31) = .error ⟨cMisaligned, 0x60⟩) := by
  simp only [NoCall, NotSpec, Full, PermFull, err_iff, readAnd_iff]; decide +kernel

theorem witness_NotifyAndCancel :
    (let s := withS base 31 0x20000008
     let p : Phys := { tt := 2, pa := 8 }
     NoCall s ∧ NotSpec s ∧ Form s ∧ Full s 31 ∧ Full s 30 ∧ s.freeSlot = some 0 ∧ Reaches s .store 8 8 (s.cur.sv 31) p
      ∧ s.exposed p = true ∧ s.core.arrivals.length < 64)
    ∧ (let s := withS base 31 8
       let p : Phys := { tt := 0, pa := 8 }
       NoCall s ∧ NotSpec s ∧ Form s ∧ Full s 31 ∧ s.freeSlot = some 0 ∧ Reaches s .store 8 8 (s.cur.sv 31) p ∧ s.exposed p = false)
    ∧ (let s := withOps [anOp 0 .copy, anOp 1 .note, { anOp 2 .gather with sid := 9 }]
       NoCall s ∧ NotSpec s ∧ Full s 31
        ∧ s.core.ops.map (fun o => decide (o.sid = s.cur.sid ∧ o.kind ≠ .note ∧ o.ended = false ∧ o.stop = none)) = [true, false, false]
        ∧ s.xlate s.cur.sc.satp (s.cur.sv 31) = .ok (0x7B, 29))
    ∧ (let s := withS base 31 0xC0000000
       Full s 31 ∧ s.xlate s.cur.sc.satp (s.cur.sv 31) = .error cPageNotPresent) := by
  simp only [NoCall, NotSpec, Form, Full, Reaches, ok_iff, err_iff]; decide +kernel

theorem witness_StreamWords :
    let p : Phys := { tt := 0, pa := 0x1000 }
    let good := fun (bs : List Byte) (b : Nat) => let x := streamOf bs 0 0
      decide (x.base.toNat % 256 = b ∧ x.s0.toNat % 256 = 0 ∧ x.s1.toNat % 256 = 0 ∧ x.s2.toNat % 256 = 0 ∧ x.s3.toNat % 256 = 0 ∧ x.tile = 0)
    (let s := withS base 31 0x1000
     NoCall s ∧ NotSpec s ∧ Full s 31 ∧ (∀ k, (s.cur.streams.get k).bound = false)
      ∧ (∃ bs bad v, Claim.reads s.irrev 64 (s.cur.sv 31) p bs bad v ∧ (!bad && good bs 0) = true)
      ∧ ∃ bs bad v, Claim.reads (poisonedAt s p).irrev 64 (s.cur.sv 31) p bs bad v ∧ bad = true)
    ∧ (let s := (withS base 31 0x1000).pokeAt p (List.replicate 8 255 ++ List.replicate 56 255)
       ∃ bs bad v, Claim.reads s.irrev 64 (s.cur.sv 31) p bs bad v ∧ (!bad && decide ((streamOf bs 0 0).base.toNat % 256 ≠ 0)) = true)
    ∧ (let s := withStream (withS base 31 3) 3 { bound := true, tile := 0, done := 5, ovr := true }
       NoCall s ∧ Full s 31 ∧ (s.cur.sv 31).toNat = (3 : Fin 4).val ∧ (s.cur.streams.get 3).bound = true ∧ (s.cur.streams.get 3).out = false
        ∧ (s.cur.streams.get 3).tile = 0 ∧ (s.cur.streams.get 0).bound = false)
    ∧ (let s := (withStream (withS base 31 0) 0 { bound := true, out := true, tile := 9 }).push 4 (.write (.row 9 3) 0 0 false)
       NoCall s ∧ Full s 31 ∧ (s.cur.sv 31).toNat = (0 : Fin 4).val ∧ (s.cur.streams.get 0).bound = true ∧ (s.cur.streams.get 0).out = true
        ∧ s.rowsComing (s.cur.streams.get 0).tile ≠ 0)
    ∧ (let s := withStream (withS base 31 0) 0 { bound := true, out := true, tile := 9 }
       (s.cur.streams.get 0).out = true ∧ s.rowsComing (s.cur.streams.get 0).tile = 0 ∧ s.rowsPushed 0 = 0)
    ∧ (∀ j, (([0, 1, 2, 3] : List (Fin 4)).foldl (fun s k => withStream s k { bound := true, tile := 9 }) base).cur.streams.get j
        |>.bound)
    ∧ (let s := withS base 31 4
       Full s 31 ∧ 4 ≤ (s.cur.sv 31).toNat) := by
  simp only [NoCall, NotSpec, Full, readAnd_iff]; decide +kernel

theorem witness_EndsOfRuns :
    (base.iss.repMore = false ∧ base.endHeld = false ∧ base.bundleDone.cur.strand.map Strand.ord = some false)
    ∧ ((task []).iss.repMore = false ∧ (task []).endHeld = false ∧ (task []).bundleDone.cur.strand.map Strand.ord = some true)
    ∧ (Full base 31 ∧ base.iss.endVal = none ∧ base.cur.strand.map Strand.ord = some false)
    ∧ (let s := withS (task []) 31 1
       Full s 31 ∧ Full s 0 ∧ s.iss.repMore = false ∧ s.iss.endVal = none ∧ s.cur.strand.map (fun x => (x.ord, x.task.map TaskInfo.irrev)) = some (true, some false)
        ∧ (s.cur.sv 31).toNat % 2 = 1 ∧ (s.cur.sv 0).toNat % 2 = 0)
    ∧ (let s := (task []).modCur (fun c => c.modStrand (fun x => { x with task := x.task.map (fun t => { t with irrev := true }) }))
       Full s 31 ∧ s.iss.endVal = none ∧ s.cur.strand.map (fun x => (x.ord, x.task.map TaskInfo.irrev)) = some (true, some true)) := by
  simp only [Full]; decide +kernel

/-- A record of a task that may be spawned, unordered or ordered, at 0x1000; and the strand an ordered task that has spawned `n`. -/
def templateState (ord : Nat) : State := (withS base 31 0x1000).pokeAt { tt := 0, pa := 0x1028 } (leBytes 8 (0x10000 + ord * 0x20000))
def spawner (n : Nat) : State :=
  (withS (templateState 1) 30 5).modCur (fun c => { c with strand := (task []).cur.strand.map (fun x =>
    { x with task := x.task.map (fun t => { t with spawned := n }) }) })

theorem witness_TaskPipe :
    let p : Phys := { tt := 0, pa := 0x1000 }
    let isTask := fun (bs : List Byte) (ord : Bool) => let x := taskRec bs
      decide (x.v.w5.getLsbD 16 = true ∧ x.v.w5.getLsbD 17 = ord ∧ x.v.live = 0 ∧ x.v.rset = 0 ∧ x.v.wset = 0)
    let ready := fun (s v : State) (bs : List Byte) => let u := v.noteTlb s.cur.sc.satp (s.cur.sv 31)
      okAnd (u.checkRange s.cur.level s.cur.sc.satp .store (taskRec bs).v.img 768) (fun _ => true) && u.newId.isSome && !u.curSpec
    (let s := templateState 0
     NoCall s ∧ Full s 31 ∧ Full s 0 ∧ s.templateAt (s.cur.sv 31) = .ok () ∧ s.unperformed = false
      ∧ (∃ bs bad v, Claim.deviceReads s 128 (s.cur.sv 31) p bs bad v ∧ (!bad && isTask bs false && ready s v bs) = true)
      ∧ (let s := poisonedAt s p
         s.templateAt (s.cur.sv 31) = .ok () ∧ ∃ bs bad v, Claim.deviceReads s 128 (s.cur.sv 31) p bs bad v ∧ bad = true))
    ∧ (let s := spawner 0
       NoCall s ∧ s.templateAt (s.cur.sv 31) = .ok () ∧ s.unperformed = false ∧ Full s 30 ∧ s.cur.strand.map (fun x => (x.ord, x.ts)) = some (true, 5)
        ∧ ∃ bs bad v, Claim.deviceReads s 128 (s.cur.sv 31) p bs bad v ∧ (!bad && isTask bs true
          && (let u := v.noteTlb s.cur.sc.satp (s.cur.sv 31)
              u.newId.isSome && okAnd (u.checkRange s.cur.level s.cur.sc.satp .store (taskRec bs).v.img 768) (fun _ => true)
                && okAnd (u.orderCheck (s.cur.sv 30)) (fun _ => true))) = true)
    ∧ (let s := spawner 65536
       (s.cur.strand.bind Strand.task).map TaskInfo.spawned = some 65536 ∧ (5 : Word).toNat ≤ (s.cur.sv 30).toNat)
    ∧ ((4 : Word).toNat < (5 : Word).toNat ∧ (templateState 1).cur.strand.map Strand.ord = some false
      ∧ ∃ bs bad v, Claim.deviceReads (templateState 1) 128 ((templateState 1).cur.sv 31) p bs bad v ∧ (!bad && isTask bs true) = true)
    ∧ (let s := withS base 31 0x1000
       NoCall s ∧ Full s 31 ∧ s.templateAt (s.cur.sv 31) = .ok ()
        ∧ ∃ bs bad v, Claim.deviceReads s 128 (s.cur.sv 31) p bs bad v ∧ (!bad && !(taskRec bs).v.w5.getLsbD 16) = true)
    ∧ (let s := withS (withS (task []) 31 5) 30 4
       NoCall s ∧ s.curSpec = true ∧ Full s 31 ∧ Full s 30 ∧ s.cur.strand.map (fun x => (x.ord, x.ts)) = some (true, 5)
        ∧ (5 : Word).toNat ≤ (s.cur.sv 31).toNat ∧ (s.cur.sv 30).toNat < (5 : Word).toNat ∧ s.accessHeld false 0 = false)
    ∧ (NoCall base ∧ NotSpec base ∧ Full base 31 ∧ base.cur.strand.map Strand.ord = some false ∧ base.accessHeld false 0 = false) := by
  refine ⟨?_, ?_, ?_, ?_, ?_, ?_, ?_⟩ <;> simp only [NoCall, NotSpec, Full, ok_iff, deviceReads_iff] <;> decide +kernel

/-- A state that stands behind a REP prefix with a mask. -/
def maskedState (m : Mask) : State := { base with iss := { base.iss with ke := true, mask := m } }

theorem witness_RowArithmetic :
    Claim.rowReady base 15 63 [(14, 63), (13, 63)] false ∧ Claim.rowReady (maskedState 1) 15 63 [(15, 63), (15, 63)] true
    ∧ (Instr.vadd 0 15 14 13 63).wf = true ∧ (Instr.vshl 7 15 14 13 63).wf = true ∧ (Instr.vcopysign 3 15 14 13 63).wf = true := by
  simp only [Claim.rowReady, NoCall, VFree, NoFpTrap, NoPush, RowFull]; decide +kernel

theorem witness_RowsOfOneOperand :
    (Claim.rowReady base 15 63 [(14, 63)] false ∧ (Instr.vabs 0 15 14 63).wf = true ∧ (Instr.vsqrt 3 15 14 63).wf = true
      ∧ (Instr.vclz 4 15 14 63).wf = true)
    ∧ Claim.rowReady (maskedState 0) 15 63 [(15, 63)] false
    ∧ (let s := (fmtTile base 15 8).modCur (fun c => { c with u := { c.u with rm := 5 } })
       NoCall s ∧ VFree s ∧ NoFpTrap s ∧ RowFull s 14 63 ∧ cvtBad 6 (s.efmt 15) = false ∧ NoPush s 15 ∧ modeOf s.cur.u.rm = .sr
        ∧ (fmtOf (cvtDst 6 (s.efmt 15))).draws = true)
    ∧ (NoPush base 15 ∧ cvtBad 0 (base.efmt 15) = false ∧ modeOf base.cur.u.rm ≠ .sr)
    ∧ (∀ x ∈ ([(0, 12), (0, 8), (6, 14)] : List (Nat × Nat)), cvtBad (BitVec.ofNat 3 x.1) ((fmtTile base 15 (BitVec.ofNat 32 x.2)).efmt 15) = true) := by
  simp only [Claim.rowReady, NoCall, VFree, NoFpTrap, NoPush, RowFull]
  refine ⟨?_, ?_, ?_, ?_, ?_⟩ <;> decide +kernel

theorem witness_Moves :
    (NoCall base ∧ VFree base ∧ NoPush base 15 ∧ NoPush base 14 ∧ RowFull base 15 63 ∧ RowFull base 14 0
      ∧ (∀ m : Nat, m < 8 → RowFull base 14 (56 + BitVec.ofNat 6 m)) ∧ (∀ r, RowFull base 14 r) ∧ PermFull base 7
      ∧ base.core.netBusy ≤ base.core.isc)
    ∧ (let s : State := { base with core := { base.core with netBusy := base.core.isc + 1 } }
       NoCall s ∧ (∀ r, RowFull s 14 r) ∧ s.core.isc < s.core.netBusy) := by
  simp only [NoCall, VFree, NoPush, RowFull, PermFull]; decide +kernel

theorem witness_RowsWithScalars :
    Claim.rowReady base 15 63 [] false ∧ Full base 31 ∧ NoCall base ∧ VFree base ∧ NoFpTrap base ∧ RowFull base 15 63 := by
  simp only [Claim.rowReady, NoCall, VFree, NoFpTrap, NoPush, RowFull, Full]; decide +kernel

theorem witness_RowMasks :
    Claim.rowReady base 15 63 [(14, 63), (13, 63)] false ∧ NoPush base 15 ∧ RowFull base 14 63 ∧ RowFull base 13 63 ∧ NoCall base ∧ VFree base
    ∧ Full base 31 := by
  simp only [Claim.rowReady, NoCall, VFree, NoFpTrap, NoPush, RowFull, Full]; decide +kernel

/-- A row of the bytes 0 to 63. -/
def idRow : Row := rowOf ((List.range 64).map (BitVec.ofNat 8))

theorem witness_PermSolves :
    (NoCall base ∧ base.core.solves.length < 4 ∧ Full base 31 ∧ PermFull base 7 ∧ PermFull base 6 ∧ (permList (base.cur.pv 7).v).Nodup)
    ∧ (let s := withS (withRow base 15 63 idRow) 31 64
       NoCall s ∧ Full s 31 ∧ RowFull s 15 63 ∧ permFault (s.cur.sv 31) (((rowBytes (s.cur.rowReg 15 63).v).take 64).map BitVec.toNat) = none)
    ∧ (let s := withS base 31 2
       Full s 31 ∧ RowFull s 15 63 ∧ (permFault (s.cur.sv 31) (((rowBytes (s.cur.rowReg 15 63).v).take 64).map BitVec.toNat)).isSome = true)
    ∧ (permFault (base.cur.sv 0) []).isSome = true
    ∧ (let s : State := { base with core := { base.core with solves := List.replicate 4 { sid := 1, tag := 0, pd := 1, v := 0, wait := 0, left := 9 } } }
       NoCall s ∧ 4 ≤ s.core.solves.length ∧ Full s 31) := by
  simp only [NoCall, Full, PermFull, RowFull]; decide +kernel

theorem witness_PermutationWords :
    (NoCall base ∧ PermFull base 7 ∧ NoPush base 15 ∧ RowFull base 15 63)
    ∧ (let s := withS (withS base 31 64) 30 63
       Full s 31 ∧ 64 ≤ (s.cur.sv 31).toNat ∧ Full s 30 ∧ (s.cur.sv 30).toNat < 64 ∧ (permList (s.cur.pv 7).v).Nodup)
    ∧ (∀ i, i < 64 → permAt (base.cur.pv 7).v i = permAt (base.cur.pv 6).v i)
    ∧ (let s := base.modCur (fun c => c.setP 6 { v := 1, full := true })
       PermFull s 7 ∧ PermFull s 6 ∧ permAt (s.cur.pv 7).v 0 ≠ permAt (s.cur.pv 6).v 0) := by
  simp only [NoCall, Full, PermFull, NoPush, RowFull]; decide +kernel

theorem witness_CanonicalRouting :
    (List.range 64).length = 64 ∧ (∀ x ∈ List.range 64, x < 64) ∧ (List.range 64).Nodup := by decide +kernel

/-- A routine of one step, END, and one of two, ZERO and PERM, at entries 0 and 255. -/
def tables : State :=
  { base with core := { base.core with
      steps := (base.core.steps.set 1 0x1000000000000000).set 2 0x9300000000000000
      table := (base.core.table.set 0 0x1000).set 255 0x2001 } }

theorem witness_MatrixCalls :
    (NotSpec tables ∧ NoCall tables ∧ tables.objOf 0 = .ok none ∧ tables.routine 0 = some (0, 1) ∧ tables.routine 255 = some (1, 2)
      ∧ tables.routine 1 = none)
    ∧ ((tables.scan tables.cur.ma 1 2).perms = [3] ∧ PermFull tables 3 ∧ (tables.scan tables.cur.ma 1 2).acc = some 0
      ∧ ∀ r, (tables.cur.rowReg 0 r).st = .full)
    ∧ (let s := withS base 31 0x1020
       Full s 31 ∧ s.objOf 31 = .ok (some { tt := 0, pa := 0x1020 }))
    ∧ (NotSpec calling ∧ calling.objOf 0 = .ok none ∧ ∃ m ∈ calling.core.calls, m.sid = calling.cur.sid) := by
  simp only [NotSpec, NoCall, PermFull, Full, ok_iff]; decide +kernel

theorem witness_MatrixWords :
    (NoCall base ∧ Full base 31 ∧ (∀ q, RowFull base 15 q) ∧ (fmtOf (BitVec.ofNat 4 ((base.cur.tile 15).attr.toNat % 16))).bits ≠ 0)
    ∧ (let s := fmtTile base 15 15
       (∀ q, RowFull s 15 q) ∧ (fmtOf (BitVec.ofNat 4 ((s.cur.tile 15).attr.toNat % 16))).bits = 0)
    ∧ (let s := withS (withS (withS base 31 0x200) 30 0x20000040) 29 0x20000020
       let l : List (Phys × Nat) := [({ tt := 2, pa := 0x40 }, 512)]
       let q : List (Phys × Nat) := [({ tt := 0, pa := 0x40 }, 512)]
       NoCall s ∧ Full s 31 ∧ Full s 30 ∧ Full s 29 ∧ (BitVec.ofNat 32 ((s.cur.sv 31).toNat % 1024)).getLsbD 9 = true
        ∧ s.tracking false (s.cur.sv 30) ≠ .undeclared ∧ s.tracking false (s.cur.sv 30 + BitVec.ofNat 64 (8 * bmBits 0 - 1)) ≠ .undeclared
        ∧ (s.cur.sv 29).toNat % 64 ≠ 0 ∧ (s.cur.sv 30).toNat % 64 = 0 ∧ bmBits 0 ≠ 0
        ∧ s.checkRange s.cur.level s.cur.sc.satp .load (s.cur.sv 30) (max 1 (8 * bmBits 0)) = .ok l
        ∧ (∀ z ∈ l, s.exposed z.1 = true) ∧ (s.takeBanks l).isSome = true ∧ s.cur.bmHold = false
        ∧ (s.modCur (fun c => { c with bmHold := true })).cur.bmHold = true
        ∧ ({ s with core := { s.core with banks := [(0, 9)] } } : State).takeBanks l = none
        ∧ s.checkRange s.cur.level s.cur.sc.satp .load 0x40 (max 1 (8 * bmBits 0)) = .ok q ∧ ∃ z ∈ q, s.exposed z.1 = false)
    ∧ (let s := withS (withS base 31 (2 * 2 ^ 12)) 30 0x1008
       NoCall s ∧ NotSpec s ∧ Full s 31 ∧ Full s 30 ∧ (s.cur.sv 30).toNat % 8 = 0 ∧ (s.cur.sv 31).toNat / 2 ^ 12 % 2 ^ 13 = 2
        ∧ s.check .load 8 8 (s.cur.sv 30 + BitVec.ofNat 64 (8 * 0)) = .ok { tt := 0, pa := 0x1008 }
        ∧ s.check .load 8 8 (s.cur.sv 30 + BitVec.ofNat 64 (8 * 1)) = .ok { tt := 0, pa := 0x1010 })
    ∧ (let s := withS base 30 4
       Full s 30 ∧ (s.cur.sv 30).toNat % 8 ≠ 0) ∧ base.core.mloads = []
    ∧ (let s : State := { base with core := { base.core with
          mloads := [{ sid := 1, tag := 0, locs := [], first := 0, count := 0, tab := false, idx := 0, due := 0 }] } }
       NoCall s ∧ NotSpec s ∧ s.core.mloads ≠ []) := by
  simp only [NoCall, NotSpec, Full, RowFull, ok_iff]; decide +kernel

/-- Rows of an operand staged one after another: the state after them, if all are there and good. -/
def staging (m : MCall) (x : Operand) (pos : Int) : Nat → Nat → State → Option State
  | _, 0, s => some s
  | i, n + 1, s => match s.matrixRow m x pos i with
    | .row v _ u => if x.badBlock v 0 64 then none else staging m x pos (i + 1) n u
    | _ => none

theorem witness_MatrixSteps :
    ((runs aCall).running = some aCall ∧ aCall.step < (6 : BitVec 12).toNat ∧ (5 : BitVec 12).toNat ≤ aCall.step
      ∧ (aCall.cnt.get 3 + 1).toNat < (2 : BitVec 16).toNat ∧ (1 : BitVec 16).toNat ≤ (aCall.cnt.get 3 + 1).toNat
      ∧ (aCall.ma.get 7).getLsbD 63 = false ∧ aCall.accTile = some 0 ∧ maTile (aCall.ma.get 0) = some 0
      ∧ okAnd (aCall.operand 0) (fun x => decide (x.tile = some 0)) = true ∧ aCall.zr = false)
    ∧ (let m : MCall := { aCall with ma := Vector.replicate 8 0x8000000000000000, a := some (staged 1 0), zr := true, flags := 8 }
       (runs m).running = some m ∧ (m.ma.get 7).getLsbD 63 = true ∧ m.zr = true ∧ m.flags &&& 8 ≠ 0 ∧ m.flags &&& 7 = 0 ∧ m.a.isSome = true)
    ∧ (okAnd (aCall.operand 1) (fun x => x.tile != none && x.tile != aCall.accTile && (fmtOf x.fmt).bits != 0 && x.count == 64 && !x.bm
        && (staging aCall x (aCall.posN 1) 0 64 (runs aCall).banksFree).any (fun u => ((runs aCall).withBanks u).isSome)) = true
      ∧ aCall.posK 1 = 0)
    ∧ (let m : MCall := { aCall with b := some (staged 2 12), a := some (staged 1 0) }
       (runs m).running = some m ∧ m.b.map Staged.fmt = some 12 ∧ m.dec = false
        ∧ okAnd (m.operand 1) (fun x => !x.bm) = true ∧ okAnd (m.operand 2) (fun x => !x.bm) = true)
    ∧ (let m : MCall := { aCall with dec := true }
       (runs m).running = some m ∧ m.dec = true)
    ∧ (let m : MCall := { aCall with zr := true, a := some (staged 1 1), b := some (staged 2 1) }
       (runs m).running = some m ∧ m.zr = true ∧ (m.tiles.get 0).attr.toNat / 16 % 16 = 0 ∧ pairOf 1 1 = some (.float 2 16)
        ∧ m.kdone ≤ (0 : BitVec 10).toNat ∧ (1023 : BitVec 10).toNat + (0 : BitVec 10).toNat ≤ 1023
        ∧ min (0 + 0 + 16) (0 + (15 : BitVec 10).toNat + 1) = 0 + (15 : BitVec 10).toNat + 1
        ∧ min (0 + 0 + 16) (0 + (16 : BitVec 10).toNat + 1) < 0 + (16 : BitVec 10).toNat + 1)
    ∧ (let m : MCall := { aCall with zr := true, a := some (staged 1 6), b := some (staged 2 6), tiles := aCall.tiles.set 0 { attr := 0x40 } }
       (runs m).running = some m ∧ m.zr = true ∧ (m.tiles.get 0).attr.toNat / 16 % 16 = 4 ∧ pairOf 6 6 = some (.int 4 16)
        ∧ (staged 1 6).blk = false ∧ outFormatBad 6 = false ∧ okAnd (m.operand 1) (fun x => decide (x.tile = some 1)) = true
        ∧ m.accTile ≠ some 1) := by
  decide +kernel

theorem witness_SupervisorWords :
    base.cur.level = .u
    ∧ (NoCall sup ∧ sup.cur.level = .s ∧ sup.fflHeld 0x007 = false ∧ Full sup 31 ∧ sup.cur.sc.srec ≠ 0 ∧ sup.iss.repMore = false
      ∧ sup.imagePages .store = .ok () ∧ sup.imagePages .load = .ok () ∧ sup.stopPages = .ok () ∧ sup.iss.endVal = none
      ∧ sup.pkg.reqs = [])
    ∧ (let q : Req := { sid := sup.cur.sid, tag := 0, op := .store [1], loc := { tt := 0, pa := 0 }, due := 9, push := some 0 }
       ¬ ∀ x ∈ (modPkg sup (fun p => { p with reqs := [q] })).pkg.reqs, x.sid = sup.cur.sid → x.push.isSome = true → x.op.isWrite = false)
    ∧ (let s := sup.modCur (fun c => { c with sc := { c.sc with srec := 0 } })
       NoCall s ∧ s.cur.level = .s ∧ s.cur.sc.srec = 0)
    ∧ (let s := withS sup 31 0x70000
       let p : Phys := { tt := 0, pa := 0x70000 }
       let is := fun (s v : State) (bs : List Byte) => let u := v.noteTlb s.cur.sc.satp (s.cur.sv 31)
         decide ((u.startable (s.cur.sv 31)).map (fun x => u.startState x bs) = some .running)
       Full s 31 ∧ (∃ bs bad v, Claim.reads s 64 (s.cur.sv 31) p bs bad v ∧ (!bad && is s v bs) = true)
        ∧ ∃ bs bad v, Claim.reads (poisonedAt s p) 64 (s.cur.sv 31) p bs bad v ∧ bad = true)
    ∧ (let p : Phys := { tt := 0, pa := 0x71000 }
       let s := { (withS sup 31 0x71000).pokeAt p (leBytes 40 0 ++ leBytes 8 3) with pkg := { sup.pkg with
          strands := [{ placedStrand with id := 9, recAddr := 0x71000, state := .parked }] } }
       Full s 31 ∧ ∃ bs bad v, Claim.reads s 64 (s.cur.sv 31) p bs bad v ∧ (!bad && (let u := v.noteTlb s.cur.sc.satp (s.cur.sv 31)
         decide ((u.startable (s.cur.sv 31)).map (fun x => u.startState x bs) = some .parked))) = true)
    ∧ (let s := withS sup 31 0x1000
       ∃ bs bad v, Claim.reads s 64 (s.cur.sv 31) { tt := 0, pa := 0x1000 } bs bad v
        ∧ (!bad && ((v.noteTlb s.cur.sc.satp (s.cur.sv 31)).startable (s.cur.sv 31)).isNone) = true)
    ∧ sup.wfiDone = false
    ∧ (let s : State := { sup with core := { sup.core with arrivals :=
          [{ pc := 0, dst := 0, bytes := 0, arg := 0, s28 := 0, lnch := 0, part := 0, ver := 3 }] } }
       NoCall s ∧ s.cur.level = .s ∧ s.wfiDone = true) := by
  simp only [NoCall, Full, ok_iff, readAnd_iff]; decide +kernel

theorem witness_OtherTraps :
    (let s := base.modCur (fun c => { c with sc := { c.sc with sstatus := 8 }, u := { c.u with utvec := 4 } })
     NotSpec s ∧ s.delegates cEmptyRead = true ∧ s.delegates cBreak = true ∧ s.delegates cPoison = false)
    ∧ ((task []).cur.level = .u ∧ (task []).curSpec = true ∧ (task []).cur.strand.isSome = true ∧ cTrap ≠ cMachineCheck
      ∧ (task []).savable (task []).cur.sid = true
      ∧ (modPkg (task []) (fun p => { p with reqs := [{ sid := (task []).cur.sid, tag := 0, op := .store [1], loc := { tt := 0, pa := 0 }, due := 9 }] })).savable
          (task []).cur.sid = false) := by
  simp only [NotSpec]; decide +kernel

theorem witness_ReturnFromTrap :
    (sup.cur.level = .s ∧ sup.cur.strand.isSome = true ∧ sup.cur.sc.sstatus.getLsbD 0 = false ∧ sup.cur.held = [])
    ∧ (sup.modCur (fun c => { c with sc := { c.sc with sstatus := 1 } })).cur.sc.sstatus.getLsbD 0 = true
    ∧ (let s := sup.modCur (fun c => { c with strand := none })
       s.cur.level = .s ∧ s.cur.strand = none) := by decide +kernel

theorem witness_FetchAndTimers :
    (let s := withEv base { base.ev with v := placeAt + 11 }
     let l : List (Phys × Nat) := [({ tt := 0, pa := placeAt.setWidth 52 }, 12)]
     s.checkRange s.cur.level s.cur.sc.satp .fetch (packetOf s.ev.v) 12 = .ok l ∧ ∀ x ∈ l, s.badAt x.1 x.2 = false ∧ s.memHeld x.1 x.2 = false)
    ∧ (let s := withEv base { base.ev with v := 0xC0000000 }
       s.checkRange s.cur.level s.cur.sc.satp .fetch (packetOf s.ev.v) 12 = .error ⟨cPageNotPresent, 0xC0000000⟩)
    ∧ (base.modCur (fun c => { c with annul := 1 })).cur.annul ≠ 0
    ∧ (let d : Dlv := { sid := base.cur.sid, tag := 3, dest := .s 31, v := 0, sel := 0, poison := false, due := .issue 0 }
       let s := modPkg base (fun p => { p with dlvs := [d] })
       s.pkg.dlvs[s.ev.n]? = some d ∧ s.isDue d.due = true)
    ∧ (let x : Solve := { sid := base.cur.sid, tag := 3, pd := 7, v := 5, wait := 0, left := 0 }
       let s := base.mark 3 (.p 7)
       let s := { s with core := { s.core with solves := [x] } }
       s.core.solves = [x] ∧ x.left ≤ s.core.isc ∧ x.sid = s.cur.sid ∧ s.cur.level = .u ∧ s.cur.saving = none ∧ x.pd ≠ 0 ∧ s.marked x.sid x.tag (.p x.pd) = true)
    ∧ (atCyc base 1024).core.refreshed < (atCyc base 1024).core.isc / 1024
    ∧ (atCyc (fmtTile base 15 0x100) 4096).cur.expires 4096 = true ∧ (atCyc (fmtTile base 15 0x100) 4095).cur.expires 4095 = false := by
  simp only [ok_iff, err_iff]; decide +kernel

theorem witness_SchedulingEvents :
    (let x := ready (.cluQ 0)
     let s := withStrand (noStrand base) x
     s.taking = some x ∧ s.imageBad x = false ∧ s.incoming.strand = none)
    ∧ (let x : Strand := { ready (.cluQ 0) with fill := .initial, isTask := true, ord := true, task := (task []).cur.strand.bind Strand.task }
       let s := poisonedAt (withStrand (noStrand base) x) { tt := 0, pa := 0x70100 }
       s.taking = some x ∧ s.imageBad x = true ∧ x.ord = true ∧ x.task.map TaskInfo.irrev = some false)
    ∧ (let x := ready (.dieQ 0)
       (withStrand (noStrand base) x).transferable = some x)
    ∧ (let x := ready (.dieQ 3)
       let s := withEv (withStrand (atCyc base 4096) x) { base.ev with n := 7, v := 3 }
       BitVec.ofNat 3 s.ev.n ≠ BitVec.ofNat 3 s.ev.v.toNat ∧ s.pkg.dieIdle.get (BitVec.ofNat 3 s.ev.n).toFin + 4096 ≤ s.core.isc
        ∧ s.dieHead 3 (fun x => !x.ord && x.why != 3 && !x.wait.any (fun w => w.on.why == 3)
          && (s.cores x.part) &&& ((BitVec.ofNat 1024 (2 ^ 128 - 1)) <<< (128 * 7)) != 0) = some x)
    ∧ (let s := withStrand (atCyc base 16384) (ready (.dieQ 3))
       ∃ x ∈ s.pkg.strands, s.aged x = true)
    ∧ (let s := base.modCur (fun c => { c with saving := some (.ready, 10, .dieQ 0) })
       s.saveDue s.cur = true ∧ ({ s with cur := s.oth, oth := s.cur } : State).saveDue s.cur = true ∧ s.saveDue s.oth = false)
    ∧ (∀ n ∈ [0, 1], ∀ b ∈ [true, false],
        let s := withStrand (base.modCur (fun c => { c.modStrand (fun x => { x with state := .parked }) with since := n })) (ready (.cluQ 0))
        let s : State := { s with oth := { s.oth with strand := some { placedStrand with id := 8, state := .parked } } }
        let q := fun (i : BitVec 40) => ({ sid := i, tag := 0, op := .store [1], loc := { tt := 0, pa := 0 }, due := 9 } : Req)
        let s := modPkg s (fun p => { p with reqs := if b then [] else [q s.cur.sid, q 8] })
        s.saveDue s.cur = false ∧ s.saveDue s.oth = false ∧ s.taking.isSome = true ∧ s.cur.strand.isSome = true ∧ s.oth.strand.isSome = true
          ∧ s.incoming.strand.map (fun x => s.savable x.id) = some b ∧ s.cur.since = n ∧ s.oth.since = 0)
    ∧ (∀ b ∈ [0x00, 0x10], ∀ l ∈ [[], [({ sid := base.cur.sid, tag := 0, op := .store [1], loc := { tt := 0, pa := 0 }, due := 9 } : Req)]],
       let s := base.modCur (fun c => { c with sc := { c.sc with quantum := 5, qcnt := 5, sstatus := BitVec.ofNat 64 b } })
       let s := modPkg s (fun p => { p with reqs := l })
       s.cur.level = .u ∧ s.cur.strand.map Strand.state = some .running ∧ s.cur.quantumSpent = true ∧ s.boundary = true
        ∧ s.savable base.cur.sid = l.isEmpty ∧ s.cur.sc.sstatus = BitVec.ofNat 64 b ∧ s.curSpec = false)
    ∧ (let s := (task []).modCur (fun c => { c with sc := { c.sc with quantum := 5, qcnt := 5, sstatus := 0x10 } })
       s.cur.quantumSpent = true ∧ s.boundary = true ∧ s.curSpec = true ∧ s.savable s.cur.sid = true) := by decide +kernel

theorem witness_SuspendAndWake :
    (∀ x ∈ ([(.blocked, 64), (.irrevocable, 64), (.version, 0), (.tserial, 64), (.idless, 64)] : List (HoldWhy × Nat)),
      let s := base.modCur (fun c => { c with why := x.1, stuck := x.2 })
      s.cur.level = .u ∧ s.cur.strand.isSome = true ∧ s.cur.why = x.1 ∧ x.2 ≤ s.cur.stuck)
    ∧ (∀ cmp ∈ [0, 1], let w := aWait (.word { tt := 0, pa := 0x2000 } (BitVec.ofNat 64 cmp))
       let s := waiting w
       (s.strandOf s.ev.id).map (fun x => (x.wait, s.waitDue x w, s.resolveWait w, decide ((s.waitView w).waitRead x w = none)))
        = some (some w, true, some w, decide (cmp = 0)))
    ∧ (let w := aWait (.susp { tt := 0, pa := 0x2000 } none)
       let s := waiting w
       (s.strandOf s.ev.id).map (fun x => (x.wait, s.waitDue x w, s.resolveWait w)) = some (some w, true, some w))
    ∧ (let w := aWait (.word { tt := 4, pa := 0 } 0)
       let s := waiting w
       s.core.errlogp = 0 ∧ (s.strandOf s.ev.id).map (fun x => (x.wait, s.waitDue x w, s.resolveWait w)) = some (some w, true, none))
    ∧ (∀ b ∈ [true, false], let w := { aWait (.word { tt := 0, pa := 0x2000 } 0) with asked := b }
       let s := if b then waiting w else { waiting w with pkg := { (waiting w).pkg with reqs := [{ sid := base.cur.sid, tag := 2, op := .store [1], loc := { tt := 0, pa := 0x2000 }, due := 9 }] } }
       w.res = none ∧ w.deadline = some 0 ∧ w.asked = b ∧ (s.strandOf s.ev.id).map (fun x => (x.wait, b || s.waitReady x w)) = some (some w, b))
    ∧ (let w := { aWait (.events 0) with asked := true }
       ((waiting w).strandOf (waiting w).ev.id).map Strand.wait = some (some w) ∧ w.asked = true ∧ w.res = none)
    ∧ (let w := { aWait (.word { tt := 0, pa := 0x2000 } 1) with asked := true, hit := true }
       ((waiting w).strandOf (waiting w).ev.id).map (fun x => (((waiting w).waitView w).waitRead x w).isSome) = some true) := by
  refine ⟨?_, ?_, ?_, ?_, ?_, ?_, ?_⟩ <;> decide +kernel

theorem witness_SuspendAndWake_timeouts :
    (∀ g ∈ [0, 1], let w := { aWait (.barrier { tt := 0, pa := 0x2000 } (BitVec.ofNat 32 (2 ^ 32 - g))) with asked := true }
       let s := waiting w
       w.deadline = some 0 ∧ w.res = none ∧ 0 ≤ s.ptime.toNat ∧ w.on.writes = true ∧ s.resolveWait w = some w
        ∧ (s.strandOf s.ev.id).map (fun x => ((s.waitView w).waitRead x w).isSome) = some (decide (g = 1))
        ∧ (s.mark 3 (.s 31)).marked base.cur.sid w.tag (.s w.d) = true ∧ s.cur.level = .u ∧ s.cur.saving = none)
    ∧ (waiting { aWait (.word { tt := 4, pa := 0 } 0) with asked := true }).resolveWait (aWait (.word { tt := 4, pa := 0 } 0)) = none := by
  decide +kernel

theorem witness_HomeEvents :
    (∀ op ∈ ([.load 8 .none, .store [1], .atomic 0 true 1 0 31, .vamo 0 [] 0 0, .arrive none 31, .event true 3, .note [1] 0] : List ReqOp),
      let s := asking op { tt := 0, pa := 0x3000 } 0x3000
      let s := atCyc s 9
      (s.reqAt s.ev.n).map (fun x => (decide (x.1.op = op), decide (x.1.due ≤ s.core.cyc), s.reqReady x.1 x.2, s.viaHost x.1))
          = some (true, true, true, false)
        ∧ Claim.homeEvents.any (fun e => e.2 op) = true)
    ∧ (let s := atCyc (asking .ack { tt := 0, pa := 0 } 0) 9
       (s.reqAt s.ev.n).map (fun x => x.1.op) = some .ack)
    ∧ (∀ h ∈ [false, true], let s := atCyc (asking (.load 8 .none) { tt := 3, pa := 0 } 0) 9
       let s := modPkg s (fun p => { p with reqs := p.reqs.map (fun q => { q with host := h }) })
       (s.reqAt s.ev.n).map (fun x => (s.reqReady x.1 x.2, s.viaHost x.1, x.1.host, decide (x.1.sid = s.cur.sid))) = some (true, true, h, true)
        ∧ s.ev.w.extractLsb' 0 2 = 0)
    ∧ (let p : Phys := { tt := 0, pa := 0x3000 }
       Form base ∧ p.tt ≠ 5 ∧ Claim.plainPlace base p 8 ∧ base.copyOf p = none ∧ base.replicaBytes p 8 = none ∧ base.ownSpad p = false
        ∧ ((base.homeTouch p false).readAt p 8).length = 8) := by
  simp only [Form, Claim.plainPlace]
  refine ⟨?_, ?_, ?_, ?_⟩ <;> decide +kernel

theorem witness_MemoryUnits_windows :
    (∀ x ∈ ([{ base := 0x4000, tiles := 2, sc := 3 }, { base := 0x8000, tiles := 1, sc := 1 }, { base := 0x8000, tiles := 1, sc := 2, closing := some (1, 1, 1) }]
        : List Window), ∀ b ∈ [0, 1, 2],
      let s := withEv (withWins base [x]) { base.ev with v := 0xBFFF, n := 1023, dev := 1, w := BitVec.ofNat 64 b, data := [7, 8] }
      let t : BitVec 21 := (s.ev.v.extractLsb' 14 7) ++ (0 : BitVec 14)
      let off : BitVec 14 := s.ev.v.extractLsb' 0 14
      s.windowOf t = some x ∧ BitVec.ofNat 10 s.ev.n ≠ s.core.core ∧ s.ev.w.getLsbD 2 = false ∧ s.ev.w.getLsbD 0 = decide (b = 1)
        ∧ s.ev.w.getLsbD 1 = decide (b = 2) ∧ s.waitedOn ((rowLoc (s.ownTile t) 0).plus off.toNat) 1 = false
        ∧ (x.sc = 3 → x.closing = none ∧ 2 ≤ x.sc.toNat) ∧ (x.sc ≠ 3 → x.closing ≠ none ∨ ¬ (2 ≤ x.sc.toNat ∨ (BitVec.ofNat 10 s.ev.n).extractLsb' 7 3 = s.die))
        ∧ s.ev.dev ≠ s.core.device ∧ s.pkg.ptimeOk = true ∧ s.tileAwaited (s.ownTile t) = false ∧ s.listHas t s.ev.dev = true
        ∧ s.core.leases = [])
    ∧ (let s : State := { base with core := { base.core with leases := [{ tile := 0, dev := 1, expiry := 0, steps := [] }] } }
       s.core.wins = [] ∧ ∃ l ∈ s.core.leases, l.gone = false ∧ leasePassed s.leaseNow l.expiry = true)
    ∧ (let x : Window := { base := 0x8000, tiles := 1, sc := 2, closing := some (1, 1, 1) }
       x ∈ (withWins base [x]).core.wins ∧ (withWins base [x]).windowOver x = true)
    ∧ (base.ev.w.extractLsb' 62 2 = 0 ∧ base.ev.dev = base.core.device
      ∧ (modPkg base (fun p => { p with dirty := [(0, 0)] })).isDirty base.ev.n = true)
    ∧ (let r : Replica := { tile := 0, data := [], lease := none, modified := [], used := 0, due := some 0 }
       let s := withEv { base with core := { base.core with replicas := [r] } } { base.ev with w := 2 ^ 63 }
       s.ev.w.getLsbD 63 = true ∧ s.core.replicas.find? (fun r => decide (r.tile.toNat = s.ev.v.toNat) && r.due.isSome) = some r)
    ∧ (let y : CLine := { line := 0, key := 0, data := 7, due := some 9 }
       let s := modPkg base (fun p => { p with lines := [y] })
       s.isDirty s.ev.n = false ∧ findLine s.pkg.lines (s.ev.w.setWidth 8) s.ev.n = some y ∧ y.due.isSome = true) := by
  decide +kernel

theorem witness_MemoryUnits :
    (let s := withStream base 0 { bound := true, base := 0x4000, n0 := 1, n1 := 1, n2 := 1, n3 := 1 }
       let p : Phys := { tt := 0, pa := 0x4000 }
       s.ev.n = (0 : Fin 4).val ∧ s.mayPrefetch 0 = true ∧ s.dueSoon.2.check .row 256 256 (s.cur.streams.get 0).addr = .ok p
        ∧ s.accessPending p 256 = false ∧ s.memHeld (s.homeLoc p) 256 = false ∧ s.bankBusy p = false ∧ p.tt ≠ 4 ∧ s.otherDevice p = none)
    ∧ (let s := withStream base 0 { bound := true, base := 0x20004000, n0 := 1, n1 := 1, n2 := 1, n3 := 1 }
       let p : Phys := { tt := 2, pa := 0x4000 }
       s.mayPrefetch 0 = true ∧ s.dueSoon.2.check .row 256 256 (s.cur.streams.get 0).addr = .ok p ∧ s.bankBusy p = false ∧ s.exposed p = true
        ∧ s.memHeld (s.homeLoc p) 256 = false ∧ s.otherDevice p = none)
    ∧ (∀ tab ∈ [true, false], let m : MLoad := { sid := 1, tag := 4, locs := [{ tt := 0, pa := 0x1000 }], first := 4095, count := 1, tab := tab, idx := 255, due := 0 }
       let s : State := { base with core := { base.core with mloads := [m] } }
       s.core.mloads = m :: [] ∧ s.forked m.sid m.tag = true ∧ (∀ x ∈ s.strands, x.state ≠ .reply) ∧ m.locs[4095 - m.first]?.isSome = true
        ∧ ∀ p ∈ m.locs, s.memHeld (s.homeLoc p) 8 = false ∧ (s.served p true false false).isSome = true)
    ∧ (let m : MCall := { aCall with started := false }
       (runs m).core.calls = m :: [] ∧ ((runs m).ctxOf m.sid).isSome = true ∧ (runs m).forked m.sid m.tag = true ∧ m.restage = false)
    ∧ (let m : MCall := { aCall with ended := true }
       (runs m).core.calls = m :: [] ∧ ((runs m).callEnd m).isSome = true ∧ ((runs m).ending.map (fun x =>
        ((runs m).forked x.sid x.tag, (runs m).releaseWaits x.sid (x.tag + 1) (x.fl.extractLsb' 0 2), (runs m).objLeased x.objAt)))
          = some (true, false, false))
    ∧ (let s := withOps [anOp 0 .copy]
       s.core.ops.find? (fun o => o.slot == s.ev.n) = some (anOp 0 .copy) ∧ s.engReady (anOp 0 .copy) = true
        ∧ (anOp 0 .copy).desc.notify = false ∧ (let a := s.acting (anOp 0 .copy).sid (anOp 0 .copy).lnch
          ((a.withBanks (a.banksFree.engCopy (anOp 0 .copy)).s).map (fun u =>
          (u.releaseWaits (anOp 0 .copy).sid ((anOp 0 .copy).tag + 1) (anOp 0 .copy).desc.scope, u.objLeased (anOp 0 .copy).obj)))) = some (false, false))
    ∧ (let s := withOps [anOp 0 .coll]
       let a := s.acting (anOp 0 .coll).sid (anOp 0 .coll).lnch
       (a.withBanks (a.banksFree.engColl (anOp 0 .coll)).s).isSome = true)
    ∧ (withEv base { base.ev with data := List.replicate 64 0 }).core.arrivals.length < 64
    ∧ (let a : Arrival := { pc := placeAt, dst := 0, bytes := 0, arg := 0, s28 := 0, lnch := 0, part := 0, ver := 3 }
       let s : State := { base with core := { base.core with arrivals := [a], arrf := 0x100002 } }
       s.ev.data.length ≠ 64 ∧ s.core.arrivals = a :: [] ∧ s.freeFrame (s.partSatp a.part) = some 0 ∧ s.newId.isSome = true) := by
  simp only [ok_iff]; decide +kernel

theorem witness_SeamAndErrors :
    ((atCyc base 64).pkg.pulses < (atCyc base 64).core.cyc / 64 ∧ (atCyc base 64).domains = [])
    ∧ (let x : Strand := { placedStrand with id := 9, isTask := true, ord := true, state := .faulted, dfp := true }
       let s := withStrand base x
       s.faultedOldest = some x ∧ s.resident x.id = false ∧ s.strandOf x.id = some x)
    ∧ (∀ l ∈ [2 ^ 46 - 1, 2 ^ 46], l < 2 ^ 46 ∨ 2 ^ 46 ≤ l)
    ∧ base.core.errlogp = 0 ∧ base.cur.level = .u ∧ base.cur.strand.any (fun x => x.ord) = false ∧ (withEv base { base.ev with n := 6 }).ev.n = 6
    ∧ (let s : State := { base with core := { base.core with mchecks := [0x40], retriesDue := [0x70000], inPart := some 0 } }
       s.core.mchecks = [0x40] ∧ s.core.retriesDue = [0x70000] ∧ s.checkable = true ∧ NotSpec s) := by
  simp only [NotSpec]; decide +kernel

theorem witness_TrapEntries :
    base.cur.level = .u ∧ NotSpec base ∧ base.delegates cTrap = false ∧ cTrap ≠ cMachineCheck := by
  simp only [NotSpec]; decide +kernel

/-- The base state with its break address at PC, for firmware or for the supervisor. -/
def breakAt (s : State) (sdel : Word) : State := { s with core := { s.core with dbgctl := (placeAt.extractLsb' 2 54).setWidth 64 <<< 10 ||| sdel ||| 1 } }

theorem witness_DebugAndDeadlock :
    (∀ d ∈ [0, 2], let s := breakAt base (BitVec.ofNat 64 d)
     s.cur.strand.isSome = true ∧ s.cur.level = .u ∧ s.cur.annul = 0 ∧ s.core.dbgctl.getLsbD 0 = true ∧ s.cur.noBreak = false
      ∧ s.cur.pc.extractLsb' 2 54 = s.core.dbgctl.extractLsb' 10 54 ∧ s.core.dbgctl.getLsbD 1 = decide (d = 2) ∧ s.curSpec = false)
    ∧ (let s := breakAt (task []) 2
       s.curSpec = true ∧ s.cur.pc.extractLsb' 2 54 = s.core.dbgctl.extractLsb' 10 54 ∧ s.core.dbgctl.getLsbD 1 = true)
    ∧ (∀ d ∈ [0, 2], let s := breakAt (base.modCur (fun c => { c with stepDue := true })) (BitVec.ofNat 64 d)
       s.cur.stepDue = true ∧ s.boundary = true ∧ s.core.dbgctl.getLsbD 1 = decide (d = 2) ∧ s.curSpec = false)
    ∧ (let s := atCyc (base.modCur (fun c => { c with why := .blocked, stuck := 1 })) 150000
       let s : State := { s with core := { s.core with stuckSince := some 0 } }
       s.core.dlkDue = none ∧ s.core.inPart = some 0 ∧ s.core.stuckSince = some 0 ∧ s.stuckNow = true ∧ s.lowestCore = true
        ∧ s.core.reported = false ∧ 0 + 100000 ≤ s.ptime.toNat ∧ s.cur.annul = 0 ∧ s.cur.level = .u ∧ s.oth.level = .u ∧ s.core.dlkp = 0
        ∧ ∀ c ∈ [s.cur, s.oth], c.strand.any (fun x => x.ord) = false ∧ c.saving = none) := by
  decide +kernel

theorem witness_Commands :
    (takes hdm 1 [] ∧ takes hdm 9 [] ∧ takes hdm 10 [0xC0000000] ∧ (cmdState hdm 10 [0xC0000000]).logAt 0xC0000000 0 0 = some []
      ∧ takes hdm 10 [0x20000, 0xC0000000, 8] ∧ (cmdState hdm 10 [0x20000, 0xC0000000, 8]).logAt 0x20000 0xC0000000 8 = none)
    ∧ ((∀ y ∈ hdm.pkg.parts, y.pslot = none) ∧ takes hdm 2 [1] ∧ takes hdm 2 [0] ∧ hdm.core.inPart = some 0 ∧ hdm.core.inPart ≠ some 1 ∧ hdm.cores 1 ≠ 0 ∧ hdm.cores 0 ≠ 0)
    ∧ takes hdm 3 [0]
    ∧ (let s := modPkg hdm (fun p => { p with launches := [{ aLaunch with slot := none }] })
       takes s 4 [0, 7] ∧ s.ev.word ≠ 1 ∧ (∀ x ∈ s.launchesOf 0, s.cur.busyWith x = false ∧ s.oth.busyWith x = false)
        ∧ ∃ x ∈ (s.launchesOf 0).filter (fun l => l.lnch == 7), x.phase ≠ .torn)
    ∧ (takes hdm 5 [0] ∧ hdm.launchesOf 0 = [])
    ∧ (takes hdm 6 [2, 1] ∧ (hdm.strands.find? (fun x => x.hasId && x.id == 1 && x.part == 0 && x.state != .exited)).isSome = true)
    ∧ (let s := withStrand hdm (ready .off)
       takes s 7 [9, 0] ∧ (s.strands.find? (fun x => x.hasId && x.id == 9 && x.part == 0 && x.state != .exited)).isSome = true
        ∧ s.resident 9 = false ∧ s.pkg.dbg = [])
    ∧ (takes hdm 8 [0, 0x1000, 2 ^ 40 - 1, 0] ∧ takes hdm 8 [0, 0x1000, 0, 1] ∧ hdm.pkg.dbg = [] ∧ hdm.core.inPart = some 0)
    ∧ (takes hdm 12 [511, 0] ∧ hdm.hostBias 0 64 = true)
    ∧ (takes hdm 13 [0, 1, 1] ∧ takes hdm 13 [0, 1, 0] ∧ 4096 ≤ hdm.windowSize ∧ hdm.pkg.bias = none
      ∧ meets 0 4096 0x1000 0x2000 = false
      ∧ ∀ n ∈ [0, 1], let j : BiasJob := { slot := 0, toHost := true, page := 0, line := 63, left := n, count := 0 }
        let s := modPkg hdm (fun p => { p with bias := some j })
        s.pkg.bias = some j ∧ s.ev.n = j.slot.toNat)
    ∧ takes hdm 14 []
    ∧ ∀ op ∈ [0, 15], (cmdState hdm op []).cmd (fun op => op == 0 || decide (14 < op)) = some (0, slotBytes op []) := by
  simp only [takes]
  refine ⟨?_, ?_, ?_, ?_, ?_, ?_, ?_, ?_, ?_, ?_, ?_, ?_⟩ <;> decide +kernel

/-- A launch packet (kernel at 0x8000, one root at 0x9000, this device alone), with its kernel in memory. -/
def packetBytes64 : List Byte :=
  ([0x8000, 3 + 2 ^ 32, 0, 0x9000, 0, 0, 7 * 2 ^ 32].map (leBytes 8)).flatten ++ List.replicate 200 0
def kernelState : State :=
  let s := base.pokeAt { tt := 0, pa := 0x8000 } ([0x4B42414E + 2 ^ 32, 3 + 256, 0xA000, 0, 0].map (leBytes 8)).flatten
  withEv s { base.ev with data := packetBytes64 }

/-- A window with a supervisor descriptor at offset 0 whose code page the partition maps without W and U. -/
def imageState : State :=
  let s := wide.pokeAt { tt := 1, pa := 0 } ([0x53444331 + 2 ^ 32, 0x4000 + 12 * 2 ^ 32, 0xC0000000, 3 * 2 ^ 32].map (leBytes 8)).flatten
  s.pokeAt { tt := 0, pa := 0x40030 } (leBytes 8 0x2B)

/-- The image loads where it verifies, and is refused with status 5 where it does not: each case has its clause. -/
theorem image_cases : (∃ r, imageState.loadImage 0 0x20 = .ok r) ∨ imageState.loadImage 0 0x20 = .error (5, []) := by
  have h1 : ∃ b, imageState.winRead 0 64 = some b ∧ (imageState.checkDescriptor 0 b = none ∧ okAnd (imageState.codePages 0x20 (wordAt b 16) (seg (wordAt b 8) 32 32).toNat) (fun _ => true) = true) :=
    ⟨(imageState.winRead 0 64).getD [], by decide +kernel, by decide +kernel, by decide +kernel⟩
  obtain ⟨b, hb, hd, hc⟩ := h1
  obtain ⟨l, hl, -⟩ := okAnd_iff.2 hc
  simp only [State.loadImage, hb, hd, hl]
  split
  · exact .inr rfl
  · exact .inl ⟨_, rfl⟩

theorem witness_PartitionsAndLaunches :
    (takes hdm 11 [0, 0, 0] ∧ hdm.hostBias 0 128 = true ∧ ((0 : BitVec 1024) ^^^ hdm.cores 0).getLsbD hdm.core.core.toNat = true
      ∧ hdm.cur.strand.isSome = true)
    ∧ ((noStrand hdm).cur.strand = none ∧ (noStrand hdm).oth.strand = none ∧ errIs ((noStrand hdm).loadImage 0x100000 0) (2, [0]) = true)
    ∧ (7 ≤ base.pkg.bringUp ∧ base.cores 0 ≠ 0 ∧ errIs (base.checkLaunch 0x20 0 base.ev.data false) (badPacket 0 true) = true)
    ∧ (let s := withEv base { base.ev with data := leBytes 8 0 ++ leBytes 8 0x50 ++ List.replicate 240 0 }
       7 ≤ s.pkg.bringUp ∧ s.cores ((wordAt s.ev.data 8).extractLsb' 4 4) = 0)
    ∧ (kernelState.partSatp ((wordAt kernelState.ev.data 8).extractLsb' 4 4) = 0x20 ∧ 7 ≤ kernelState.pkg.bringUp
      ∧ okAnd (kernelState.checkLaunch 0x20 0 kernelState.ev.data false) (fun x => x.roots.length == 1) = true)
    ∧ (let l : Launch := { aLaunch with devLast := 1, phase := .barrier }
       let s := withEv (atCyc (modPkg base (fun p => { p with launches := [l] })) 15000000) { base.ev with w := 7, v := 3 }
       s.opening = some l ∧ BitVec.ofNat 32 s.ev.v.toNat = l.gen ∧ s.ev.v.getLsbD 32 = false ∧ l.since + 10000000 ≤ s.ptime.toNat
        ∧ s.ev.v.extractLsb' 36 4 = s.incOf s.ev.dev ∧ l.entered = [] ∧ l.receiver = s.core.device
        ∧ s.ev.v.getLsbD 33 = false
        ∧ (0x100000003 : Word).getLsbD 32 = true ∧ (0x200000003 : Word).getLsbD 33 = true ∧ BitVec.ofNat 32 (4 : Word).toNat ≠ l.gen)
    ∧ (let s := withEv (noStrand (modPkg base (fun p => { p with launches := [aLaunch] }))) { base.ev with w := 7 }
       s.pkg.launches.find? (fun l => l.word == s.ev.w && l.phase == .live) = some aLaunch ∧ s.ev.dev = s.core.device
        ∧ s.launchOver aLaunch = true ∧ aLaunch.ended = [] ∧ aLaunch.devFirst = s.core.device ∧ aLaunch.devLast = s.core.device
        ∧ aLaunch.receiver = s.core.device ∧ aLaunch.slot = some 0) := by
  simp only [takes]; decide +kernel

theorem witness_RegistersAndHost :
    (65 ≤ (withEv base { base.ev with v := 65 }).ev.v.toNat % 128 ∧ (withEv base { base.ev with v := 64 }).ev.v.toNat % 128 = 64
      ∧ base.ev.w.getLsbD 0 = false ∧ (withEv base { base.ev with w := 1 }).ev.w.getLsbD 0 = true ∧ (∀ r ∈ base.core.replicas, r.lease.isSome = true)
      ∧ base.core.wins = [] ∧ base.core.frames = [] ∧ (withWins base [{ base := 0, tiles := 1, sc := 1 }]).core.wins ≠ [])
    ∧ (let s := modPkg (withEv base { base.ev with n := 7 }) (fun p => { p with dmBusy := [(7, 2, 0)] })
       s.pkg.dmBusy.find? (fun x => x.1 == BitVec.ofNat 3 s.ev.n) = some (7, 2, 0) ∧ 0 ≤ s.core.cyc)
    ∧ (∀ v ∈ [0x10100, 0x10108, 0x10110], (withEv base { base.ev with v := BitVec.ofNat 64 v }).ev.v = BitVec.ofNat 64 v)
    ∧ (withEv base { base.ev with v := 0x100F8 }).ev.v = BitVec.ofNat 64 (0x10000 + 8 * (31 : Fin 32).val)
    ∧ (base.pkg.rejoining.elem base.ev.dev = false ∧ base.peerWaits 4 (base.ev.v.setWidth 52) base.ev.op = false
      ∧ (modPkg base (fun p => { p with rejoining := [0] })).pkg.rejoining.elem base.ev.dev = true)
    ∧ (let s := withEv wide { base.ev with v := 0xFFFC0, n := 64, data := [1, 2] }
       (s.winRead s.ev.v.toNat s.ev.n).isSome = true ∧ (∀ l ∈ winNumbers s.ev.v.toNat s.ev.n, s.hostHeld l = false)
        ∧ s.ev.v.toNat + s.ev.data.length ≤ s.windowSize
        ∧ (∀ l ∈ winNumbers s.ev.v.toNat s.ev.data.length, s.hostHeld l = false) ∧ s.meetsOwned s.ev.v.toNat s.ev.data.length = false)
    ∧ (let s := withEv (cmdState hdm 1 []) { base.ev with v := 0x107E, data := [1, 2] }
       s.ev.v.toNat + s.ev.data.length ≤ s.windowSize ∧ s.meetsOwned s.ev.v.toNat s.ev.data.length = true) := by decide +kernel

/-- A frame to this device. -/
def aFrame (n : BitVec 24) (good : Bool) : Frame :=
  { fcsOk := good, etherType := 0x88B5, dst := 0, src := 1, cls := 0, inc := 0, flow := 0, lseq := n, lack := 0, kidx := 0, rsv := 0, tagOk := true
    key := 0, nonce := nonceOf (!Config.linkDir (31 : Fin 32).val) n (({} : Link).wrapsAt n), msgs := [] }

/-- The frame fails at a device after reset just where its FCS does. -/
theorem aFrame_bad (n : BitVec 24) (good : Bool) (e : EvArgs) : (withEv base e).frameBad 31 (aFrame n good) = !good := by
  have h : base.pkg.links.get 31 = {} := by decide +kernel
  have hd : base.core.device = 0 := by decide +kernel
  have hk : ({} : Link).peerHas.getLsbD 0 = true ∧ ({} : Link).peerKey0 = 0 := by decide
  simp [State.frameBad, aFrame, withEv, h, hd]

theorem witness_FabricAndPlatform :
    (∀ x ∈ ([(1, true), (2, true), (0x800000, true), (1, false)] : List (Nat × Bool)),
      let n := BitVec.ofNat 24 x.1
      let s := withEv base { base.ev with n := 31, frame := some (aFrame n x.2) }
      s.ev.n = (31 : Fin 32).val ∧ s.frameBad 31 (aFrame n x.2) = !x.2)
    ∧ (∀ x ∈ ([(1, true), (2, true), (0x800000, true), (1, false)] : List (Nat × Bool)),
      let n := BitVec.ofNat 24 x.1
      let s := withEv base { base.ev with n := 31 }
      let k := s.pkg.links.get 31
      0 = s.incOf 1 ∧ 1 ≠ (modPkg s (fun p => { p with incs := [(1, 5)] })).incOf 1
        ∧ (n = 1 → n = k.rx + 1) ∧ (n ≠ 1 → n ≠ k.rx + 1 ∧ (n - (k.rx + 1)).toNat < 2 ^ 23))
    ∧ (∀ n ∈ [14, 15], let s := base.modLink 0 (fun k => { k with up := true, replay := [aFrame 0 true], sameReplay := n })
       let k := s.pkg.links.get 0
       k.up = true ∧ k.lastReplay = BitVec.ofNat 24 s.ev.v.toNat ∧ k.sameReplay + 1 = n + 1 ∧ ∃ f ∈ k.replay, f.lseq = BitVec.ofNat 24 s.ev.v.toNat)
    ∧ (base.ev.w.getLsbD 0 = false ∧ (withEv base { base.ev with w := 3 }).ev.w.getLsbD 0 = true)
    ∧ ((base.pkg.links.get 0).up = false ∧ (base.pkg.links.get 0).oldUntil = none ∧ (base.pkg.links.get 0).kidx = 0
      ∧ ((base.modLink 0 (fun k => { k with kidx := 1 })).pkg.links.get 0).kidx = 1 ∧ base.pkg.ptimeOk = true
      ∧ (modPkg base (fun p => { p with ptimeOk := false })).pkg.ptimeOk = false)
    ∧ (∀ n ∈ [7, 8], let x : Sent := { dst := 1, msn := 0, body := .request 4 0 (.read 8), resends := n, tag := 0, sentAt := 0 }
       (modPkg (atCyc base 150000) (fun p => { p with sent := [x] })).overdue = some x ∧ x.resends = n)
    ∧ base.pkg.launches = []
    ∧ (let s := withEv (modPkg (atCyc base 15000000) (fun p => { p with rejoining := [1] })) { base.ev with dev := 1 }
       s.pkg.rejoining.elem s.ev.dev = true ∧ s.ev.dev ∉ s.pkg.lost ∧ s.pkg.rejoinAt + 10000000 ≤ s.ptime.toNat)
    ∧ (∀ w ∈ [0, 1], let s := withEv (modPkg base (fun p => { p with bringUp := 4 })) { base.ev with w := BitVec.ofNat 64 w }
       s.pkg.powered = true ∧ s.pkg.failed = false ∧ s.pkg.bringUp < 5 ∧ s.ev.w.getLsbD 0 = decide (w = 1))
    ∧ (let s := withEv (modPkg base (fun p => { p with bringUp := 4 })) { base.ev with data := List.replicate 8 0 ++ leBytes 8 (2 ^ 32 + 1) }
       s.pkg.bringUp = 4 ∧ 2 ^ 32 < (carveOf (s.ev.data.length / 16) s.ev.data).foldl (fun a x => a + x.2.2) 0)
    ∧ ((modPkg base (fun p => { p with powered := false })).pkg.powered = false ∧ base.ev.w.getLsbD 0 = false)
    ∧ (∀ n ∈ [2, 5], let s := withEv (modPkg base (fun p => { p with bringUp := 1 })) { base.ev with n := n }
       (s.ev.n = 2 ∨ s.ev.n = 5) ∧ s.pkg.bringUp ≠ 0 ∧ s.pkg.failed = false)
    ∧ (let s := modPkg imageState (fun p => { p with bringUp := 5 })
       s.pkg.bringUp = 5 ∧ s.pkg.failed = false ∧ (s.winRead 0 64).map (fun bs => (wordAt bs 0).extractLsb' 0 32) = some 0x53444331#32) := by
  refine ⟨fun x _ => ⟨rfl, aFrame_bad _ _ _⟩, ?_⟩; decide +kernel

theorem witness_StepKeepsForm : Form base ∧ Form State.reset := by
  simp only [Form]; decide +kernel

/-- One instruction word of each kind of the statement: one word, two words, a step of the matrix unit; and words that decode. -/
theorem witness_EncodingRoundTrips :
    ((Instr.add 31 30 29 1 1).wf = true ∧ (Instr.add 31 30 29 1 1).isEvent = false ∧ (Instr.add 31 30 29 1 1).isStep = false)
    ∧ (Instr.movl 31 0xFFFFFFFF).wf = true
    ∧ ((Instr.loop 3 0xFFFF 0xFFF).wf = true ∧ (Instr.loop 3 0xFFFF 0xFFF).isStep = true)
    ∧ (decode 0x84031400 7).isSome = true ∧ (decode 0x90E00000 7).isSome = true ∧ (decodeStep 0x7000010000000001).isSome = true := by decide +kernel

/-- All that the statement about a step asks of a state with the instruction word `w` at PC, which decodes to `i` and fares so. -/
def stepsWith (s : State) (w : BitVec 32) (i : Instr) (v : Verdict) : Bool :=
  s.pkg.powered && s.agenda.isEmpty && s.dueEvents.isEmpty && s.core.switching == 0
    && (s.cur.level == .s || (majorOf w != 22 && s.cur.saving.isNone && s.cur.strand.any (fun x => x.state == .running)))
    && !s.cur.waiting && s.cur.strand.all (fun x => x.cross.isEmpty) && s.cur.annul == 0 && !s.atBreak && s.cur.fpHold.isNone && !s.cur.start
    && !s.cur.tlbHold && !s.foreignHere
    && (s.fresh.heldPacket (packetOf s.cur.pc)).any (fun ws => (bundleIn ws s.cur.pc).any (fun b =>
      b.bad.isNone && decide (b.words = [(0, w, 0)])))
    && decide (decodeIn s.curVer w 0 = some i) && !isRep w && !isVamo w
    && (s.fresh.packetsFor [{ pos := 0, w := w, i := i }]).all (fun a => (s.fresh.heldPacket a).isSome)
    && goesTo (exec i (s.fresh.atWord { pos := 0, w := w, i := i } true)) (fun t => decide (t.iss.verdict = v) && t.cur.withinLimits)

/-- A word that issues, one in S, one that ends its bundle, one that traps, one that is held; an event in the agenda. -/
theorem witness_StepRunsTheInstruction :
    stepsWith (State.reset.placed 0x0400FC00) 0x0400FC00 (.add 1 31 0 0 0) .issued = true
    ∧ stepsWith (State.reset.placed 0x1C600000) 0x1C600000 .exit .ended = true
    ∧ stepsWith (State.reset.placed 0x58000000) 0x58000000 .sret .ended = true
    ∧ stepsWith (State.reset.placed 0x1C300000) 0x1C300000 .brk (.trapped cBreak 0) = true
    ∧ stepsWith (inState (State.reset.placed 0x0400FC00) 31 .empty) 0x0400FC00 (.add 1 31 0 0 0) (.held .blocked) = true
    ∧ (let s : State := { base with agenda := [({ base.ev with v := 5 }, .einjWrite)] }
       s.pkg.powered = true ∧ s.agenda = [({ base.ev with v := 5 }, .einjWrite)]
        ∧ goesTo (exec .einjWrite { s.fresh with ev := { base.ev with v := 5 }, agenda := [] }) (fun _ => true) = true) := by decide +kernel





/-! ## The spec's own worked examples -/

/-- The worked words of R153, R158, R166, R172, R175-R179, R182, R187, R200, R203, R205, R207, R212, R216, R244, R255, R258, R263,
R267, R271, R284, R298, R346 and of the programs: each is the instruction of its assembly text. -/
theorem worked_words_control : ∀ x ∈ ([
    (0x14000040, .beqz 0 0 64), (0x1800007F, .jmp 127), (0x04031480, .add 6 5 4 0 0), (0x0C3ABEEF, .movz 7 1 0xBEEF)
  , (0x1A000400, .jal 0x400), (0x1C107C00, .jalr 0 31 0), (0x1C2000A2, .trap 5 2), (0x1C7280E0, .csrr 5 7)
  , (0xA3F08000, .rep 63 0 1 0 0 0), (0xA0001400, .rep 0 0 0 0 1 2), (0x90E00000, .movl 7 0), (0xA0C89200, .rep 12 1 1 0 1 1)
  , (0x158AFFF9, .bgez 0 10 0xFFF9), (0x14CA0029, .bnez 2 10 0x29), (0x148EFFE0, .bnez 0 14 0xFFE0), (0x05750D20, .sltu 10 3 9 0 0)
  , (0x140A001C, .beqz 0 10 0x1C), (0x05E9C802, .zext 19 18 0 2)
  , (0x58000000, .sret), (0x5812A000, .pcsrr 5 0x100), (0x58232120, .pcsrw 6 0x109), (0x58302960, .tlbinv 10 11 0 0), (0x58400000, .tlbsync)
  , (0x58500000, .ctxsave), (0x58600000, .ctxload), (0x5872A800, .strstart 5 10 0), (0x58802400, .strstop 9 0), (0x58900000, .wfi)
  , (0x58A00000, .haltc) ] : List (Nat × Instr)), decode (BitVec.ofNat 32 x.1) 0 = some x.2 := by decide

theorem worked_words_rows : ∀ x ∈ ([
    (0x430048C5, .vsel 0 1 2 3 5), (0x46450C00, .vsegscan 1 4 3 0), (0x45794800, .vcvt 6 5 2 0 0), (0x45994800, .vcvts 6 5 2 0 0)
  , (0x488C0110, .trn8W 6 0 2 8), (0x4CA04000, .viota 0 1 0 0), (0x4C11C448, .vbcast 4 7 4 9), (0x4304C400, .vsel 1 3 1 0 0)
  , (0xCCB58058, .viota 5 6 0 11), (0xC255D800, .vcle 5 7 6 0 0), (0xCCD5C001, .kfromrow 5 7 0 1), (0xC5632C40, .vcvt 0 12 11 1 0)
  , (0x42198540, .vceq 6 6 1 5 0), (0x4619D800, .vscan 6 7 6 0), (0x413AA580, .vand 6 10 9 6 0), (0x4D1800B1, .kpopc 6 22 1)
  , (0x50042005, .pload 1 4 0 5), (0x5040B060, .pgetr 1 6 3), (0x508C9000, .pcomp 3 1 2), (0x50D40009, .prand 5 9), (0x50F00000, .pid 4)
  , (0x51208007, .pcyc 1 7), (0x520A5000, .papplyR 2 9 4), (0x522A500A, .papplyL 2 9 4 5), (0x50A88000, .pinv 2 1)
  , (0x51408010, .pfix 1 16), (0x51608011, .pord 1 17)
  , (0x5400A601, .mcall 5 6 1), (0x54200A00, .mpset 0 5), (0x54480E00, .mpget 2 7), (0x54611000, .mtset 4 8 0), (0x54811200, .mtget 4 9)
  , (0x54A10000, .mtclr 4), (0x54C014B0, .mloadp 10 11), (0x54E00000, .mfencep), (0x5500C000, .mbmap 3) ] : List (Nat × Instr)),
    decode (BitVec.ofNat 32 x.1) 0 = some x.2 := by decide

theorem worked_words_memory : ∀ x ∈ ([
    (0x24A48004, .ld 5 4 2 0 4), (0x24C721FF, .ld 6 7 0 1 0x1FF), (0x24ACCC00, .ldAcq 5 12 3 0 2 0), (0x292CD400, .stRel 9 12 3 2 0)
  , (0x264DC000, .ld 18 13 3 0 0), (0x2C200900, .ldr 4 0 9 0), (0x2CB86A02, .str 7 3 10 2), (0x2D282B01, .ldrd 5 1 11 1)
  , (0x31255013, .acas 5 10 0 9 1), (0x30055181, .aadd 5 10 6 1), (0x33FD9142, .vamo 7 6 4 5 2), (0x3000BAC1, .aadd 0 23 11 1)
  , (0x34000008, .fence 0 2), (0x34000030, .fence 3 0), (0x342052C4, .relt 10 11 1), (0x34600000, .ifence), (0x34883000, .arrb 8 6)
  , (0x34A73200, .waitb 7 6 8), (0x34C56008, .waita 5 12 0 0 2), (0x34E02814, .evset 5 1 1), (0x354952C8, .swin 9 10 11 2)
  , (0x38062000, .acopy 6 4), (0x38262140, .agather 6 4 5), (0x38662140, .acoll 6 4 5), (0x38872000, .sbind 7 4), (0x38A72800, .sunb 7 5)
  , (0x38C32152, .anote 3 4 5 9), (0x38E60000, .acancel 6), (0x38E00001, .acancelAll)
  , (0x3C0552D8, .tspawn 5 10 11 12), (0x3C200000, .tend), (0x3C404800, .tabort 9), (0x3C655000, .twait 5 10), (0x3C800000, .tserial)
  , (0x3CA63800, .tinfo 6 7) ] : List (Nat × Instr)), decode (BitVec.ofNat 32 x.1) 0 = some x.2 := by decide

/-- R264: the three calls of the example, and the call at 990 that takes the last 10. -/
theorem aqchunk_example : atomicOp 14 true 0 (8 + 16 * 2 ^ 16) 0 1000 = (some 125, 0x00007D0000000000)
    ∧ atomicOp 14 true 125 (8 + 16 * 2 ^ 16) 0 1000 = (some 235, 0x00006E000000007D)
    ∧ atomicOp 14 true 990 (8 + 16 * 2 ^ 16) 0 1000 = (some 1000, 0x00000A00000003DE)
    ∧ atomicOp 14 true 1000 (8 + 16 * 2 ^ 16) 0 1000 = (none, 0x80000000000003E8) := by decide +kernel

/-- R218: n = 5 and the bytes 0, 3, 1, 3, 5. -/
theorem pload_example : permFault 5 [0, 3, 1, 3, 5] = some 0x05020303 := by decide +kernel

/-- The 3-cycle of R215. -/
def threeCycle : List Nat := [2, 0, 1] ++ (List.range 64).drop 3

/-- R215, R222: its canonical routing sets bits 1, 304, 320 and 321; it has 62 cycles, and tracing the switches gives it back. -/
theorem three_cycle_example :
    canon threeCycle = (1 <<< 1) ||| (1 <<< 304) ||| (1 <<< 320) ||| (1 <<< 321)
    ∧ permList (canon threeCycle) = threeCycle ∧ (cycles threeCycle).length = 62
    ∧ (cycleOf threeCycle 1).length = 3 ∧ (cycleOf threeCycle 5).length = 1 := by decide +kernel

/-- R205: 1000, -3, 0.1 and a signalling NaN in f32, converted to e4m3 without and with saturation; NV, OF and NX. -/
theorem vcvt_example :
    (let r := rowOfNats 32 [0x447A0000, 0xC0400000, 0x3DCCCCCD, 0x7F800001]
     cvtRow (fmtOf 0) (fmtOf 8) 0 false (BitVec.allOnes 256) r [] = (rowOfNats 8 [0x7F, 0xC4, 0x1D, 0x7F], 0x15)
      ∧ cvtRow (fmtOf 0) (fmtOf 8) 0 true (BitVec.allOnes 256) r [] = (rowOfNats 8 [0x7E, 0xC4, 0x1D, 0x7F], 0x15)) := by decide +kernel

/-- R203: bf16 lanes 1 to 8 with heads at lanes 0 and 3. -/
theorem vsegscan_example :
    (let x := [0x3F80, 0x4000, 0x4040, 0x4080, 0x40A0, 0x40C0, 0x40E0, 0x4100]
     scanLanes 9 (fun n => x.getD n 0) (0x9#256).getLsbD (scanCopy 1 0) (sumComb 1 0)
      = ([0x3F80, 0x4040, 0x40C0, 0x4080, 0x4110, 0x4170, 0x41B0, 0x41F0, 0x41F0], 0)) := by decide +kernel

/-- R69: a block of e4m3 from 1000, -3 and 0.1. -/
theorem block_example :
    (let vs := [FVal.fin false 1000 0, .fin true 3 0, .fin false 0xCCCCCD (-27)] ++ List.replicate 59 (.fin false 0 0)
     encodeBlock 8 0 false vs [] [] = ([0x08, 0x02, 0x78, 0xB4, 0x0D] ++ List.replicate 59 0, fNX)) := by decide +kernel

/-- R296: the commit order of the example, by timestamp and tiebreak. -/
theorem key_order_example : tbLess [0] [0, 0] = true ∧ tbLess [0, 0] [0, 0, 0] = true ∧ tbLess [0, 0, 0] [0, 1] = true
    ∧ tbLess [0, 1] [1] = true ∧ tbLess [1] [0, 1] = false ∧ tbLess [0] [0] = false := by decide

/-! ## One step of the machine -/

/-- R172, R160: a step of `movz s7, 0xBEEF, 16` leaves 0xBEEF0000 in s7 and moves PC to the next bundle; s0 keeps reading 0 (R32). -/
theorem step_movz : goesTo (step (State.reset.placed 0x0C3ABEEF)) (fun t => t.cur.sv 7 == 0xBEEF0000 && t.cur.pc == 0x60004
    && t.cur.sv 0 == 0) = true := by decide +kernel

/-- R255, R44, R39: a load from the pool is a long-latency producer: after its issue cycle the destination is EMPTY, a request is
under way, and the strand goes on. -/
theorem step_ld : goesTo (step (State.reset.placed 0x24A48004)) (fun t => (t.cur.s.get 5).st == .empty && t.pkg.reqs.length == 1
    && t.cur.pc == 0x60004) = true := by decide +kernel

/-- R180, R341: BRK traps to S before its bundle: the saved PC is the BRK's bundle, the cause 0x31, the trap value 0, and fetch
goes on at STVEC. -/
theorem step_brk : goesTo (step (State.reset.placed 0x1C300000)) (fun t => t.cur.level == .s && t.cur.pc == 0x6000C
    && t.cur.sc.sepc == 0x60000 && t.cur.sc.scause == 0x31 && t.cur.sc.stval == 0) = true := by decide +kernel

end Sys2Proof.Tests
end

section
/-! PROOFS. Marks and deliveries of long-latency results (02 R33, R39, R42; 01 R15): what each update of the contexts leaves, what a
delivery does to the context that issues, and O6. -/

namespace Sys2Proof.Machine

open Safe

/-! ## A strand changed, wherever it stands -/

@[simp] theorem State.modStrand_cur (s : State) (id : BitVec 40) (f : Strand → Strand) :
    (s.modStrand id f).cur = { s.cur with strand := s.cur.strand.map (fun x => if x.id == id then f x else x) } := rfl
@[simp] theorem State.modStrand_oth (s : State) (id : BitVec 40) (f : Strand → Strand) :
    (s.modStrand id f).oth = { s.oth with strand := s.oth.strand.map (fun x => if x.id == id then f x else x) } := rfl
@[simp] theorem State.modStrand_core (s : State) (id : BitVec 40) (f : Strand → Strand) : (s.modStrand id f).core = s.core := rfl
@[simp] theorem State.modStrand_mem (s : State) (id : BitVec 40) (f : Strand → Strand) : (s.modStrand id f).mem = s.mem := rfl
@[simp] theorem State.modStrand_marks (s : State) (id : BitVec 40) (f : Strand → Strand) :
    (s.modStrand id f).pkg.marks = s.pkg.marks := rfl

/-- A resident strand that becomes READY stays in its context (R13). -/
theorem State.makeReady_resident {s : State} {id : BitVec 40} (h : s.resident id = true) :
    s.makeReady id = s.modStrand id (fun x => { x with state := .ready }) := by
  simp only [State.makeReady, h, if_true]

/-- The id under which a context travels is that of its strand. -/
theorem Ctx.sid_some {c : Ctx} {x : Strand} (h : c.strand = some x) : c.sid = x.id := by simp [Ctx.sid, h]

/-! ## A mark taken off by its delivery -/

@[simp] theorem State.takeMark_cur (s : State) (d : Dlv) : (s.takeMark d).cur = s.cur := rfl
@[simp] theorem State.takeMark_core (s : State) (d : Dlv) : (s.takeMark d).core = s.core := rfl
@[simp] theorem State.takeMark_mem (s : State) (d : Dlv) : (s.takeMark d).mem = s.mem := rfl

/-- A register whose delivery has come waits for it no longer (R42). -/
theorem State.marked_takeMark (s : State) (d : Dlv) : (s.takeMark d).marked d.sid d.tag d.dest = false := by
  unfold State.marked State.takeMark
  rw [List.any_eq_false]
  intro m hm hc
  obtain ⟨-, hm⟩ := List.mem_filter.mp hm
  simp only [Bool.and_eq_true, beq_iff_eq] at hc
  obtain ⟨⟨hs, ht⟩, hd⟩ := hc
  simp [hs, ht, hd] at hm

theorem State.marked_congr {s t : State} (h : t.pkg.marks = s.pkg.marks) (sid : BitVec 40) (tag : Nat) (d : Dest) :
    t.marked sid tag d = s.marked sid tag d := by simp only [State.marked, h]

/-! ## A delivery into the context that issues (R15, R42, R395) -/

/-- What a delivery leaves of a context whatever it fills: its strand. -/
theorem Ctx.receive_strand (c : Ctx) (now : Nat) (d : Dlv) : (c.receive now d).strand = c.strand := by
  cases h : d.dest <;> simp [Ctx.receive, Ctx.put, Ctx.setRow, h]

/-- The state after a delivery has filled its register and its mark is off. -/
def State.taken1 (s : State) (d : Dlv) : State := ({ s with cur := s.cur.receive s.core.cyc d } : State).takeMark d

/-- A marked result for the current strand in U, not of a tile row, fills its register; a strand in state REPLY becomes READY. -/
theorem State.arrive_fills {s : State} {d : Dlv} (hs : s.cur.sid = d.sid) (hl : s.cur.level = .u) (hv : s.cur.saving = none)
    (hr : ∀ t r, d.dest ≠ .row t r) (hm : s.marked d.sid d.tag d.dest = true) :
    s.arrive d = s.taken1 d ∨ s.arrive d = (s.taken1 d).modStrand d.sid (fun x => { x with state := .ready }) := by
  have hp : (if d.pushes then (s.taken1 d).pushDelivered false d.dest else s.taken1 d) = s.taken1 d := by
    cases hd : d.dest with
    | row t r => exact absurd hd (hr t r)
    | s r | k r | p r | ma r => exact ite_self _
  have hu : (s.cur.level == Level.s) = false := by rw [hl]; rfl
  have hgo : s.arrive d = if s.cur.strand.any (fun x => x.state == .reply) && d.dest.real then (s.taken1 d).makeReady d.sid
      else s.taken1 d := by
    rw [← hp]
    simp only [State.arrive, hs, hu, hv, hm, beq_self_eq_true, if_true, Bool.false_and, Bool.false_eq_true, if_false,
      Option.isSome_none, State.taken1]
  rw [hgo]
  split
  · rename_i hc
    refine Or.inr (State.makeReady_resident ?_)
    cases hx : s.cur.strand with
    | none => simp [hx] at hc
    | some x =>
      have hres : (s.taken1 d).cur.strand = some x := (Ctx.receive_strand _ _ _).trans hx
      simp [State.resident, hres, ← hs, Ctx.sid_some hx]
  · exact Or.inl rfl

/-- What an arriving result leaves of a context that does not take it: all but the flags that come with it and what is held. -/
def Ctx.flagged (c : Ctx) (f : BitVec 6) (l : List Dlv) : Ctx :=
  { c with u := { c.u with ffl := c.u.ffl ||| f.setWidth 64 }, held := l }

/-- A result without its mark, or of a strand that is being saved, leaves the registers of the current context (R42, R395). -/
theorem State.arrive_passes {s : State} {d : Dlv} (hs : s.cur.sid = d.sid) (hl : s.cur.level = .u)
    (h : s.marked d.sid d.tag d.dest = false ∨ s.cur.saving.isSome = true) :
    ∃ l, s.arrive d = { s with cur := s.cur.flagged d.flags l } := by
  have hu : (s.cur.level == Level.s) = false := by rw [hl]; rfl
  cases hv : s.cur.saving.isSome with
  | true =>
    refine ⟨if s.marked d.sid d.tag d.dest then s.cur.held ++ [d] else s.cur.held, ?_⟩
    simp only [State.arrive, hs, hu, hv, beq_self_eq_true, if_true, Bool.false_and, Bool.false_eq_true, if_false, Ctx.flagged]
  | false =>
    have hm : s.marked d.sid d.tag d.dest = false := h.resolve_right (by simp [hv])
    refine ⟨s.cur.held, ?_⟩
    simp only [State.arrive, hs, hu, hv, hm, beq_self_eq_true, if_true, Bool.false_and, Bool.false_eq_true, if_false, Ctx.flagged]

/-! ## What the register reads as after its delivery -/

/-- A filled scalar takes the delivered value, FULL or POISONED. -/
theorem State.arrive_scalar {s : State} {d : Dlv} {r : BitVec 5} (h0 : r ≠ 0) (hd : d.dest = .s r) (hs : s.cur.sid = d.sid)
    (hl : s.cur.level = .u) (hv : s.cur.saving = none) (hm : s.marked d.sid d.tag d.dest = true) :
    (s.arrive d).cur.sv r = d.v.setWidth 64 ∧ (s.arrive d).cur.sst r = (if d.poison then .poisoned else .full)
      ∧ (s.arrive d).marked d.sid d.tag d.dest = false := by
  have hfile : (s.taken1 d).cur.s = (s.cur.setS r { v := d.v.setWidth 64, st := if d.poison then .poisoned else .full }).s := by
    simp only [State.taken1, State.takeMark_cur, Ctx.receive, Ctx.put, hd]
  have hread : ∀ t : State, t.cur.s = (s.taken1 d).cur.s → t.pkg.marks = (s.taken1 d).pkg.marks →
      t.cur.sv r = d.v.setWidth 64 ∧ t.cur.sst r = (if d.poison then .poisoned else .full) ∧ t.marked d.sid d.tag d.dest = false := by
    intro t hc hk
    rw [hfile] at hc
    refine ⟨?_, ?_, (State.marked_congr hk _ _ _).trans (State.marked_takeMark _ d)⟩
    · rw [Ctx.sv_congr hc, Ctx.sv_setS, if_pos ⟨h0, rfl⟩]
    · rw [Ctx.sst_congr hc, Ctx.sst_setS, if_pos ⟨h0, rfl⟩]
  rcases State.arrive_fills hs hl hv (by rw [hd]; intro t q; nofun) hm with h | h <;> rw [h]
  · exact hread _ rfl rfl
  · exact hread _ rfl rfl

/-! ## Marking (R33, R39) -/

/-- Right after a mark no result in flight goes to the register. -/
theorem State.mark_cancels {s : State} {tag : Nat} {r : BitVec 5} (h0 : r ≠ 0) :
    ∀ p ∈ (s.mark tag (.s r)).cur.pend, p.eff.writesTo (.s r) = false := by
  rw [State.mark_real (by simpa [Dest.real] using h0)]
  intro p hp
  rcases List.mem_append.mp hp with hp | hp
  · obtain ⟨q, hq, rfl⟩ := List.mem_map.mp hp
    obtain ⟨-, hq⟩ := List.mem_filter.mp hq
    have hsame : q.eff.sparing (.s r) = q.eff := by cases q.eff <;> rfl
    simpa [hsame] using hq
  · rw [List.mem_singleton.mp hp]; rfl

/-- A mark that lands leaves its scalar EMPTY. -/
theorem State.land_mark_empty (s : State) {r : BitVec 5} (h0 : r ≠ 0) : (s.land (.mark (.s r))).cur.sst r = .empty := by
  show (s.cur.setS r { v := s.cur.sv r, st := .empty }).sst r = .empty
  rw [Ctx.sst_setS, if_pos ⟨h0, rfl⟩]

theorem producerMarks : Claim.ProducerMarks := by
  intro s tag d
  refine ⟨fun h0 => ⟨?_, State.mark_cancels h0, ?_, s.land_mark_empty h0⟩, State.mark_not rfl⟩
  · rw [State.mark_real (by simpa [Dest.real] using h0)]
    simp [State.marked]
  · rw [State.mark_real (by simpa [Dest.real] using h0)]
    simp

theorem longLatencyDelivery : Claim.LongLatencyDelivery := by
  intro s d x h0 hd hs hl
  rw [← hd]
  refine ⟨fun hm hv => State.arrive_scalar h0 hd hs.symm hl hv hm, fun h => ?_⟩
  obtain ⟨l, h⟩ := State.arrive_passes hs.symm hl h
  rw [h]
  exact ⟨rfl, rfl, rfl⟩

/-- Settles O6: marking rewrites the results in flight and the marks; a delivery either fills its register or passes it by. -/
theorem longLatency : Obligations.LongLatency := ⟨producerMarks, longLatencyDelivery⟩

end Sys2Proof.Machine
end

section
/-! PROOFS. Traps that do not enter S (13 R312, 19 R341, 21 R392): what draining the results in flight leaves, what a save of a
context does, and O42. -/

namespace Sys2Proof.Machine

open Safe

/-! ## What landing leaves: the level (R43, R392) -/

theorem State.pushStream_level (s : State) (t : BitVec 4) (r : BitVec 6) : (s.pushStream t r).cur.level = s.cur.level := by
  unfold State.pushStream
  split
  · rfl
  · dsimp only
    split
    · rfl
    · split
      · obtain ⟨_, _, _, _, _, _, _, _, _, _, h⟩ := State.send_rest s.newTag.2
          { sid := s.cur.sid, tag := s.newTag.1, op := .store (rowBytes (s.cur.rowReg t r).v), loc := _
            va := (s.cur.streams.get _).addr, due := 0, push := some _ }
        rw [h]; rfl
      · rfl

/-- A fold of steps that each keep the level keeps it. -/
theorem State.foldl_level {α : Type} {f : State → α → State} (hf : ∀ s x, (f s x).cur.level = s.cur.level) :
    ∀ (l : List α) (s : State), (l.foldl f s).cur.level = s.cur.level
  | [], _ => rfl
  | x :: t, s => (State.foldl_level hf t (f s x)).trans (hf s x)

theorem State.writeCoreCsr_level (s : State) (n : BitVec 10) (v : Word) : (s.writeCoreCsr n v).cur.level = s.cur.level := by
  unfold State.writeCoreCsr; split <;> rfl

theorem Ctx.put_level (c : Ctx) (now : Nat) (d : Dest) (v : Row) (sel : Mask) (poison : Bool) :
    (c.put now d v sel poison).level = c.level := by
  cases d <;> simp [Ctx.put, Ctx.setRow]

theorem Ctx.empty_level (c : Ctx) (now : Nat) (d : Dest) : (c.empty now d).level = c.level := by
  cases d <;> simp [Ctx.empty, Ctx.setRow]

/-- Whatever lands, the level stays. -/
theorem State.land_level (s : State) (e : Eff) : (s.land e).cur.level = s.cur.level := by
  cases e with
  | write d v sel poison =>
    have h : (s.modCur (fun c => c.put s.landCycle d v sel poison)).cur.level = s.cur.level := Ctx.put_level _ _ _ _ _ _
    cases d with
    | row t r => exact (State.pushStream_level _ t r).trans h
    | s r | k r | p r | ma r => exact h
  | zeroTile t keep => exact State.foldl_level (fun s r => s.pushStream_level t r) _ _
  | mark d => exact Ctx.empty_level _ _ _
  | csr n v =>
    unfold State.land State.writeCsr
    dsimp only
    split
    · rfl
    · exact State.writeCoreCsr_level _ _ _
  | flags f | gen v | attr t v bm | moved t v bm | tsw t clear v => rfl

theorem State.tick_level (s : State) : s.tick.cur.level = s.cur.level :=
  State.foldl_level (f := fun s (p : Pend) => s.land p.eff) (fun s p => s.land_level p.eff) _ _

theorem State.cycleEnd_level (s : State) : s.cycleEnd.cur.level = s.cur.level := by
  unfold State.cycleEnd
  dsimp only
  split <;> split
  · exact State.tick_level _
  · rfl
  · exact State.tick_level _
  · rfl

theorem State.frozen_cur (s : State) : s.frozen.cur = s.cur := by unfold State.frozen; split <;> rfl

/-- Issue cycles in which nothing issues keep the level (R389, R392). -/
theorem State.drain_level (s : State) : s.drain.cur.level = s.cur.level := by
  refine State.foldl_level (fun s _ => ?_) _ _
  split
  · rfl
  · rw [State.cycleEnd_level, State.frozen_cur]

/-! ## Delegated traps (R341, R392) -/

/-- The seven causes of R341, listed. -/
theorem delegable_iff (k : Cause) : delegable k = true ↔
    (k = cEmptyRead ∨ k = cRepCount ∨ k = cHostAtomic ∨ k = cPermInvalid ∨ k = cFpTrap ∨ k = cTrap ∨ k = cBreak) := by
  simp only [delegable, Bool.or_eq_true, beq_iff_eq, or_assoc]

/-- Bits 55:2 of UTVEC are 0 exactly where its address is. -/
theorem utvecSet_iff (v : Word) : (seg v 2 54 != 0) = true ↔ v.toNat / 4 % 2 ^ 54 ≠ 0 := by
  rw [bne_iff_ne, ne_eq, ← BitVec.toNat_inj, seg, BitVec.extractLsb'_toNat, Nat.shiftRight_eq_div_pow]
  rfl

/-- When a cause is delegated (R392). -/
theorem State.delegates_iff (s : State) (k : Cause) : s.delegates k = true ↔
    (s.cur.sc.sstatus.getLsbD 3 = true ∧ s.cur.level = .u ∧ s.cur.u.utvec.toNat / 4 % 2 ^ 54 ≠ 0 ∧ s.cur.u.ucause.getLsbD 8 = false
      ∧ (k = cEmptyRead ∨ k = cRepCount ∨ k = cHostAtomic ∨ k = cPermInvalid ∨ k = cFpTrap ∨ k = cTrap ∨ k = cBreak)) := by
  rw [← delegable_iff, ← utvecSet_iff]
  simp only [State.delegates, Bool.and_eq_true, beq_iff_eq, Bool.not_eq_true']
  constructor
  · rintro ⟨⟨⟨⟨hdel, hcause⟩, hlevel⟩, hvec⟩, hvalid⟩
    exact ⟨hdel, hlevel, hvec, hvalid, hcause⟩
  · rintro ⟨hdel, hlevel, hvec, hvalid, hcause⟩
    exact ⟨⟨⟨⟨hdel, hcause⟩, hlevel⟩, hvec⟩, hvalid⟩

/-- A machine check is not delegated. -/
theorem State.delegates_ne_check {s : State} {k : Cause} (h : s.delegates k = true) : (k == cMachineCheck) = false := by
  obtain ⟨-, -, -, -, hk⟩ := (s.delegates_iff k).mp h
  rcases hk with rfl | rfl | rfl | rfl | rfl | rfl | rfl <;> decide

/-- A delegated trap enters the handler of U. -/
theorem State.trapHere_delegated {s : State} {t : TrapInfo} (hn : NotSpec s) (h : s.delegates t.cause = true) :
    (s.trapHere t).cur = (s.enterU t s.cur.pc s.cur.npc s.cur.nnpc).cur := by
  have hc := State.delegates_ne_check h
  obtain ⟨-, hl, -⟩ := (s.delegates_iff t.cause).mp h
  have hv : s.faultsAtStvec = false := by simp [State.faultsAtStvec, hl]
  unfold NotSpec at hn
  simp only [State.trapHere, State.takeTrap, hc, hn, hv, h, Bool.false_eq_true, Bool.false_and, Bool.and_false, if_false, if_true]

/-- An interrupted repetition leaves a context all but its strand's wait. -/
theorem Ctx.endDropped_eq (c : Ctx) : ∃ x, c.endDropped = { c with repEnd := none, strand := x } := by
  unfold Ctx.endDropped
  split
  · exact ⟨_, rfl⟩
  · exact ⟨c.strand, rfl⟩

/-- What the handler of U finds (R392). -/
theorem State.enterU_cur (s : State) (t : TrapInfo) (pc npc nnpc : Word) :
    ∃ x n nn, (s.enterU t pc npc nnpc).cur = { s.drain.cur with
      strand := x, repEnd := none, stuck := 0, why := .none, fpHold := none, repN := none, hostOp := none, bmHold := false
      start := false, noBreak := false, annul := 0, line := false
      u := { s.drain.cur.u with uepc := pc, unpc := npc, unnpc := nnpc, ucause := t.cause.setWidth 64 ||| 0x100, utval := t.value }
      pc := sext64 56 s.drain.cur.u.utvec, npc := n, nnpc := nn } := by
  obtain ⟨x, hx⟩ := s.drain.cur.endDropped_eq
  unfold State.enterU State.jumpTo
  simp only [State.modCur_cur, hx]
  exact ⟨_, _, _, rfl⟩

theorem delegatedTraps : Claim.DelegatedTraps := by
  refine ⟨fun s t hn h => ?_, State.delegates_iff⟩
  obtain ⟨-, hl, -⟩ := (s.delegates_iff t.cause).mp h
  obtain ⟨x, n, nn, hc⟩ := s.enterU_cur t s.cur.pc s.cur.npc s.cur.nnpc
  rw [State.trapHere_delegated hn h, hc]
  refine ⟨s.drain_level.trans hl, rfl, rfl, rfl, rfl, rfl, ?_, rfl, rfl, rfl⟩
  simp only [sext64, BitVec.ofNat_toNat]

/-! ## Saves of a context (R14, R394) -/

/-- One of the two contexts. -/
def State.ctx (s : State) (other : Bool) : Ctx := if other then s.oth else s.cur

/-- The strand of an interrupted context keeps all but its wait, and that too where no word waits for a last repetition (R192). -/
theorem Ctx.endDropped_some {c : Ctx} {x : Strand} (h : c.strand = some x) :
    ∃ w, c.endDropped = { c with repEnd := none, strand := some { x with wait := w } } ∧ (c.repEnd = none → w = x.wait) := by
  unfold Ctx.endDropped
  split
  · rename_i hr
    exact ⟨none, by rw [h]; rfl, fun h0 => by rw [h0] at hr; exact nomatch hr⟩
  · exact ⟨x.wait, by rw [← h], fun _ => rfl⟩

/-- The strand that a save of its context leaves among those that are not resident. -/
def Strand.savedFrom (x : Strand) (s : State) (c : Ctx) (st : StState) (why : BitVec 8) (place : Place) (w : Option Wait) : Strand :=
  { x with wait := w, state := st, why := why, place := place, fill := .image, pc := c.pc, npc := c.npc, nnpc := c.nnpc
           level := x.prio, since := s.core.cyc, arr := s.pkg.arrNo }

theorem State.stopCalls_cur (s : State) (id : BitVec 40) : (s.stopCalls id).cur = s.cur := by
  unfold State.stopCalls; dsimp only; split <;> rfl

theorem State.stopCalls_oth (s : State) (id : BitVec 40) : (s.stopCalls id).oth = s.oth := by
  unfold State.stopCalls; dsimp only; split <;> rfl

/-- A save empties the context; its strand, with the given state, why and place, is then not resident (R394). -/
theorem State.saveNow_saves {s : State} {other : Bool} {x : Strand} (st : StState) (why : BitVec 8) (place : Place)
    (h : (s.ctx other).strand = some x) :
    ((s.saveNow other st why place).ctx other).strand = none
      ∧ ∃ w, x.savedFrom s (s.ctx other) st why place w ∈ (s.saveNow other st why place).pkg.strands := by
  obtain ⟨w, hw, -⟩ := Ctx.endDropped_some h
  unfold State.ctx at hw
  simp only [State.saveNow, hw]
  refine ⟨?_, w, ?_⟩
  · cases other <;>
      simp only [State.ctx, State.stopCalls_cur, State.stopCalls_oth, Ctx.vacated, Bool.false_eq_true, if_false, if_true]
  · exact List.mem_append_right _ (List.mem_singleton.mpr rfl)

/-- A strand none of whose stores is on its way within the package is saved at once (R14). -/
theorem State.saveCtx_savable {s : State} {other : Bool} {x : Strand} (st : StState) (why : BitVec 8) (place : Place)
    (h : (s.ctx other).strand = some x) (hs : s.savable x.id = true) : s.saveCtx other st why place = s.saveNow other st why place := by
  unfold State.ctx at h
  simp only [State.saveCtx, h, hs, if_true]

/-- A context whose save waits: its strand has the state and why that the save leaves it in. -/
def Ctx.awaiting (c : Ctx) (st : StState) (why : BitVec 8) (place : Place) : Ctx :=
  { c.modStrand (fun x => { x with state := st, why := why }) with saving := some (st, why, place) }

/-- Any other keeps its context until they are performed (R14). -/
theorem State.saveCtx_waits {s : State} {other : Bool} {x : Strand} (st : StState) (why : BitVec 8) (place : Place)
    (h : (s.ctx other).strand = some x) (hs : s.savable x.id = false) :
    s.saveCtx other st why place = (if other then { s with oth := s.oth.awaiting st why place }
      else { s with cur := s.cur.awaiting st why place } : State).hurry x.id := by
  unfold State.ctx at h
  simp only [State.saveCtx, h, hs, Bool.false_eq_true, if_false, Ctx.awaiting]
  cases other <;> rfl

/-- Two states whose current contexts show the same registers, with one memory and one other context, show the same machine. -/
theorem sameMachine_of {s t : State} (hs : t.cur.s = s.cur.s) (ht : t.cur.t = s.cur.t) (hk : t.cur.k = s.cur.k)
    (hp : t.cur.p = s.cur.p) (hma : t.cur.ma = s.cur.ma) (hu : t.cur.u = s.cur.u) (hsc : t.cur.sc = s.cur.sc)
    (hl : t.cur.level = s.cur.level) (hm : t.mem = s.mem) (hpo : t.poison = s.poison) (ho : t.oth = s.oth) : SameMachine s t := by
  refine ⟨⟨fun r => ⟨Ctx.sv_congr hs r, Ctx.sst_congr hs r⟩, fun x => ?_, Ctx.kv_congr hk, Ctx.pv_congr hp, fun m => ?_, hu, hsc, hl, ?_⟩,
    fun a => by rw [hm], hpo, ho⟩
  · simp only [Ctx.tile, ht]
  · simp only [Ctx.mav, hma]
  · rw [ho]

/-- A save of the current context that waits changes nothing of the machine but the state that its strand is in (R14). -/
theorem State.saveCtx_waits_here {s : State} {x : Strand} (st : StState) (why : BitVec 8) (place : Place)
    (h : s.cur.strand = some x) (hs : s.savable x.id = false) :
    SameMachine s (s.saveCtx false st why place) ∧ (s.saveCtx false st why place).cur.saving = some (st, why, place)
      ∧ (s.saveCtx false st why place).cur.strand = some { x with state := st, why := why } := by
  rw [State.saveCtx_waits (other := false) st why place h hs]
  refine ⟨sameMachine_of rfl rfl rfl rfl rfl rfl rfl rfl rfl rfl rfl, rfl, ?_⟩
  show s.cur.strand.map _ = _
  rw [h]; rfl

/-! ## Deferred traps of a speculative task (R312) -/

/-- The state whose current strand records a deferred trap. -/
def State.recording (s : State) (k : Cause) : State :=
  s.modCur (fun c => c.modStrand (fun x => { x with dfp := true, dcause := k }))

theorem State.recording_strand {s : State} {x : Strand} (k : Cause) (h : s.cur.strand = some x) :
    (s.recording k).cur.strand = some { x with dfp := true, dcause := k } := by
  show s.cur.strand.map _ = _
  rw [h]; rfl

/-- A trap of a speculative task in U, other than a machine check, is deferred: the task is saved FAULTED with why 9. -/
theorem State.trapHere_deferred {s : State} {t : TrapInfo} (hl : s.cur.level = .u) (hsp : s.curSpec = true) (hc : t.cause ≠ cMachineCheck) :
    s.trapHere t = { (s.recording t.cause).saveCtx false .faulted 9 .off with
      iss := { ((s.recording t.cause).saveCtx false .faulted 9 .off).iss with verdict := .trapped t.cause t.value } } := by
  have hc : (t.cause == cMachineCheck) = false := by simpa using hc
  have hd : s.deferTrap t s.cur.pc s.cur.npc s.cur.nnpc = (s.recording t.cause).saveCtx false .faulted 9 .off := rfl
  simp only [State.trapHere, State.takeTrap, hc, hl, hsp, hd, Bool.false_eq_true, Bool.false_and, if_false, beq_self_eq_true,
    Bool.and_self, if_true]

theorem deferredTraps : Claim.DeferredTraps := by
  intro s t x hl hsp hx hc
  have hx1 := State.recording_strand t.cause hx
  rw [State.trapHere_deferred hl hsp hc]
  refine ⟨rfl, fun hs => ?_, fun hs => ?_⟩
  · rw [State.saveCtx_savable (other := false) _ _ _ hx1 hs]
    obtain ⟨hgone, w, hw⟩ := State.saveNow_saves (other := false) .faulted 9 .off hx1
    exact ⟨hgone, _, hw, rfl, rfl, rfl, rfl, rfl, rfl, rfl, rfl, rfl⟩
  · obtain ⟨hsame, hsv, hst⟩ := State.saveCtx_waits_here .faulted 9 .off hx1 hs
    exact ⟨hsame, hsv, _, hst, rfl, rfl, rfl, rfl, rfl⟩

/-- Settles O42: a delegated trap drains and enters the handler of U; a deferred one is a save of its context. -/
theorem otherTraps : Obligations.OtherTraps := ⟨delegatedTraps, deferredTraps⟩

end Sys2Proof.Machine
end

section
/-! PROOFS. Fetch, deliveries and the core's timers (02 R48, R49; 06 R139, R142, R154; 07 R160; 09 R219; 20 R377), and O44. -/

namespace Sys2Proof.Machine

open Safe

/-! ## The arms of these events -/

theorem exec_packetFetch (s : State) : exec .packetFetch s = execPacketFetch s := rfl
theorem exec_longLatencyDelivery (s : State) : exec .longLatencyDelivery s = execLongLatencyDelivery s := rfl
theorem exec_solveDelivery (s : State) : exec .solveDelivery s = execSolveDelivery s := rfl
theorem exec_annulledBundle (s : State) : exec .annulledBundle s = execAnnulledBundle s := rfl
theorem exec_refresh (s : State) : exec .refresh s = execRefresh s := rfl
theorem exec_rowExpiry (s : State) : exec .rowExpiry s = execRowExpiry s := rfl

/-- An event whose condition holds comes. -/
theorem State.event1_true {s : State} {ok : Bool} (k : Unit → State) (h : ok = true) : s.event1 ok k = .next (issued (k ())) := by
  simp only [State.event1, h, if_true, happen_ok]

/-! ## Fetch (R139, R377, R396) -/

/-- A packet whose twelve bytes translate and carry no error is read. -/
theorem State.fetchPacket_ok {s : State} {base : Word} {l : List (Phys × Nat)}
    (h : s.checkRange s.cur.level s.cur.sc.satp .fetch base 12 = .ok l) (hb : ∀ x ∈ l, s.badAt x.1 x.2 = false) :
    s.fetchPacket base = .ok (packetWords (s.readRange l)) := by
  have hb : l.any (fun x => s.badAt x.1 x.2) = false := by
    rw [List.any_eq_false]; intro x hx; simp [hb x hx]
  unfold State.fetchPacket State.fetchSatp
  rw [h]
  exact if_neg (by simpa using hb)

theorem State.fetchPacket_error {s : State} {base : Word} {e : TrapInfo}
    (h : s.checkRange s.cur.level s.cur.sc.satp .fetch base 12 = .error e) : s.fetchPacket base = .error e := by
  unfold State.fetchPacket State.fetchSatp
  rw [h]

theorem State.fetchHeld_false {s : State} {base : Word} {l : List (Phys × Nat)}
    (h : s.checkRange s.cur.level s.cur.sc.satp .fetch base 12 = .ok l) (hb : ∀ x ∈ l, s.memHeld x.1 x.2 = false) :
    s.fetchHeld base = false := by
  unfold State.fetchHeld State.fetchSatp
  rw [h]
  exact List.any_eq_false.mpr (fun x hx => by simp [hb x hx])

theorem fetchEvents : Claim.FetchEvents := by
  intro s
  refine ⟨fun l h hx => ?_, fun e h => ?_, rfl, rfl, fun h => ?_, rfl⟩
  · obtain ⟨tlb, ht⟩ := s.noteTlb_rest s.fetchSatp (packetOf s.ev.v)
    rw [exec_packetFetch]
    unfold execPacketFetch
    simp only [State.fetchPacket_ok h (fun x hm => (hx x hm).1), State.fetchHeld_false h (fun x hm => (hx x hm).2), ht, happen_ok,
      Bool.false_eq_true, if_false]
    exact ⟨_, rfl, rfl, sameMachine_of rfl rfl rfl rfl rfl rfl rfl rfl rfl rfl rfl, rfl, rfl⟩
  · rw [exec_packetFetch]
    unfold execPacketFetch
    simp only [State.fetchPacket_error h, happen_trap]
  · rw [exec_annulledBundle]
    exact State.event1_true _ (by simpa using h)

/-! ## Row expiry (R49) -/

theorem RowReg.spent_iff (q : RowReg) (now : Nat) : q.spent now = true ↔ q.st = .full ∧ q.wr + 4096 ≤ now := by
  simp only [RowReg.spent, Bool.and_eq_true, beq_iff_eq, decide_eq_true_eq]

/-- An element of a mapped vector. -/
theorem vget_map {α β : Type} {n : Nat} (v : Vector α n) (f : α → β) (i : Fin n) : (v.map f).get i = f (v.get i) :=
  Vector.getElem_map f i.isLt

/-- A FULL row of a short-lived tile past its count becomes EXPIRED; any other row stays. -/
theorem Ctx.rowReg_expire (c : Ctx) (now : Nat) (x : BitVec 4) (r : BitVec 6) :
    let old := (c.tile x).attr.getLsbD 8 = true ∧ (c.rowReg x r).st = .full ∧ (c.rowReg x r).wr + 4096 ≤ now
    (old → (c.expire now).rowReg x r = { c.rowReg x r with st := .expired }) ∧ (¬ old → (c.expire now).rowReg x r = c.rowReg x r) := by
  dsimp only
  rw [← RowReg.spent_iff]
  simp only [Ctx.rowReg, Ctx.tile, Ctx.expire, vget_map]
  by_cases ha : (c.t.get x.toFin).attr.getLsbD 8 = true
  · simp only [ha, if_true, true_and, vget_map]
    exact ⟨fun hs => if_pos hs, fun hs => if_neg hs⟩
  · simp only [ha, false_and, false_implies, not_false_iff, Bool.false_eq_true, if_false, true_implies, and_self]

/-! ## Solves (R219) -/

/-- A permutation register that waits for its solve takes it and becomes FULL. -/
theorem State.arrive_perm {s : State} {d : Dlv} {r : BitVec 3} (h0 : r ≠ 0) (hd : d.dest = .p r) (hs : s.cur.sid = d.sid)
    (hl : s.cur.level = .u) (hv : s.cur.saving = none) (hm : s.marked d.sid d.tag d.dest = true) :
    (s.arrive d).cur.pv r = { v := d.v.setWidth 352, full := true } ∧ (s.arrive d).mem = s.mem ∧ (s.arrive d).core = s.core := by
  have hfile : (s.taken1 d).cur.p = (s.cur.setP r { v := d.v.setWidth 352, full := true }).p := by
    simp only [State.taken1, State.takeMark_cur, Ctx.receive, Ctx.put, hd]
  have hread : ∀ t : State, t.cur.p = (s.taken1 d).cur.p → t.cur.pv r = { v := d.v.setWidth 352, full := true } := by
    intro t hc
    rw [Ctx.pv_congr (hc.trans hfile), Ctx.pv_setP, if_pos ⟨h0, rfl⟩]
  rcases State.arrive_fills hs hl hv (by rw [hd]; intro t q; nofun) hm with h | h <;> rw [h]
  · exact ⟨hread _ rfl, rfl, rfl⟩
  · exact ⟨hread _ rfl, rfl, rfl⟩

/-- The delivery that a solve makes. -/
def Solve.dlv (x : Solve) : Dlv :=
  { sid := x.sid, tag := x.tag, dest := .p x.pd, v := x.v.setWidth 2048, sel := BitVec.allOnes 256, poison := false, due := .issue x.left }

/-- SOLVE_DELIVERY of a solve whose cycles have passed is the arrival of its result. -/
theorem execSolveDelivery_due {s : State} {x : Solve} {rest : List Solve} (h : s.core.solves = x :: rest) (hd : x.left ≤ s.core.isc) :
    execSolveDelivery s = .next (issued (({ s with core := { s.core with solves := rest } } : State).arrive x.dlv)) := by
  simp only [execSolveDelivery, h, if_neg (Nat.not_lt.mpr hd), happen_ok, Solve.dlv]

theorem coreTimers : Claim.CoreTimers := by
  intro s
  refine ⟨fun d hd hdue => ?_, fun x rest hx hleft hs hl hv h0 hm => ?_, fun h => ?_, fun h => ?_⟩
  · rw [exec_longLatencyDelivery]
    unfold execLongLatencyDelivery
    simp only [hd, hdue, if_true, happen_ok]
  · obtain ⟨hp, hmem, hcore⟩ := State.arrive_perm (s := { s with core := { s.core with solves := rest } }) (d := x.dlv)
      h0 rfl hs.symm hl hv hm
    refine ⟨_, (exec_solveDelivery s).trans (execSolveDelivery_due hx hleft), rfl, ?_, ?_, ?_, ?_⟩ <;> dsimp only [issued]
    · rw [hcore]
    · rw [hp]
      exact (BitVec.setWidth_setWidth_of_le x.v (by decide : 352 ≤ 2048)).trans (BitVec.setWidth_eq x.v)
    · rw [hp]
    · rw [hmem]
  · exact (exec_refresh s).trans (State.event1_true _ (by simpa using h))
  · refine ⟨_, (exec_rowExpiry s).trans (State.event1_true _ h), rfl, rfl, fun x r => ?_⟩
    exact s.cur.rowReg_expire s.core.cyc x r

/-- Settles O44: each event is the update its rule names; the timers change the cycle counts and the rows past their count alone. -/
theorem fetchAndTimers : Obligations.FetchAndTimers := ⟨fetchEvents, coreTimers⟩

end Sys2Proof.Machine
end

section
/-! PROOFS. What a write to memory leaves of the contexts (01 R28, 05 R131): the waits of their strands alone. -/

namespace Sys2Proof.Machine

open Safe

/-! ## Operations that leave both contexts -/

/-- Both contexts are the same. -/
def State.SameCtxs (s t : State) : Prop := t.cur = s.cur ∧ t.oth = s.oth

theorem State.SameCtxs.refl (s : State) : State.SameCtxs s s := ⟨rfl, rfl⟩

theorem State.SameCtxs.trans {s t u : State} (h : State.SameCtxs s t) (k : State.SameCtxs t u) : State.SameCtxs s u :=
  ⟨k.1.trans h.1, k.2.trans h.2⟩

/-- A fold of steps that each leave the contexts leaves them. -/
theorem State.SameCtxs.foldl {α : Type} {f : State → α → State} (hf : ∀ s x, State.SameCtxs s (f s x)) :
    ∀ (l : List α) (s : State), State.SameCtxs s (l.foldl f s)
  | [], s => State.SameCtxs.refl s
  | x :: t, s => (hf s x).trans (State.SameCtxs.foldl hf t (f s x))

theorem State.putLine_ctxs (s : State) (key : BitVec 8) (l : Nat) (f : List Byte → List Byte) : State.SameCtxs s (s.putLine key l f) := by
  unfold State.putLine; exact ⟨rfl, rfl⟩

theorem State.pokeAt_ctxs (s : State) (p : Phys) (bs : List Byte) : State.SameCtxs s (s.pokeAt p bs) := by
  unfold State.pokeAt
  split
  · refine State.SameCtxs.foldl (fun s l => ?_) _ _
    dsimp only
    split <;> exact s.putLine_ctxs _ _ _
  · exact ⟨rfl, rfl⟩

theorem State.pokePool_ctxs (s : State) (p : Phys) (bs : List Byte) : State.SameCtxs s (s.pokePool p bs) := by
  refine State.SameCtxs.foldl (fun s l => ?_) _ _
  dsimp only
  split <;> exact ⟨rfl, rfl⟩

theorem State.putAt_ctxs (s : State) (p : Phys) (bs : List Byte) : State.SameCtxs s (s.putAt p bs) := by
  unfold State.putAt
  split
  · exact s.pokePool_ctxs p bs
  · exact (s.pokeAt_ctxs p bs).trans (State.SameCtxs.foldl (f := State.clearPoison) (fun _ _ => ⟨rfl, rfl⟩) _ _)

theorem State.fillShadow_ctxs (s : State) (p : Phys) : State.SameCtxs s (s.fillShadow p) := by
  unfold State.fillShadow; split <;> exact ⟨rfl, rfl⟩

theorem State.shadowWrite_ctxs (s : State) (p : Phys) (n : Nat) : State.SameCtxs s (s.shadowWrite p n) := by
  unfold State.shadowWrite State.shadowAfter
  split
  · exact State.SameCtxs.refl s
  · split
    · refine State.SameCtxs.foldl (fun s l => ?_) _ _
      split
      · exact s.fillShadow_ctxs _
      · exact State.SameCtxs.refl s
    · exact State.SameCtxs.refl s

theorem State.dirtyAfter_ctxs (s : State) (p : Phys) (n : Nat) : State.SameCtxs s (s.dirtyAfter p n) := by
  unfold State.dirtyAfter
  split
  · exact ⟨rfl, rfl⟩
  · split <;> exact ⟨rfl, rfl⟩

theorem State.injectAfter_ctxs (s : State) (p : Phys) (n : Nat) : State.SameCtxs s (s.injectAfter p n) := by
  unfold State.injectAfter State.injectIn
  dsimp only
  split <;> exact ⟨rfl, rfl⟩

/-! ## Writes: the waits of the residents may settle (R28, R131) -/

/-- The contexts are the same but for the waits of their strands. -/
def State.Rechecked (s t : State) : Prop :=
  ∃ f : Strand → Strand, (∀ x, ∃ w, f x = { x with wait := w })
    ∧ t.cur = s.cur.modStrand f ∧ t.oth = s.oth.modStrand f

theorem State.SameCtxs.rechecked {s t : State} (h : State.SameCtxs s t) : State.Rechecked s t := by
  have hid : ∀ c : Ctx, c.modStrand id = c := fun c => by simp [Ctx.modStrand]
  exact ⟨id, fun x => ⟨x.wait, rfl⟩, by rw [h.1, hid], by rw [h.2, hid]⟩

theorem State.Rechecked.trans {s t u : State} (h : State.Rechecked s t) (k : State.Rechecked t u) : State.Rechecked s u := by
  obtain ⟨f, hf, hcur, hoth⟩ := h
  obtain ⟨g, hg, kcur, koth⟩ := k
  refine ⟨g ∘ f, fun x => ?_, ?_, ?_⟩
  · obtain ⟨w, hw⟩ := hf x
    obtain ⟨v, hv⟩ := hg (f x)
    exact ⟨v, by rw [Function.comp_apply, hv, hw]⟩
  · rw [kcur, hcur]; simp [Ctx.modStrand]
  · rw [koth, hoth]; simp [Ctx.modStrand]

theorem State.recheck_rechecked (s : State) (p : Phys) (n : Nat) : State.Rechecked s (s.recheck p n) := by
  refine ⟨s.settleStrand p.key0 n, fun x => ?_, rfl, rfl⟩
  unfold State.settleStrand
  split
  · exact ⟨x.wait, rfl⟩
  · split
    · exact ⟨x.wait, rfl⟩
    · split
      · exact ⟨_, rfl⟩
      · exact ⟨x.wait, rfl⟩

theorem State.writeAt_rechecked (s : State) (p : Phys) (bs : List Byte) : State.Rechecked s (s.writeAt p bs) := by
  have hput := ((s.putAt_ctxs p bs).trans (State.shadowWrite_ctxs _ p bs.length)).trans (State.dirtyAfter_ctxs _ p bs.length)
  exact (hput.rechecked.trans (State.recheck_rechecked _ p bs.length)).trans (State.injectAfter_ctxs _ p bs.length).rechecked

theorem State.writeRange_rechecked : ∀ (l : List (Phys × Nat)) (s : State) (bs : List Byte), State.Rechecked s (s.writeRange l bs)
  | [], s, _ => (State.SameCtxs.refl s).rechecked
  | (p, m) :: t, s, bs => (s.writeAt_rechecked p (bs.take m)).trans (State.writeRange_rechecked t _ (bs.drop m))

theorem State.vwrite_rechecked (s : State) (satp va : Word) (bs : List Byte) : State.Rechecked s (s.vwrite satp va bs) := by
  unfold State.vwrite
  split
  · exact (State.SameCtxs.refl s).rechecked
  · exact State.writeRange_rechecked _ s bs

end Sys2Proof.Machine
end

section
/-! PROOFS. Dispatch, the queues, aging, context saves and the quantum (01 R13, R27; 13 R319; 19 R352-R355; 21 R394), and O45. -/

namespace Sys2Proof.Machine

open Safe

/-! ## The arms of these events -/

theorem exec_dispatch (s : State) : exec .dispatch s = execDispatch s := rfl
theorem exec_queueTransfer (s : State) : exec .queueTransfer s = execQueueTransfer s := rfl
theorem exec_dieSteal (s : State) : exec .dieSteal s = execDieSteal s := rfl
theorem exec_agingPromotion (s : State) : exec .agingPromotion s = execAgingPromotion s := rfl
theorem exec_contextSave (s : State) : exec .contextSave s = execContextSave s := rfl
theorem exec_quantumExpiry (s : State) : exec .quantumExpiry s = execQuantumExpiry s := rfl

/-! ## The entry that the core takes (R13, R353) -/

/-- The smallest of a list is one of it. -/
theorem minBy_mem {α : Type} {lt : α → α → Bool} {x : α} : ∀ {l : List α}, minBy lt l = some x → x ∈ l
  | [], h => nomatch h
  | a :: t, h => by
    unfold minBy at h
    split at h
    · exact List.mem_cons.mpr (Or.inl (Option.some.inj h).symm)
    · rename_i y hy
      split at h
      · exact List.mem_cons_of_mem a (minBy_mem (h ▸ hy))
      · exact List.mem_cons.mpr (Or.inl (Option.some.inj h).symm)

theorem State.nextEntry_queued {s : State} {pmask : Word} {x : Strand} (h : s.nextEntry pmask = some x) : s.queued x = true := by
  have hx := (List.mem_filter.mp (minBy_mem h)).2
  simp only [Bool.and_eq_true] at hx
  exact hx.1.1.1.1

/-- The entry that is taken waits in the queues of the core's cluster. -/
theorem State.taking_queued {s : State} {x : Strand} (h : s.taking = some x) : s.queued x = true := by
  unfold State.taking at h
  split at h
  · exact nomatch h
  · split at h
    · exact nomatch h
    · rename_i y hy
      have hyx : y = x := by
        split at h
        · exact Option.some.inj h
        · split at h
          · exact Option.some.inj h
          · exact nomatch h
      exact hyx ▸ State.nextEntry_queued hy

/-! ## Dispatch (R13, R354) -/

/-- A strand takes its place in a context: its record is written, and a strand in the other context is switched to. -/
def State.seat (s : State) (other : Bool) (c : Ctx) (run : Strand) : State :=
  let s1 : State := if other then { s with oth := c } else { s with cur := c }
  let s2 := s1.writeRecord run c.pc c.npc c.nnpc c.liveMask
  if other then s2.switch else s2

/-- A context runs a strand in U from its fetch state, with its record in SREC. -/
def Ctx.Runs (c : Ctx) : Prop :=
  ∃ y, c.strand = some y ∧ y.state = .running ∧ c.level = .u ∧ c.pc = y.pc ∧ c.sc.srec = y.recAddr

/-- A dispatch seats a strand in a context that runs it. -/
theorem State.dispatchStrand_seat (s : State) (x : Strand) :
    ∃ (s1 : State) (other : Bool) (c : Ctx) (run : Strand), s.dispatchStrand x = s1.seat other c run ∧ c.Runs := by
  unfold State.dispatchStrand
  extract_lets x0 other s0 c0 s1
  generalize (if x0.hasId then (x0, s1) else _) = p
  obtain ⟨x1, s2⟩ := p
  exact ⟨_, other, _, _, rfl, _, rfl, rfl, rfl, rfl, rfl⟩

/-- A settled wait leaves a context that runs its strand. -/
theorem Ctx.Runs.modStrand {c : Ctx} {f : Strand → Strand} (hf : ∀ x, ∃ w, f x = { x with wait := w }) (h : c.Runs) :
    (c.modStrand f).Runs := by
  obtain ⟨y, hy, hst, hl, hpc, hrec⟩ := h
  obtain ⟨w, hw⟩ := hf y
  exact ⟨{ y with wait := w }, by rw [Ctx.modStrand_strand, hy, Option.map_some, hw], hst, hl, hpc, hrec⟩

/-- A seated strand runs. -/
theorem State.seat_runs {s : State} {other : Bool} {c : Ctx} {run : Strand} (h : c.Runs) : (s.seat other c run).cur.Runs := by
  unfold State.seat State.writeRecord
  dsimp only
  obtain ⟨f, hf, hcur, hoth⟩ := State.vwrite_rechecked (if other then { s with oth := c } else { s with cur := c } : State)
    ((if other then { s with oth := c } else { s with cur := c } : State).partSatp run.part) run.recAddr
    (recordBytes run c.pc c.npc c.nnpc c.liveMask)
  cases other
  · simp only [Bool.false_eq_true, if_false] at hcur ⊢
    rw [hcur]
    exact h.modStrand hf
  · simp only [if_true] at hoth ⊢
    obtain ⟨y, hy, -, hl, hpc, hrec⟩ := h.modStrand hf
    refine ⟨{ y with state := .running }, ?_, rfl, ?_, ?_, ?_⟩ <;> simp only [State.switch, hoth]
    · rw [Ctx.modStrand_strand, hy]; rfl
    · exact hl
    · exact hpc
    · exact hrec

/-- DISPATCH of an entry for a context that is empty or whose save may complete. -/
theorem execDispatch_taking {s : State} {x : Strand} (h : s.taking = some x)
    (hs : s.incoming.strand.isSome = true → s.savable s.incoming.sid = true) :
    execDispatch s = happen s (if !s.imageBad x then .ok (s.dispatchStrand x)
      else if x.ord && !x.task.any (fun t => t.irrev) then .ok ((s.logError 6 3 0 x.img 0).1.retryTask x)
      else .ok ((s.dispatchStrand x).raiseCheck 6 0 x.img)) := by
  have hfree : (s.incoming.strand.isSome && !s.savable s.incoming.sid) = false := by
    cases hi : s.incoming.strand.isSome with
    | false => rfl
    | true => simp [hs hi]
  simp only [execDispatch, h, hfree, Bool.false_eq_true, if_false]

/-- A task that is not irrevocable. -/
theorem revocable {x : Strand} (h : ∀ t, x.task = some t → t.irrev = false) : (x.task.any (fun t => t.irrev)) = false := by
  cases hx : x.task with
  | none => rfl
  | some t => simpa using h t hx

/-! ## Context saves (R13, R394) -/

/-- A save that has been asked for empties its context, or waits in it. -/
theorem State.saveCtx_leaves {s : State} {other : Bool} {x : Strand} (st : StState) (why : BitVec 8) (place : Place)
    (h : (s.ctx other).strand = some x) :
    (s.savable x.id = true → ((s.saveCtx other st why place).ctx other).strand = none)
      ∧ (s.savable x.id = false → ((s.saveCtx other st why place).ctx other).saving.isSome = true) := by
  refine ⟨fun hs => ?_, fun hs => ?_⟩
  · rw [State.saveCtx_savable st why place h hs]
    exact (State.saveNow_saves st why place h).1
  · rw [State.saveCtx_waits st why place h hs]
    cases other <;> rfl

/-- CONTEXT_SAVE with an entry to take and no save to complete: the save of the resident that makes room begins. -/
theorem execContextSave_spill {s : State} {x y : Strand} (hc : s.saveDue s.cur = false) (ho : s.saveDue s.oth = false)
    (ht : s.taking = some y) (hx : s.incoming.strand = some x) :
    execContextSave s = .next (issued (s.saveCtx s.incomingOther x.state x.why (spillPlace s x))) := by
  simp only [execContextSave, hc, ho, ht, hx, Bool.false_eq_true, if_false, happen_ok]

/-- Of two residents the one that has been resident longer makes room (R13). -/
theorem State.incomingOther_both {s : State} (hc : s.cur.strand.isSome = true) (ho : s.oth.strand.isSome = true) :
    s.incomingOther = decide (s.oth.since < s.cur.since) := by
  obtain ⟨a, ha⟩ := Option.isSome_iff_exists.mp hc
  obtain ⟨b, hb⟩ := Option.isSome_iff_exists.mp ho
  simp only [State.incomingOther, ha, hb]

/-! ## The quantum (R355) -/

/-- QUANTUM_EXPIRY of a spent quantum at a boundary. -/
theorem execQuantumExpiry_spent {s : State} {x : Strand} (hl : s.cur.level = .u) (hx : s.cur.strand = some x)
    (hst : x.state = .running) (hq : s.cur.quantumSpent = true) (hb : s.boundary = true) :
    execQuantumExpiry s = if s.cur.sc.sstatus.getLsbD 4 && !s.curSpec then .next (s.asyncTrap ⟨cPreempt, 0⟩)
      else .next (issued (s.saveCtx false .ready 10 (if x.ord then .cluQ s.cluster else .dieQ s.die))) := by
  have hany : s.cur.strand.any (fun x => x.state == .running) = true := by simp [hx, hst]
  have hord : s.cur.strand.any (fun x => x.ord) = x.ord := by simp [hx]
  simp only [execQuantumExpiry, hl, hany, hq, hb, hord, beq_self_eq_true, Bool.and_self, if_true, happen_ok]

/-- With qtrap and no speculative task it is the trap, else the strand is saved. -/
theorem quantumTraps_false {s : State} (h : s.cur.sc.sstatus.getLsbD 4 = false ∨ s.curSpec = true) :
    (s.cur.sc.sstatus.getLsbD 4 && !s.curSpec) = false := by
  rcases h with h | h
  · rw [h, Bool.false_and]
  · rw [h, Bool.not_true, Bool.and_false]

/-- Settles O45: each event is the update its rule names; a dispatch seats its strand, and every save goes through `saveCtx`. -/
theorem schedulingEvents : Obligations.SchedulingEvents := by
  intro s
  refine ⟨fun x hx hsv => ⟨fun hb => ?_, fun hb ho hi => ?_, State.taking_queued hx, ?_⟩, fun x hx => ?_, ?_, fun ha => ?_, fun hd => ?_,
    fun hc hd => ?_, fun hc ho ht hcs hos x hx => ?_, fun x hl hx hst hq hbd => ⟨fun hqt hn => ?_, fun hqt hs => ?_, fun hqt hs => ?_⟩⟩
  · rw [exec_dispatch, execDispatch_taking hx hsv, hb]; rfl
  · rw [exec_dispatch, execDispatch_taking hx hsv, hb, ho, revocable hi]; rfl
  · obtain ⟨s1, other, c, run, h, hr⟩ := s.dispatchStrand_seat x
    rw [h]
    exact State.seat_runs hr
  · rw [exec_queueTransfer]
    simp only [execQueueTransfer, hx, happen_ok]
  · dsimp only
    rw [exec_dieSteal, BitVec.ofNat_toNat]
    intro hne hidle x hx
    have hgo : ¬ (BitVec.ofNat 3 s.ev.n = s.ev.v.setWidth 3 ∨ s.core.isc < s.pkg.dieIdle.get (BitVec.ofNat 3 s.ev.n).toFin + 4096) := by
      rintro (h | h)
      · exact hne h
      · omega
    simp only [execDieSteal, hx, if_neg hgo, happen_ok]
  · refine ⟨_, (exec_agingPromotion s).trans (State.event1_true _ (List.any_eq_true.mpr ha)), rfl, ?_, rfl⟩
    exact sameMachine_of rfl rfl rfl rfl rfl rfl rfl rfl rfl rfl rfl
  · rw [exec_contextSave]
    simp only [execContextSave, hd, if_true, happen_ok]
  · rw [exec_contextSave]
    simp only [execContextSave, hc, hd, Bool.false_eq_true, if_false, if_true, happen_ok]
  · obtain ⟨y, hy⟩ := Option.isSome_iff_exists.mp ht
    obtain ⟨hgone, hwaits⟩ := State.saveCtx_leaves x.state x.why (spillPlace s x) (show (s.ctx s.incomingOther).strand = some x from hx)
    have hsince := State.incomingOther_both hcs hos
    refine ⟨_, (exec_contextSave s).trans (execContextSave_spill hc ho hy hx), rfl, ?_⟩
    by_cases hlt : s.oth.since < s.cur.since
    · rw [hsince, decide_eq_true hlt] at hgone hwaits ⊢
      exact ⟨fun hs => ⟨fun _ => hgone hs, fun h => absurd hlt (Nat.not_lt.mpr h)⟩,
        fun hs => ⟨fun _ => hwaits hs, fun h => absurd hlt (Nat.not_lt.mpr h)⟩⟩
    · rw [hsince, decide_eq_false hlt] at hgone hwaits ⊢
      exact ⟨fun hs => ⟨fun h => absurd h hlt, fun _ => hgone hs⟩, fun hs => ⟨fun h => absurd h hlt, fun _ => hwaits hs⟩⟩
  · rw [exec_quantumExpiry, execQuantumExpiry_spent hl hx hst hq hbd, if_pos (by simp [hqt, show s.curSpec = false from hn])]
  · rw [exec_quantumExpiry, execQuantumExpiry_spent hl hx hst hq hbd, quantumTraps_false hqt, if_neg (by decide),
      State.saveCtx_savable (other := false) _ _ _ hx hs]
    obtain ⟨hgone, w, hw⟩ := State.saveNow_saves (s := s) (other := false) .ready 10 (if x.ord then .cluQ s.cluster else .dieQ s.die) hx
    exact ⟨_, rfl, rfl, hgone, _, hw, rfl, rfl, rfl, rfl⟩
  · rw [exec_quantumExpiry, execQuantumExpiry_spent hl hx hst hq hbd, quantumTraps_false hqt, if_neg (by decide)]
    obtain ⟨hsame, hsv, hstr⟩ := State.saveCtx_waits_here .ready 10 (if x.ord then .cluQ s.cluster else .dieQ s.die) hx hs
    exact ⟨_, _, _, rfl, rfl, hsame, hstr, rfl, rfl, hsv⟩

end Sys2Proof.Machine
end

section
/-! PROOFS. Suspension of a held strand, and waits (01 R11; 02 R41; 12 R278-R282; 13 R310, R318, R322; 20 R375), and O46. -/

namespace Sys2Proof.Machine

open Safe

/-! ## The arms of these events -/

theorem exec_blockSuspend (s : State) : exec .blockSuspend s = execBlockSuspend s := rfl
theorem exec_irrevocableSuspend (s : State) : exec .irrevocableSuspend s = execIrrevocableSuspend s := rfl
theorem exec_tserialSuspend (s : State) : exec .tserialSuspend s = execTserialSuspend s := rfl
theorem exec_tspawnIdSuspend (s : State) : exec .tspawnIdSuspend s = execTspawnIdSuspend s := rfl
theorem exec_waitRequest (s : State) : exec .waitRequest s = execWaitRequest s := rfl
theorem exec_wake (s : State) : exec .wake s = execWake s := rfl
theorem exec_waitTimeout (s : State) : exec .waitTimeout s = execWaitTimeout s := rfl

/-! ## Suspension (R41, R310) -/

/-- A suspended strand stays in its context with its new state and why; nothing else of the machine shows it (R12). -/
theorem State.suspend_eq {s : State} {x : Strand} (st : StState) (why : BitVec 8) (hx : s.cur.strand = some x) :
    ∃ w, s.suspend st why = { s with cur := { s.cur with
        strand := some { x with state := st, why := why, since := s.core.cyc, wait := w }
        repEnd := none, stuck := 0, why := .none, fpHold := none, repN := none } }
      ∧ (s.cur.repEnd = none → w = x.wait) := by
  obtain ⟨w, hw, hkeep⟩ := Ctx.endDropped_some hx
  refine ⟨w, ?_, hkeep⟩
  simp only [State.suspend, State.modCur, hw, Ctx.modStrand, Option.map_some]

theorem State.suspend_sameMachine {s : State} {x : Strand} (st : StState) (why : BitVec 8) (hx : s.cur.strand = some x) :
    SameMachine s (s.suspend st why) ∧ (s.suspend st why).cur.pc = s.cur.pc := by
  obtain ⟨w, h, -⟩ := State.suspend_eq st why hx
  rw [h]
  exact ⟨sameMachine_of rfl rfl rfl rfl rfl rfl rfl rfl rfl rfl rfl, rfl⟩

/-- A strand that parks until a condition holds has the wait for it. -/
theorem State.parkOn_strand {s : State} {x : Strand} (on : WaitOn) (hx : s.cur.strand = some x) :
    ∃ w, (s.parkOn on).cur.strand = some { x with state := .parked, why := 11, since := s.core.cyc, wait := some w }
      ∧ w.on = on ∧ w.asked = true := by
  obtain ⟨w, h, -⟩ := State.suspend_eq .parked 11 hx
  unfold State.parkOn
  rw [h]
  exact ⟨_, rfl, rfl, rfl⟩

/-- A bundle of U held for 64 issue cycles is stuck. -/
theorem State.stuckFor_true {s : State} {x : Strand} {y : HoldWhy} (hl : s.cur.level = .u) (hx : s.cur.strand = some x)
    (hy : s.cur.why = y) (hn : 64 ≤ s.cur.stuck) : s.stuckFor y = true := by
  simp [State.stuckFor, hl, hx, hy, hn]

/-- A suspension that parks its strand. -/
theorem parks {s : State} {x : Strand} {i : Instr} {on : WaitOn} (hx : s.cur.strand = some x)
    (h : exec i s = .next (issued (s.parkOn on))) :
    ∃ t w, exec i s = .next t ∧ t.iss.verdict = .issued ∧ SameMachine s t
      ∧ t.cur.strand = some { x with state := .parked, why := 11, since := s.core.cyc, wait := some w } ∧ w.on = on
      ∧ w.asked = true ∧ t.cur.pc = s.cur.pc := by
  obtain ⟨hsame, hpc⟩ := State.suspend_sameMachine .parked 11 hx
  obtain ⟨w, hstr, hon, hask⟩ := State.parkOn_strand on hx
  exact ⟨_, w, h, rfl, hsame, hstr, hon, hask, hpc⟩

/-- IRREVOCABLE_SUSPEND of a bundle held at an irrevocable operation, or without a version slot (R310, R318). -/
theorem execIrrevocableSuspend_oldest {s : State} (h : s.stuckFor .irrevocable = true) (hy : s.cur.why = .irrevocable) :
    execIrrevocableSuspend s = .next (issued (s.parkOn .oldest)) := by
  have hv : (s.cur.level == .u && s.cur.strand.isSome && s.cur.why == .version) = false := by simp [hy]
  simp only [execIrrevocableSuspend, hv, h, Bool.true_or, State.event1, if_true, happen_ok, Bool.false_eq_true, if_false]

theorem execIrrevocableSuspend_version {s : State} {x : Strand} (hl : s.cur.level = .u) (hx : s.cur.strand = some x)
    (hy : s.cur.why = .version) : execIrrevocableSuspend s = .next (issued (s.parkOn .version)) := by
  have hv : (s.cur.level == .u && s.cur.strand.isSome && s.cur.why == .version) = true := by simp [hl, hx, hy]
  simp only [execIrrevocableSuspend, hv, Bool.or_true, State.event1, if_true, happen_ok]

theorem suspensions : Claim.Suspensions := by
  intro s x hl hx
  refine ⟨fun hy hn => ?_, fun e he => ?_⟩
  · obtain ⟨hsame, hpc⟩ := State.suspend_sameMachine .reply 7 hx
    obtain ⟨w, heq, hkeep⟩ := State.suspend_eq .reply 7 hx
    have hstr := congrArg (fun t : State => t.cur.strand) heq
    exact ⟨_, _, (exec_blockSuspend s).trans (State.event1_true _ (State.stuckFor_true hl hx hy hn)), rfl, hsame, hpc, hstr, rfl, hkeep⟩
  · simp only [List.mem_cons, List.not_mem_nil, or_false] at he
    rcases he with rfl | rfl | rfl | rfl <;> intro hy hn
    · exact parks hx ((exec_irrevocableSuspend s).trans (execIrrevocableSuspend_oldest (State.stuckFor_true hl hx hy hn) hy))
    · exact parks hx ((exec_irrevocableSuspend s).trans (execIrrevocableSuspend_version hl hx hy))
    · exact parks hx ((exec_tserialSuspend s).trans (State.event1_true _ (State.stuckFor_true hl hx hy hn)))
    · exact parks hx ((exec_tspawnIdSuspend s).trans (State.event1_true _ (State.stuckFor_true hl hx hy hn)))

/-! ## A wait that a home refuses (R375, R413) -/

/-- Without a ring an error goes into the log of the core, and nowhere else (R413, R414). -/
theorem State.logError_noRing {s : State} (arr cls : BitVec 8) (syn : BitVec 16) (addr : Word) (dev : BitVec 17)
    (h : s.core.errlogp = 0) : ∃ l, (s.logError arr cls syn addr dev).1 = { s with core := { s.core with errs := l } } := by
  have hb : (seg s.core.errlogp 12 40).toNat * 4096 = 0 := by rw [h]; rfl
  simp only [State.logError, hb, if_true]
  exact ⟨_, rfl⟩

theorem State.logAccess_noRing {s : State} (p : Phys) (va : Word) (h : s.core.errlogp = 0) :
    ∃ l, s.logAccess p va = { s with core := { s.core with errs := l } } := State.logError_noRing _ _ _ _ _ h

/-- A refusal that is logged without a ring leaves what the machine shows. -/
theorem State.logRefusal_sameMachine {s : State} (q : Req) (h : s.core.errlogp = 0) : SameMachine s (s.logRefusal q) := by
  obtain ⟨l, hl⟩ := State.logAccess_noRing (s := s.acting q.sid ((q.dom.map (fun d => seg d 0 32)).getD 0)) q.loc q.va h
  unfold State.logRefusal
  rw [hl]
  exact sameMachine_of rfl rfl rfl rfl rfl rfl rfl rfl rfl rfl rfl

/-- A refused wait settles POISONED in a state that shows the same machine. -/
theorem State.waitRefused_settles {s : State} (x : Strand) (w : Wait) (h : s.core.errlogp = 0) :
    ∃ u, SameMachine s u ∧ s.waitRefused x w = u.settleAs x w (Config.freeWord s.choice, true, none) := by
  unfold State.waitRefused
  cases w.on.watches with
  | none => exact ⟨s, sameMachine_of rfl rfl rfl rfl rfl rfl rfl rfl rfl rfl rfl, rfl⟩
  | some y => exact ⟨_, State.logRefusal_sameMachine _ h, rfl⟩

/-! ## A settled wait (R279) -/

theorem State.acquired_cur (s : State) (sc : BitVec 2) : (s.acquired sc).cur = s.cur := by unfold State.acquired; split <;> rfl

theorem State.acquired_marks (s : State) (sc : BitVec 2) : (s.acquired sc).pkg.marks = s.pkg.marks := by
  unfold State.acquired; split <;> rfl

/-- A delivery into the current context leaves its strand all but the state. -/
theorem State.arrive_strand {s : State} {d : Dlv} {y : Strand} (hy : s.cur.strand = some y) (hs : s.cur.sid = d.sid)
    (hl : s.cur.level = .u) (hv : s.cur.saving = none) (hr : ∀ t r, d.dest ≠ .row t r) (hm : s.marked d.sid d.tag d.dest = true) :
    ∃ st, (s.arrive d).cur.strand = some { y with state := st } := by
  have hsame : (s.taken1 d).cur.strand = some y := (Ctx.receive_strand _ _ _).trans hy
  rcases State.arrive_fills hs hl hv hr hm with h | h <;> rw [h]
  · exact ⟨y.state, hsame⟩
  · refine ⟨.ready, ?_⟩
    rw [State.modStrand_cur, hsame]
    simp [← hs, Ctx.sid_some hy]

/-- The strand of the current context becomes READY there. -/
theorem State.makeReady_cur {s : State} {id : BitVec 40} {y : Strand} (hy : s.cur.strand = some y) (hid : y.id = id) :
    (s.makeReady id).cur = { s.cur with strand := some { y with state := .ready } } := by
  rw [State.makeReady_resident (by simp [State.resident, hy, hid]), State.modStrand_cur, hy]
  simp [hid]

/-- The delivery of a settled wait. -/
def Wait.dlv (w : Wait) (s : State) (x : Strand) (v : Word) (poison : Bool) : Dlv :=
  { sid := x.id, tag := w.tag, dest := .s w.d, v := v.setWidth 2048, sel := BitVec.allOnes 256, poison := poison, due := .wall s.core.cyc }

/-- The state in which a settled wait takes leave of its strand, its read having acquired, has the context and the marks. -/
theorem State.settleAs_writes {s : State} {x : Strand} {w : Wait} (v : Word) (b : Bool) (acq : Option (BitVec 2))
    (h : w.on.writes = true) :
    ∃ u : State, u.cur = s.cur ∧ u.pkg.marks = s.pkg.marks ∧ s.settleAs x w (v, b, acq) =
      if x.state == .parked then ((u.modStrand x.id (fun y => { y with wait := none })).arrive (w.dlv s x v b)).makeReady x.id
      else (u.modStrand x.id (fun y => { y with wait := none })).arrive (w.dlv s x v b) := by
  simp only [State.settleAs, State.endWait, h, if_true, Wait.dlv]
  cases acq with
  | none => exact ⟨s, rfl, rfl, rfl⟩
  | some sc => exact ⟨s.acquired sc, s.acquired_cur sc, s.acquired_marks sc, rfl⟩

/-- A wait of the current strand that settles writes its register, and the strand waits no longer. -/
theorem State.settleAs_delivers {s : State} {x : Strand} {w : Wait} (v : Word) (b : Bool) (acq : Option (BitVec 2))
    (hx : s.cur.strand = some x) (hl : s.cur.level = .u) (hv : s.cur.saving = none) (hw : w.on.writes = true) (h0 : w.d ≠ 0)
    (hm : s.marked x.id w.tag (.s w.d) = true) :
    (s.settleAs x w (v, b, acq)).cur.sv w.d = v
      ∧ (s.settleAs x w (v, b, acq)).cur.sst w.d = (if b then .poisoned else .full)
      ∧ (s.settleAs x w (v, b, acq)).cur.strand.map Strand.wait = some none := by
  obtain ⟨u0, hcur, hmarks, heq⟩ := State.settleAs_writes (s := s) (x := x) v b acq hw
  rw [heq]
  generalize hu : u0.modStrand x.id (fun y => { y with wait := none }) = u
  have hux : u.cur.strand = some { x with wait := none } := by rw [← hu, State.modStrand_cur, hcur, hx]; simp
  have hsid : u.cur.sid = (w.dlv s x v b).sid := (Ctx.sid_some hux).trans rfl
  have hul : u.cur.level = .u := by rw [← hu, State.modStrand_cur, hcur]; exact hl
  have huv : u.cur.saving = none := by rw [← hu, State.modStrand_cur, hcur]; exact hv
  have hum : u.marked (w.dlv s x v b).sid (w.dlv s x v b).tag (w.dlv s x v b).dest = true := by
    rw [State.marked_congr (s := s) (by rw [← hu, State.modStrand_marks, hmarks])]
    exact hm
  obtain ⟨hval, hst, -⟩ := State.arrive_scalar h0 rfl hsid hul huv hum
  obtain ⟨st, hstr⟩ := State.arrive_strand hux hsid hul huv (fun _ _ => nofun) hum
  have hback : (w.dlv s x v b).v.setWidth 64 = v :=
    (BitVec.setWidth_setWidth_of_le v (by decide : 64 ≤ 2048)).trans (BitVec.setWidth_eq v)
  rw [hback] at hval
  split
  · rw [State.makeReady_cur hstr rfl]
    exact ⟨hval, hst, rfl⟩
  · exact ⟨hval, hst, by rw [hstr]; rfl⟩

/-! ## The events of a wait (R278-R282) -/

section WaitEvents

variable {s : State} {x : Strand} {w w1 : Wait}

/-- WAIT_REQUEST of a due wait whose home refuses it. -/
theorem execWaitRequest_refused (hx : s.strandOf s.ev.id = some x) (hw : x.wait = some w) (hd : s.waitDue x w = true)
    (hr : s.resolveWait w = none) : execWaitRequest s = .next (issued (s.waitRefused x w)) := by
  simp only [execWaitRequest, hx, hw, hd, hr, Bool.not_true, Bool.false_eq_true, if_false, happen_ok]

/-- WAIT_REQUEST of a due SUSP that has read nothing: what it reads is watched. -/
theorem execWaitRequest_susp {p : Phys} (hx : s.strandOf s.ev.id = some x) (hw : x.wait = some w) (hd : s.waitDue x w = true)
    (hr : s.resolveWait w = some w1) (hp : w1.on = .susp p none) :
    execWaitRequest s
      = .next (issued ((s.waitView w1).watch x { w1 with on := .susp p (some ((s.waitView w1).waitWord p)) })) := by
  simp only [execWaitRequest, hx, hw, hd, hr, hp, Bool.not_true, Bool.false_eq_true, if_false, happen_ok]

/-- WAIT_REQUEST of any other due wait settles it with what it finds. -/
theorem execWaitRequest_settles {r : Word × Bool × Option (BitVec 2)} (hx : s.strandOf s.ev.id = some x) (hw : x.wait = some w)
    (hd : s.waitDue x w = true) (hr : s.resolveWait w = some w1) (hp : ∀ p, w1.on ≠ .susp p none)
    (hf : (s.waitView w1).waitRead x w1 = some r) : execWaitRequest s = .next (issued ((s.waitView w1).settleAs x w1 r)) := by
  simp only [execWaitRequest, hx, hw, hd, hr, hf, Bool.not_true, Bool.false_eq_true, if_false, happen_ok]

/-- WAIT_REQUEST of one that finds nothing yet has it watched. -/
theorem execWaitRequest_watches (hx : s.strandOf s.ev.id = some x) (hw : x.wait = some w) (hd : s.waitDue x w = true)
    (hr : s.resolveWait w = some w1) (hp : ∀ p, w1.on ≠ .susp p none) (hf : (s.waitView w1).waitRead x w1 = none) :
    execWaitRequest s = .next (issued ((s.waitView w1).watch x w1)) := by
  simp only [execWaitRequest, hx, hw, hd, hr, hf, Bool.not_true, Bool.false_eq_true, if_false, happen_ok]

/-- WAKE of a wait for event bits that are all set. -/
theorem execWake_events {m : Mask} (hx : s.strandOf s.ev.id = some x) (hw : x.wait = some w) (hon : w.on = .events m)
    (ha : w.asked = true) (hr : w.res = none) (hm : s.pkg.events &&& m = m) :
    execWake s = .next (issued (s.settleAs x w (0, false, some w.sc))) := by
  have hread : s.waitRead x w = some (0, false, some w.sc) := by simp only [State.waitRead, hon, hm, beq_self_eq_true, if_true]
  have hview : s.waitView w = s := by simp only [State.waitView, hon, WaitOn.watches]
  have hwakes : s.wakes x w = true := by simp only [State.wakes, ha, hr, hon, hread, Option.isSome_some, Bool.or_true, Bool.and_self]
  simp only [execWake, hx, hw, hwakes, hon, hr, hview, hread, Bool.not_true, Bool.false_eq_true, if_false, happen_ok]

/-- WAKE of a WAITA whose word has changed, and differs from its operand. -/
theorem execWake_word {loc : Phys} {cmp : Word} {r : Word × Bool × Option (BitVec 2)} (hx : s.strandOf s.ev.id = some x)
    (hw : x.wait = some w) (hon : w.on = .word loc cmp) (ha : w.asked = true) (hh : w.hit = true)
    (hf : (s.waitView w).waitRead x w = some r) : execWake s = .next (issued ((s.waitView w).settleAs x w r)) := by
  have hwakes : s.wakes x w = true := by simp only [State.wakes, ha, hh, Bool.or_true, Bool.true_or, Bool.and_self]
  simp only [execWake, hx, hw, hwakes, hon, hf, Bool.not_true, Bool.false_eq_true, if_false, happen_ok]

/-- A wait whose time has passed. -/
theorem State.waitOver_true {t : Nat} (hd : w.deadline = some t) (ht : t ≤ s.ptime.toNat) : s.waitOver w = true := by
  simp [State.waitOver, hd, ht]

/-- WAIT_TIMEOUT where program order keeps the place from being read. -/
theorem execWaitTimeout_unread (hx : s.strandOf s.ev.id = some x) (hw : x.wait = some w) (ho : s.waitOver w = true)
    (hn : w.res = none) (ha : w.asked = false) (hy : s.waitReady x w = false) :
    execWaitTimeout s = .next (issued (s.timeOut x w)) := by
  simp only [execWaitTimeout, hx, hw, ho, hn, ha, hy, Option.isSome_none, Bool.not_true, Bool.or_self, Bool.not_false,
    Bool.and_self, Bool.false_eq_true, if_false, if_true, happen_ok]

/-- WAIT_TIMEOUT of a place that may be read, and whose home refuses the read. -/
theorem execWaitTimeout_refused (hx : s.strandOf s.ev.id = some x) (hw : x.wait = some w) (ho : s.waitOver w = true)
    (hn : w.res = none) (ha : w.asked = true ∨ s.waitReady x w = true) (hr : s.resolveWait w = none) :
    execWaitTimeout s = .next (issued (s.waitRefused x w)) := by
  have hread : (!w.asked && !s.waitReady x w) = false := by rcases ha with h | h <;> simp [h]
  simp only [execWaitTimeout, hx, hw, ho, hn, hread, hr, Option.isSome_none, Bool.not_true, Bool.or_self, Bool.false_eq_true,
    if_false, happen_ok]

/-- WAIT_TIMEOUT of a place that may be read settles the wait with what it finds. -/
theorem execWaitTimeout_settles {r : Word × Bool × Option (BitVec 2)} (hx : s.strandOf s.ev.id = some x) (hw : x.wait = some w)
    (ho : s.waitOver w = true) (hn : w.res = none) (ha : w.asked = true ∨ s.waitReady x w = true) (hr : s.resolveWait w = some w1)
    (hf : (s.waitView w1).waitRead x w1 = some r) :
    execWaitTimeout s = .next (issued ((s.waitView w1).settleAs x w1 r)) := by
  have hread : (!w.asked && !s.waitReady x w) = false := by rcases ha with h | h <;> simp [h]
  simp only [execWaitTimeout, hx, hw, ho, hn, hread, hr, hf, Option.isSome_none, Bool.not_true, Bool.or_self, Bool.false_eq_true,
    if_false, happen_ok]

/-- WAIT_TIMEOUT of a place that may be read, and gives no result. -/
theorem execWaitTimeout_over (hx : s.strandOf s.ev.id = some x) (hw : x.wait = some w) (ho : s.waitOver w = true)
    (hn : w.res = none) (ha : w.asked = true ∨ s.waitReady x w = true) (hr : s.resolveWait w = some w1)
    (hf : (s.waitView w1).waitRead x w1 = none) : execWaitTimeout s = .next (issued ((s.waitView w1).timeOut x w1)) := by
  have hread : (!w.asked && !s.waitReady x w) = false := by rcases ha with h | h <;> simp [h]
  simp only [execWaitTimeout, hx, hw, ho, hn, hread, hr, hf, Option.isSome_none, Bool.not_true, Bool.or_self, Bool.false_eq_true,
    if_false, happen_ok]

end WaitEvents

/-- What a wait for a result times out with: a word, not poisoned and without an acquire. -/
theorem State.timeOut_eq {s : State} {x : Strand} {w : Wait} {v : Word} (h : w.timedOut = (v, false, none)) :
    s.timeOut x w = (s.settleAs x w (v, false, none)).traced x.launched 4 [] (leBytes 8 v.toNat) := by
  unfold State.timeOut
  rw [h]

/-- WAITA times out with its operand, any other wait for a result with 2 (R279-R282). -/
theorem Wait.timedOut_word {w : Wait} {loc : Phys} {cmp : Word} (h : w.on = .word loc cmp) : w.timedOut = (cmp, false, none) := by
  simp only [Wait.timedOut, h]

theorem Wait.timedOut_other {w : Wait} (hw : w.on.writes = true) (h : ∀ loc cmp, w.on ≠ .word loc cmp) :
    w.timedOut = (2, false, none) := by
  unfold Wait.timedOut
  cases hon : w.on with
  | word loc cmp => exact absurd hon (h loc cmp)
  | susp loc seen => simp [hon, WaitOn.writes] at hw
  | _ => rfl

theorem waitEvents : Claim.WaitEvents := by
  intro s x w hx hw
  refine ⟨fun hd => ⟨fun hr => ?_, fun w1 hr => ⟨fun p hp => ?_, fun hp => ⟨fun r hf => ?_, fun hf => ?_⟩⟩⟩, ?_, ?_, ?_, ?_, ?_⟩
  · exact (exec_waitRequest s).trans (execWaitRequest_refused hx hw hd hr)
  · exact (exec_waitRequest s).trans (execWaitRequest_susp hx hw hd hr hp)
  · exact (exec_waitRequest s).trans (execWaitRequest_settles hx hw hd hr hp hf)
  · exact (exec_waitRequest s).trans (execWaitRequest_watches hx hw hd hr hp hf)
  · intro m hon ha hr hm
    exact (exec_wake s).trans (execWake_events hx hw hon ha hr hm)
  · intro loc cmp r hon ha hh hf
    exact (exec_wake s).trans (execWake_word hx hw hon ha hh hf)
  · intro hn t ht hle
    have ho := State.waitOver_true ht hle
    refine ⟨fun ha hy => ?_, fun ha => ⟨fun hr => ?_, fun w1 hr => ⟨fun r hf => ?_, fun hf hwr => ?_⟩⟩⟩
    · exact (exec_waitTimeout s).trans (execWaitTimeout_unread hx hw ho hn ha hy)
    · exact (exec_waitTimeout s).trans (execWaitTimeout_refused hx hw ho hn ha hr)
    · exact (exec_waitTimeout s).trans (execWaitTimeout_settles hx hw ho hn ha hr hf)
    · refine ((exec_waitTimeout s).trans (execWaitTimeout_over hx hw ho hn ha hr hf)).trans ?_
      refine congrArg (fun u => Host.Outcome.next (issued u)) (State.timeOut_eq ?_)
      split
      case h_1 loc cmp hon => exact Wait.timedOut_word hon
      case h_2 hon => exact Wait.timedOut_other hwr hon
  · exact fun h => State.waitRefused_settles x w h
  · exact fun v b acq hc hl hv hwr h0 hm => State.settleAs_delivers v b acq hc hl hv hwr h0 hm

/-- Settles O46: each event by its cases; a suspension and a refusal keep what the machine shows, and a settled wait is a delivery
to a marked register. -/
theorem suspendAndWake : Obligations.SuspendAndWake := ⟨suspensions, waitEvents⟩

end Sys2Proof.Machine
end

section
/-! PROOFS. PARTITION and the events of a launch (01 R22, R23; 19 R359, R360, R362; 23 R408), and O53. -/

namespace Sys2Proof.Machine

open Safe

/-! ## The arms of these events -/

theorem exec_partition (s : State) : exec .partition s = execPartition s := rfl
theorem exec_launchReplica (s : State) : exec .launchReplica s = execLaunchReplica s := rfl
theorem exec_startBarrier (s : State) : exec .startBarrier s = execStartBarrier s := rfl
theorem exec_startTimeout (s : State) : exec .startTimeout s = execStartTimeout s := rfl
theorem exec_launchEnd (s : State) : exec .launchEnd s = execLaunchEnd s := rfl

/-! ## PARTITION (R360, R362) -/

/-- The high field of a word that fits below it is 0. -/
theorem seg_high_zero {x : Word} {lo n : Nat} (h : x.toNat < 2 ^ lo) : seg x lo n = 0 := by
  apply BitVec.eq_of_toNat_eq
  simp [seg, Nat.shiftRight_eq_div_pow, Nat.div_eq_of_lt h]

/-- A command that may be taken does what its rule says of its slot and bytes. -/
theorem State.command_taken {s : State} {op : Nat} {slot : BitVec 6} {b : List Byte} (k : BitVec 6 → List Byte → Res)
    (h : s.cmd (· == op) = some (slot, b)) : s.command op k = happen s (k slot b) := by
  simp only [State.command, h]

/-- setPart puts the record of the partition behind those of lower numbers. -/
theorem State.setPart_parts (s : State) (n : BitVec 4) (cores : BitVec 1024) (satp stvec : Word) (ver : BitVec 2) :
    ∃ low p high, (s.setPart n cores satp stvec ver).pkg.parts = low ++ [p] ++ high
      ∧ (∀ q ∈ low, q.n.toNat < n.toNat) ∧ p.n = n ∧ p.cores = cores := by
  have hlow : ∀ (l : List Part) (q : Part), q ∈ l.filter (fun q => decide (q.n.toNat < n.toNat)) → q.n.toNat < n.toNat :=
    fun l q hq => of_decide_eq_true (List.mem_filter.mp hq).2
  by_cases hmine : cores.getLsbD s.core.core.toNat = true
  · simp only [State.setPart, if_pos hmine]
    exact ⟨_, _, _, rfl, hlow _, rfl, rfl⟩
  · simp only [State.setPart, if_neg hmine, apply_ite (fun t : State => t.pkg.parts), ite_self]
    exact ⟨_, _, _, rfl, hlow _, rfl, rfl⟩

/-- The record that setPart writes is the one that is found under its number. -/
theorem State.setPart_cores (s : State) (n : BitVec 4) (cores : BitVec 1024) (satp stvec : Word) (ver : BitVec 2) :
    (s.setPart n cores satp stvec ver).cores n = cores := by
  obtain ⟨low, p, high, hparts, hlow, hn, hc⟩ := s.setPart_parts n cores satp stvec ver
  have hnone : low.find? (fun q => q.n == n) = none := by
    simp only [List.find?_eq_none, beq_iff_eq]
    rintro q hq rfl
    exact Nat.lt_irrefl _ (hlow q hq)
  have hpart : (s.setPart n cores satp stvec ver).part n = some p := by
    simp [State.part, hparts, List.find?_append, hnone, hn]
  simp only [State.cores, hpart, hc]

section PartitionCommand

variable {s : State} {slot : BitVec 6} {b : List Byte}

/-- The checks of the operands of PARTITION (R361). -/
def operandsBad (s : State) (b : List Byte) : Prop :=
  seg (arg b 0) 4 60 ≠ 0 ∨ seg (arg b 2) 32 32 ≠ 0 ∨ seg (arg b 3) 59 5 ≠ 0 ∨ !s.hostBias (arg b 1).toNat 128

/-- The cores that a PARTITION command names. -/
def coresNamed (s : State) (b : List Byte) : BitVec 1024 :=
  BitVec.ofNat 1024 (ofBytes ((s.winRead (arg b 1).toNat 128).getD []))

theorem operands_good (h0 : (arg b 0).toNat < 16) (h2 : (arg b 2).toNat < 2 ^ 32) (h3 : (arg b 3).extractLsb' 59 5 = 0)
    (hb : s.hostBias (arg b 1).toNat 128 = true) : ¬ operandsBad s b := by
  simp only [operandsBad, seg_high_zero (lo := 4) h0, seg_high_zero h2, hb, not_or]
  exact ⟨not_not_intro rfl, not_not_intro rfl, not_not_intro h3, by decide⟩

/-- PARTITION where a core it moves runs a strand. -/
theorem execPartition_busy (hc : s.cmd (· == 11) = some (slot, b)) (hg : ¬ operandsBad s b)
    (hm : (coresNamed s b ^^^ s.cores (seg (arg b 0) 0 4)).getLsbD s.core.core.toNat = true)
    (hr : (s.cur.strand.isSome || s.oth.strand.isSome) = true) : execPartition s = .next (issued (s.complete slot 3 [])) := by
  unfold operandsBad at hg
  unfold coresNamed at hm
  refine (State.command_taken _ hc).trans ?_
  simp only [if_neg hg, hm, hr, Bool.and_self, if_true, happen_ok]

/-- PARTITION where no strand runs loads the image. -/
theorem execPartition_idle (hc : s.cmd (· == 11) = some (slot, b)) (hg : ¬ operandsBad s b)
    (hr : (s.cur.strand.isSome || s.oth.strand.isSome) = false) :
    (∀ st res, s.loadImage (arg b 2).toNat (arg b 3) = .error (st, res) → execPartition s = .next (issued (s.complete slot st res)))
    ∧ ∀ s1 stvec ver, s.loadImage (arg b 2).toNat (arg b 3) = .ok (s1, stvec, ver) →
      execPartition s
        = .next (issued ((s1.setPart (seg (arg b 0) 0 4) (coresNamed s b) (arg b 3) stvec ver).complete slot 0 [])) := by
  unfold operandsBad at hg
  constructor
  · intro st res h
    refine (State.command_taken _ hc).trans ?_
    simp only [if_neg hg, hr, h, Bool.and_false, Bool.false_eq_true, if_false, happen_ok]
  · intro s1 stvec ver h
    refine (State.command_taken _ hc).trans ?_
    simp only [if_neg hg, hr, h, Bool.and_false, Bool.false_eq_true, if_false, happen_ok, coresNamed]

end PartitionCommand

theorem partitionCommand : Claim.PartitionCommand := by
  intro s slot b hc n cores h0 h2 h3 hb
  have hg := operands_good h0 h2 h3 hb
  refine ⟨fun hm hr => (exec_partition s).trans (execPartition_busy hc hg hm hr), fun hcur hoth => ?_⟩
  obtain ⟨hbad, hgood⟩ := execPartition_idle hc hg (by simp [hcur, hoth])
  exact ⟨fun st res h => (exec_partition s).trans (hbad st res h),
    fun s1 stvec ver h => ⟨(exec_partition s).trans (hgood s1 stvec ver h), State.setPart_cores _ _ _ _ _ _⟩⟩

/-! ## A replicated packet (R22, R408) -/

section LaunchReplica

variable {s : State}

/-- The partition and the launch of a packet. -/
def packetDom (b : List Byte) : BitVec 36 := seg (wordAt b 8) 4 4 ++ seg (wordAt b 48) 32 32

/-- The status word of a device without cores in the partition. -/
theorem refuse_device_word (d : BitVec 17) : Refuse.word ⟨0x62, d.toNat⟩ = BitVec.ofNat 64 (4 + 0x62 * 2 ^ 8 + d.toNat * 2 ^ 32) := by
  have hmod : d.toNat % 2 ^ 32 = d.toNat := Nat.mod_eq_of_lt (by have := d.isLt; omega)
  simp only [Refuse.word, w64, hmod]
  rfl

theorem execLaunchReplica_noCores (hb : 7 ≤ s.pkg.bringUp) (hc : s.cores (seg (wordAt s.ev.data 8) 4 4) = 0) :
    execLaunchReplica s = .next (issued (s.manage s.ev.dev (.refused (packetDom s.ev.data) (Refuse.word ⟨0x62, s.core.device.toNat⟩)))) := by
  simp only [execLaunchReplica, if_neg (Nat.not_lt.mpr hb), hc, if_true, happen_ok, packetDom]

theorem execLaunchReplica_refused {e : Refuse} (hb : 7 ≤ s.pkg.bringUp) (hc : s.cores (seg (wordAt s.ev.data 8) 4 4) ≠ 0)
    (h : s.checkLaunch (s.partSatp (seg (wordAt s.ev.data 8) 4 4)) 0 s.ev.data false = .error e) :
    execLaunchReplica s = .next (issued (s.manage s.ev.dev (.refused (packetDom s.ev.data) e.word))) := by
  simp only [execLaunchReplica, if_neg (Nat.not_lt.mpr hb), if_neg hc, h, happen_ok, packetDom]

theorem execLaunchReplica_enrolls {x : Tables} (hb : 7 ≤ s.pkg.bringUp) (hc : s.cores (seg (wordAt s.ev.data 8) 4 4) ≠ 0)
    (h : s.checkLaunch (s.partSatp (seg (wordAt s.ev.data 8) 4 4)) 0 s.ev.data false = .ok x) :
    execLaunchReplica s = .next (issued (s.enroll
      (s.launchOf (s.partSatp (seg (wordAt s.ev.data 8) 4 4)) 0 s.ev.data x none s.ev.dev) s.ev.data)) := by
  simp only [execLaunchReplica, if_neg (Nat.not_lt.mpr hb), if_neg hc, h, happen_ok]

end LaunchReplica

/-! ## The start barrier (R22, R23, R408) -/

section StartBarrier

variable {s : State} {l : Launch}

/-- Whether the device that enters is of the launch's generation and of the incarnation on record. -/
def entersSame (s : State) (l : Launch) : Prop :=
  seg s.ev.v 0 32 = l.gen ∧ !s.ev.v.getLsbD 32 ∧ seg s.ev.v 36 4 = s.incOf s.ev.dev
    ∧ l.entered.all (fun x => x.1 != s.ev.dev || x.2 == seg s.ev.v 36 4)

theorem entersSame_iff : entersSame s l ↔ BitVec.ofNat 32 s.ev.v.toNat = l.gen ∧ s.ev.v.getLsbD 32 = false
    ∧ s.ev.v.extractLsb' 36 4 = s.incOf s.ev.dev ∧ ∀ x ∈ l.entered, x.1 = s.ev.dev → x.2 = s.ev.v.extractLsb' 36 4 := by
  have hgen : seg s.ev.v 0 32 = BitVec.ofNat 32 s.ev.v.toNat := by
    apply BitVec.eq_of_toNat_eq
    simp [seg]
  have hall : l.entered.all (fun x => x.1 != s.ev.dev || x.2 == seg s.ev.v 36 4) = true
      ↔ ∀ x ∈ l.entered, x.1 = s.ev.dev → x.2 = s.ev.v.extractLsb' 36 4 := by
    simp only [List.all_eq_true, Bool.or_eq_true, bne_iff_ne, beq_iff_eq, ne_eq, Decidable.imp_iff_not_or, seg]
  rw [entersSame, hall, hgen, Bool.not_eq_true', seg]

/-- A refused copy aborts the launch. -/
theorem execStartBarrier_refused (ho : s.opening = some l) (h : s.ev.v.getLsbD 33 = true) :
    execStartBarrier s = .next (issued (s.abortLaunch l ⟨seg s.ev.v 40 8, s.ev.word.toNat⟩)) := by
  simp only [execStartBarrier, ho, h, if_true, happen_ok]

/-- A device with the right generation and incarnation is noted. -/
theorem execStartBarrier_enters (ho : s.opening = some l) (h : s.ev.v.getLsbD 33 = false) (hs : entersSame s l) :
    execStartBarrier s = .next (issued (s.modLaunch l.lnch l.part (fun y =>
      { y with entered := (s.ev.dev, seg s.ev.v 36 4) :: y.entered.filter (fun d => d.1 != s.ev.dev) })).advanceAll) := by
  unfold entersSame at hs
  simp only [execStartBarrier, ho, h, Bool.false_eq_true, if_false, if_pos hs, happen_ok]

/-- Another generation or incarnation aborts the launch. -/
theorem execStartBarrier_aborts (ho : s.opening = some l) (h : s.ev.v.getLsbD 33 = false) (hs : ¬ entersSame s l) :
    execStartBarrier s = .next (issued (s.abortLaunch l ⟨0x63, s.ev.dev.toNat⟩)) := by
  unfold entersSame at hs
  simp only [execStartBarrier, ho, h, Bool.false_eq_true, if_false, if_neg hs, happen_ok]

/-- A barrier that has been open for 10 ms, or that the receiving device says is aborted. -/
theorem execStartTimeout_aborts (ho : s.opening = some l)
    (h : s.ev.n = 1 ∨ l.receiver = s.core.device ∧ l.since + 10000000 ≤ s.ptime.toNat) :
    execStartTimeout s = .next (issued (s.abortLaunch l ⟨0x64, l.entered.length⟩)) := by
  have hnot : ¬ (s.ev.n ≠ 1 ∧ (l.receiver != s.core.device || decide (s.ptime.toNat < l.since + 10000000))) := by
    rintro ⟨hn, hw⟩
    rcases h with h | ⟨hrec, htime⟩
    · exact hn h
    · simp [hrec, Nat.not_lt.mpr htime] at hw
  simp only [execStartTimeout, ho, if_neg hnot, happen_ok]

end StartBarrier

/-! ## The end of a launch (R359) -/

/-- A launch on one device spans that device. -/
theorem Launch.span_single {l : Launch} {d : BitVec 17} (hf : l.devFirst = d) (hl : l.devLast = d) : l.span = [d] := by
  have hlen : d.toNat + 1 - d.toNat = 1 := by omega
  simp [Launch.span, hf, hl, hlen]

/-- A launch that is over on its only device completes with class 0. -/
theorem execLaunchEnd_completes {s : State} {l : Launch} {slot : BitVec 6}
    (hl : s.pkg.launches.find? (fun l => l.word == s.ev.w && l.phase == .live) = some l) (hd : s.ev.dev = s.core.device)
    (ho : s.launchOver l = true) (he : l.ended = []) (hspan : l.span = [s.core.device]) (hrec : l.receiver = s.core.device)
    (hslot : l.slot = some slot) :
    execLaunchEnd s = .next (issued (((((s.writeLog l).modLaunch l.lnch l.part (fun y => { y with ended := [s.core.device] })).completeAt
      l.cobj 0).dropLaunch l).complete slot 0 (State.launchRes l 0))) := by
  simp [execLaunchEnd, hl, hd, ho, he, hspan, hrec, hslot]

theorem launchEvents : Claim.LaunchEvents := by
  intro s
  refine ⟨fun hb => ⟨fun hc => ?_, fun hc => ⟨fun e h => ?_, fun x h => ?_⟩⟩,
    fun l ho => ⟨fun hs h => ?_, fun hs h => ?_, fun h => ?_, fun h => ?_⟩,
    fun l slot hl hd ho he hfirst hlast hrec hslot => ?_⟩
  · rw [exec_launchReplica, execLaunchReplica_noCores hb hc, refuse_device_word]
    rfl
  · exact (exec_launchReplica s).trans (execLaunchReplica_refused hb hc h)
  · exact (exec_launchReplica s).trans (execLaunchReplica_enrolls hb hc h)
  · exact (exec_startBarrier s).trans (execStartBarrier_enters ho h (entersSame_iff.mpr hs))
  · exact (exec_startBarrier s).trans (execStartBarrier_aborts ho h (fun hs' => hs (entersSame_iff.mp hs')))
  · exact (exec_startBarrier s).trans (execStartBarrier_refused ho h)
  · exact (exec_startTimeout s).trans (execStartTimeout_aborts ho h)
  · exact (exec_launchEnd s).trans
      (execLaunchEnd_completes hl hd ho he (Launch.span_single hfirst hlast) hrec hslot)

/-- Settles O53: each event by its checks in their order; the partition that a PARTITION command sets is the one found under its
number. -/
theorem partitionsAndLaunches : Obligations.PartitionsAndLaunches := ⟨partitionCommand, launchEvents⟩

end Sys2Proof.Machine
end

section
/-! PROOFS. Orderings in force (05 R119, R132, R134; 12 R272-R274; 13 R310): what putting one in force changes, that it stays while a
request before it is in flight, what it then holds back, the fence words, and O20. -/

namespace Sys2Proof.Machine

open Safe

/-! ## The arms of these words -/

theorem exec_fence (ord sc : BitVec 2) (s : State) : exec (.fence ord sc) s = execFence ord sc s := rfl
theorem exec_relt (a b : BitVec 5) (sc : BitVec 2) (s : State) : exec (.relt a b sc) s = execRelt a b sc s := rfl
theorem exec_acqt (a b : BitVec 5) (sc : BitVec 2) (s : State) : exec (.acqt a b sc) s = execAcqt a b sc s := rfl
theorem exec_ifence (s : State) : exec .ifence s = execIfence s := rfl

/-! ## What an ordering changes (R105, R106, R119, R311) -/

/-- A state that differs from another at most in the orderings in force, in what an acquire or a release at pod scope drops, in the
task of the strand it runs and in the verdict on its word. -/
def State.Fenced (s t : State) : Prop :=
  ∃ x r l m f p i, t = { s with
      cur := { s.cur with strand := x }
      core := { s.core with replicas := r }
      pkg := { s.pkg with lines := l, msc := m, fences := f, podWrites := p }
      iss := i }
    ∧ t.cur.sid = s.cur.sid

section Fenced

variable {s t : State}

theorem State.Fenced.refl (s : State) : State.Fenced s s := ⟨_, _, _, _, _, _, _, rfl, rfl⟩

theorem State.Fenced.trans {u : State} (h : State.Fenced s t) (k : State.Fenced t u) : State.Fenced s u := by
  obtain ⟨_, _, _, _, _, _, _, rfl, hs⟩ := h
  obtain ⟨_, _, _, _, _, _, _, rfl, ht⟩ := k
  exact ⟨_, _, _, _, _, _, _, rfl, ht.trans hs⟩

theorem State.irrev_fenced (s : State) : State.Fenced s s.irrev := ⟨_, _, _, _, _, _, _, rfl, s.irrev_sid⟩

theorem State.issued_fenced (s : State) : State.Fenced s (issued s) := ⟨_, _, _, _, _, _, _, rfl, rfl⟩

theorem State.acquired_fenced (s : State) (sc : BitVec 2) : State.Fenced s (s.acquired sc) := by
  unfold State.acquired
  split
  · exact ⟨_, _, _, _, _, _, _, rfl, rfl⟩
  · exact State.Fenced.refl s

theorem State.acquiredIn_fenced (s : State) (f : Fence) : State.Fenced s (s.acquiredIn f) := ⟨_, _, _, _, _, _, _, rfl, rfl⟩

theorem State.fenceAcquires_fenced (s : State) : State.Fenced s s.fenceAcquires := by
  unfold State.fenceAcquires
  refine State.Fenced.trans (List.foldlRecOn _ _ (State.Fenced.refl s) fun u hu f _ => hu.trans ?_) ⟨_, _, _, _, _, _, _, rfl, rfl⟩
  cases f.range with
  | none => exact u.acquired_fenced f.sc
  | some r => exact u.acquiredIn_fenced f

theorem State.pruneFences_fenced (s : State) : State.Fenced s s.pruneFences := by
  have h : State.Fenced s (if s.pkg.fences.isEmpty then s else s.fenceAcquires) := by
    split
    · exact State.Fenced.refl s
    · exact s.fenceAcquires_fenced
  exact h.trans ⟨_, _, _, _, _, _, _, rfl, rfl⟩

theorem State.addFence_fenced (s : State) (ord sc : BitVec 2) (range : Option (Word × Nat)) :
    State.Fenced s (s.addFence ord sc range) :=
  State.Fenced.trans ⟨_, _, _, _, _, _, _, rfl, rfl⟩ (State.pruneFences_fenced _)

theorem State.Fenced.sameMachine (h : State.Fenced s t) : SameMachine s t := by
  obtain ⟨_, _, _, _, _, _, _, rfl, -⟩ := h
  exact sameMachine_of rfl rfl rfl rfl rfl rfl rfl rfl rfl rfl rfl

theorem State.Fenced.sid (h : State.Fenced s t) : t.cur.sid = s.cur.sid := by
  obtain ⟨_, _, _, _, _, _, _, -, hs⟩ := h
  exact hs

theorem State.Fenced.reqs (h : State.Fenced s t) : t.pkg.reqs = s.pkg.reqs := by
  obtain ⟨_, _, _, _, _, _, _, rfl, -⟩ := h
  rfl

theorem State.Fenced.awaited (h : State.Fenced s t) (sc : BitVec 2) (q : Req) : t.awaited sc q = s.awaited sc q := by
  obtain ⟨_, _, _, _, _, _, _, rfl, -⟩ := h
  rfl

end Fenced

/-! ## An ordering stays while a request before it is in flight -/

/-- A request of the strand of an ordering that comes before it in program order. -/
def Req.precedes (q : Req) (f : Fence) : Prop := q.sid = f.sid ∧ q.tag < f.tag

/-- The ordering as it is once acquiring reads that are performed have acquired. -/
def State.fenceNow (s : State) (f : Fence) : Fence := if !f.acquired && !s.readsBefore f then { f with acquired := true } else f

theorem State.acquired_fences (s : State) (sc : BitVec 2) : (s.acquired sc).pkg.fences = s.pkg.fences := by
  unfold State.acquired; split <;> rfl

theorem State.fenceAcquires_fences (s : State) : s.fenceAcquires.pkg.fences = s.pkg.fences.map s.fenceNow := by
  refine congrArg (List.map s.fenceNow) ?_
  refine List.foldlRecOn (motive := fun u : State => u.pkg.fences = s.pkg.fences) _ _ rfl fun u hu f _ => ?_
  cases f.range with
  | none => exact (u.acquired_fences f.sc).trans hu
  | some r => exact hu

/-- Acquiring changes nothing of an ordering but whether it has acquired. -/
theorem State.fenceNow_eq (s : State) (f : Fence) : s.fenceNow f = { f with acquired := (s.fenceNow f).acquired } := by
  unfold State.fenceNow; split <;> rfl

theorem State.fenceStands_of_req {s : State} {f : Fence} {q : Req} (hq : q ∈ s.pkg.reqs) (hb : q.precedes f) : s.fenceStands f = true := by
  obtain ⟨hs, ht⟩ := hb
  have h : s.pkg.reqs.any (fun q => q.sid == f.sid && decide (q.tag < f.tag)) = true := List.any_eq_true.mpr ⟨q, hq, by simp [hs, ht]⟩
  simp [State.fenceStands, h]

theorem State.pruneFences_keeps {s : State} {f : Fence} {q : Req} (hf : f ∈ s.pkg.fences) (hq : q ∈ s.pkg.reqs) (hb : q.precedes f) :
    s.fenceNow f ∈ s.pruneFences.pkg.fences := by
  have hne : s.pkg.fences.isEmpty = false := by
    rw [List.isEmpty_eq_false_iff]
    exact List.ne_nil_of_mem hf
  have hmem : s.fenceNow f ∈ s.fenceAcquires.pkg.fences := by
    rw [s.fenceAcquires_fences]
    exact List.mem_map_of_mem hf
  have hreq : q ∈ s.fenceAcquires.pkg.reqs := by
    rw [s.fenceAcquires_fenced.reqs]
    exact hq
  have hb' : q.precedes (s.fenceNow f) := by
    rw [s.fenceNow_eq f]
    exact hb
  simp only [State.pruneFences, hne, Bool.false_eq_true, if_false]
  exact List.mem_filter.mpr ⟨hmem, State.fenceStands_of_req hreq hb'⟩

/-- An ordering put in force behind a request in flight is in force. -/
theorem State.addFence_keeps {s : State} {q : Req} (ord sc : BitVec 2) (range : Option (Word × Nat)) (hq : q ∈ s.pkg.reqs)
    (hs : q.sid = s.cur.sid) (ht : q.tag < s.pkg.tag) :
    ∃ f ∈ (s.addFence ord sc range).pkg.fences, f.sid = s.cur.sid ∧ q.precedes f ∧ f.ord = ord ∧ f.sc = sc ∧ f.range = range := by
  unfold State.addFence
  refine ⟨_, State.pruneFences_keeps (q := q) List.mem_cons_self hq ⟨hs, ht⟩, ?_⟩
  rw [State.fenceNow_eq]
  exact ⟨rfl, ⟨hs, ht⟩, rfl, rfl, rfl⟩

/-! ## What an ordering waits for, and what it holds back (R119, R132, R272) -/

theorem State.accessHeld_of_fence {s : State} {f : Fence} {w : Bool} {va : Word} (hf : f ∈ s.pkg.fences) (hs : f.sid = s.cur.sid)
    (h : s.fenceHolds f w va = true) : s.accessHeld w va = true := by
  have hany : s.pkg.fences.any (fun f => f.sid == s.cur.sid && s.fenceHolds f w va) = true :=
    List.any_eq_true.mpr ⟨f, hf, by simp [hs, h]⟩
  simp [State.accessHeld, hany]

section Holds

variable {s : State} {f : Fence} {q : Req}

theorem State.readsBefore_of_read (hq : q ∈ s.pkg.reqs) (hb : q.precedes f) (hr : q.op.isRead = true) (ho : q.old = false) :
    s.readsBefore f = true := by
  obtain ⟨hs, ht⟩ := hb
  exact List.any_eq_true.mpr ⟨q, hq, by simp [hs, ht, hr, ho]⟩

theorem State.releaseWaits_of_req (hq : q ∈ s.pkg.reqs) (hb : q.precedes f) (ha : s.awaited f.sc q = true) :
    s.releaseWaits f.sid f.tag f.sc = true := by
  obtain ⟨hs, ht⟩ := hb
  have h : s.pkg.reqs.any (fun q => q.sid == f.sid && decide (q.tag < f.tag) && s.awaited f.sc q) = true :=
    List.any_eq_true.mpr ⟨q, hq, by simp [hs, ht, ha]⟩
  simp [State.releaseWaits, h]

theorem State.rangeWaits_of_write {r : Word × Nat} (hq : q ∈ s.pkg.reqs) (hb : q.precedes f) (hw : q.op.isWrite = true)
    (ha : s.awaited f.sc q = true) (hr : q.reaches r = true) : s.rangeWaits f r = true := by
  obtain ⟨hs, ht⟩ := hb
  have h : s.pkg.reqs.any (fun q => q.sid == f.sid && decide (q.tag < f.tag) && (q.op.isWrite || q.op.stores) && s.awaited f.sc q
      && q.reaches r) = true := List.any_eq_true.mpr ⟨q, hq, by simp [hs, ht, hw, ha, hr]⟩
  simp [State.rangeWaits, h]

theorem State.fenceHolds_acquire {w : Bool} {va : Word} (hr : f.range = none) (ho : f.ord = 0 ∨ f.ord = 2)
    (h : s.readsBefore f = true) : s.fenceHolds f w va = true := by
  rcases ho with ho | ho <;> simp [State.fenceHolds, hr, ho, h]

theorem State.fenceHolds_release {va : Word} (hr : f.range = none) (ho : f.ord = 1 ∨ f.ord = 2)
    (h : s.releaseWaits f.sid f.tag f.sc = true) : s.fenceHolds f true va = true := by
  rcases ho with ho | ho <;> simp [State.fenceHolds, hr, ho, h]

theorem State.fenceHolds_full {w : Bool} {va : Word} (hr : f.range = none) (ho : f.ord = 3)
    (h : s.releaseWaits f.sid f.tag f.sc = true) : s.fenceHolds f w va = true := by
  simp [State.fenceHolds, hr, ho, h]

theorem State.fenceHolds_rangeRelease {r : Word × Nat} {va : Word} (hr : f.range = some r) (ho : f.ord = 1)
    (h : s.rangeWaits f r = true) : s.fenceHolds f true va = true := by
  simp [State.fenceHolds, hr, ho, h]

theorem State.fenceHolds_rangeAcquire {r : Word × Nat} {w : Bool} {va : Word} (hr : f.range = some r) (ho : f.ord = 0)
    (hva : inRange r va = true) (h : s.readsBefore f = true) : s.fenceHolds f w va = true := by
  simp [State.fenceHolds, hr, ho, hva, h]

end Holds

/-! ## A word that puts an ordering in force -/

/-- The state after a word that has put an ordering in force. -/
def State.fencedBy (s : State) (ord sc : BitVec 2) (range : Option (Word × Nat)) : State := issued (s.irrev.addFence ord sc range)

theorem State.fencedBy_fenced (s : State) (ord sc : BitVec 2) (range : Option (Word × Nat)) :
    State.Fenced s (s.fencedBy ord sc range) :=
  (s.irrev_fenced.trans (State.addFence_fenced _ _ _ _)).trans (State.issued_fenced _)

/-- Behind an earlier request in flight the ordering holds back whatever it holds of itself, in a state with that request still in
flight. -/
theorem State.fencedBy_holds {s : State} {q : Req} {ord sc : BitVec 2} {range : Option (Word × Nat)} {w : Bool} {va : Word}
    (hq : q ∈ s.pkg.reqs) (hs : q.sid = s.cur.sid) (ht : q.tag < s.pkg.tag)
    (h : ∀ f : Fence, q ∈ (s.fencedBy ord sc range).pkg.reqs → q.precedes f → f.ord = ord → f.sc = sc → f.range = range →
      (s.fencedBy ord sc range).fenceHolds f w va = true) :
    (s.fencedBy ord sc range).accessHeld w va = true := by
  obtain ⟨f, hf, hsid, hb, ho, hsc, hr⟩ := State.addFence_keeps (s := s.irrev) ord sc range hq (hs.trans s.irrev_sid.symm) ht
  have hsame := s.fencedBy_fenced ord sc range
  have hq' : q ∈ (s.fencedBy ord sc range).pkg.reqs := by
    rw [hsame.reqs]
    exact hq
  exact State.accessHeld_of_fence hf ((hsid.trans s.irrev_sid).trans hsame.sid.symm) (h f hq' hb ho hsc hr)

/-- FENCE of a strand that is not speculative (R272, R310). -/
theorem execFence_issues {s : State} (ord sc : BitVec 2) (hn : NoCall s) (hp : NotSpec s) :
    execFence ord sc s = .next (s.fencedBy ord sc none) := by
  rw [execFence, State.irrevocable_goes hp, finish_ok hn]
  rfl

theorem fenceOrders : Claim.FenceOrders := by
  intro ord sc s hn hp
  have hsame := s.fencedBy_fenced ord sc none
  refine ⟨_, (exec_fence ord sc s).trans (execFence_issues ord sc hn hp), rfl, hsame.sameMachine, hsame.reqs,
    fun w va q hq hs ht => ⟨fun ho hr hold => ?_, fun ho ha => ?_, fun ho ha => ?_⟩⟩
  · exact State.fencedBy_holds hq hs ht (fun f hq' hb hord _ hrange =>
      State.fenceHolds_acquire hrange (hord ▸ ho) (State.readsBefore_of_read hq' hb hr hold))
  all_goals rw [← hsame.awaited] at ha
  · exact State.fencedBy_holds hq hs ht (fun f hq' hb hord hsc hrange =>
      State.fenceHolds_release hrange (hord ▸ ho) (State.releaseWaits_of_req hq' hb (hsc ▸ ha)))
  · exact State.fencedBy_holds hq hs ht (fun f hq' hb hord hsc hrange =>
      State.fenceHolds_full hrange (hord.trans ho) (State.releaseWaits_of_req hq' hb (hsc ▸ ha)))

/-! ## RELT and ACQT (R132, R273) -/

/-- An ordered task translates alike whether it is irrevocable or not. -/
theorem State.irrev_xlate (s : State) (satp va : Word) : s.irrev.xlate satp va = s.xlate satp va := rfl

theorem State.irrev_pagesReadable (s : State) (fuel : Nat) (va : Word) (left : Nat) :
    s.irrev.pagesReadable fuel va left = s.pagesReadable fuel va left := by
  induction fuel generalizing va left with
  | zero => rfl
  | succ fuel ih =>
    simp only [State.pagesReadable, ih, State.irrev_xlate]
    rfl

section TileFence

variable {s : State} {a b : BitVec 5} {ord sc : BitVec 2} {n : Nat}

theorem State.tileFence_misaligned (hp : NotSpec s) (ha : Full s a) (hb : Full s b) (hm : (s.cur.sv a).toNat % 16384 ≠ 0) :
    s.tileFence ord a b sc = .trap ⟨cMisaligned, s.cur.sv a⟩ := by
  rw [State.tileFence, State.withSrcs_ss ha hb, State.irrevocable_goes hp]
  exact if_pos hm

/-- 0 tiles have no effect; with readable pages the ordering on the tiles is in force. -/
theorem State.tileFence_ok (hp : NotSpec s) (ha : Full s a) (hb : Full s b) (hn : n = min (s.cur.sv b).toNat 65536)
    (hm : (s.cur.sv a).toNat % 16384 = 0) (hr : n = 0 ∨ s.pagesReadable (4 * n) (s.cur.sv a) (n * 16384) = .ok ()) :
    s.tileFence ord a b sc = .ok (if n = 0 then s.irrev else s.irrev.addFence ord sc (some (s.cur.sv a, n * 16384))) := by
  have hrs : ∀ r, s.irrev.rs r = s.cur.sv r := fun _ => rfl
  rw [State.tileFence, State.withSrcs_ss ha hb, State.irrevocable_goes hp]
  simp only [hrs, ← hn, hm, ne_eq, not_true_eq_false, if_false]
  by_cases h0 : n = 0
  · simp only [h0, if_true]
  · rw [if_neg h0, if_neg h0, State.irrev_pagesReadable, hr.resolve_left h0, orTrap_ok]

/-- The word of `n` tiles issues with no access of its own; where `n` is not 0 the ordering on them is in force. -/
theorem tileFence_issues (hc : NoCall s) (hp : NotSpec s) (ha : Full s a) (hb : Full s b) (hn : n = min (s.cur.sv b).toNat 65536)
    (hm : (s.cur.sv a).toNat % 16384 = 0) (hr : n = 0 ∨ s.pagesReadable (4 * n) (s.cur.sv a) (n * 16384) = .ok ()) :
    ∃ t, finish s (s.tileFence ord a b sc) = .next t ∧ t.iss.verdict = .issued ∧ State.Fenced s t
      ∧ (n ≠ 0 → t = s.fencedBy ord sc (some (s.cur.sv a, n * 16384))) := by
  rw [State.tileFence_ok hp ha hb hn hm hr, finish_ok hc]
  by_cases h0 : n = 0
  · rw [if_pos h0]
    exact ⟨_, rfl, rfl, s.irrev_fenced.trans (State.issued_fenced _), fun h => absurd h0 h⟩
  · rw [if_neg h0]
    exact ⟨_, rfl, rfl, s.fencedBy_fenced ord sc _, fun _ => rfl⟩

end TileFence

/-! ## IFENCE (R134, R274) -/

theorem State.unperformed_iff (s : State) : s.unperformed = true ↔ ∃ q ∈ s.pkg.reqs, q.sid = s.cur.sid ∧ q.op ≠ .ack := by
  unfold State.unperformed
  simp only [List.any_eq_true, Bool.and_eq_true, beq_iff_eq]
  refine exists_congr fun q => and_congr_right fun _ => and_congr_right fun _ => ?_
  cases q.op <;> simp

/-- The state without held packets and without a fetch under way. -/
def State.refetching (s : State) : State := { s with core := { s.core with packets := [], fetching := none } }

theorem execIfence_eq {s : State} (hp : NotSpec s) :
    execIfence s = finish s (if s.unperformed then .hold .other else .ok s.irrev.refetching) := by
  rw [execIfence, State.irrevocable_goes hp, s.irrev_sid]
  rfl

theorem execIfence_held {s : State} (hp : NotSpec s) (h : s.unperformed = true) : execIfence s = .next (held s .other) := by
  rw [execIfence_eq hp, if_pos h, finish_hold]

theorem execIfence_issues {s : State} (hc : NoCall s) (hp : NotSpec s) (h : ¬ s.unperformed = true) :
    execIfence s = .next (issued s.irrev.refetching) := by
  rw [execIfence_eq hp, if_neg h, finish_ok hc]

theorem rangeFences : Claim.RangeFences := by
  intro a b sc s hc hp
  refine ⟨fun ha hb => ⟨fun hm => ⟨?_, ?_⟩, fun n hn hm hr => ⟨?_, ?_⟩⟩, fun hack => ?_, fun q hq hs hop => ?_⟩
  · rw [exec_relt, execRelt, State.tileFence_misaligned hp ha hb hm, finish_trap]
  · rw [exec_acqt, execAcqt, State.tileFence_misaligned hp ha hb hm, finish_trap]
  · obtain ⟨t, hex, hv, hsame, hin⟩ := tileFence_issues (ord := 1) (sc := sc) hc hp ha hb hn hm hr
    refine ⟨t, (exec_relt a b sc s).trans hex, hv, hsame.sameMachine, hsame.reqs, fun q hq h0 hs ht hw haw hreach va => ?_⟩
    rw [← hsame.awaited] at haw
    obtain rfl := hin h0
    exact State.fencedBy_holds hq hs ht (fun f hq' hb' hord hsc hrange =>
      State.fenceHolds_rangeRelease hrange hord (State.rangeWaits_of_write hq' hb' hw (hsc ▸ haw) hreach))
  · obtain ⟨t, hex, hv, hsame, hin⟩ := tileFence_issues (ord := 0) (sc := sc) hc hp ha hb hn hm hr
    refine ⟨t, (exec_acqt a b sc s).trans hex, hv, hsame.sameMachine, hsame.reqs, fun q hq h0 hs ht hread hold w va hva => ?_⟩
    obtain rfl := hin h0
    exact State.fencedBy_holds hq hs ht (fun f hq' hb' hord _ hrange =>
      State.fenceHolds_rangeAcquire hrange hord hva (State.readsBefore_of_read hq' hb' hread hold))
  · have hnone : ¬ s.unperformed = true := by
      rw [s.unperformed_iff]
      rintro ⟨q, hq, hs, hop⟩
      exact hop (hack q hq hs)
    exact ⟨_, (exec_ifence s).trans (execIfence_issues hc hp hnone), rfl,
      sameMachine_of rfl rfl rfl rfl rfl rfl rfl rfl rfl rfl rfl, rfl, rfl⟩
  · exact (exec_ifence s).trans (execIfence_held hp (s.unperformed_iff.mpr ⟨q, hq, hs, hop⟩))

/-- Settles O20: the ordering that a word puts in force stays while a request before it is in flight, and that request is what it
waits for; IFENCE waits while an access of its strand is not performed. -/
theorem fences : Obligations.Fences := ⟨fenceOrders, rangeFences⟩

end Sys2Proof.Machine
end

section
/-! PROOFS. Immediate and constant words (07 R171-R173), and O2. -/

namespace Sys2Proof.Machine

open Safe

/-! ## The arms of these words -/

theorem exec_addi (d a : BitVec 5) (i : BitVec 13) (s : State) : exec (.addi d a i) s = execAddi d a i s := rfl
theorem exec_andi (d a : BitVec 5) (i : BitVec 13) (s : State) : exec (.andi d a i) s = execAndi d a i s := rfl
theorem exec_ori (d a : BitVec 5) (i : BitVec 13) (s : State) : exec (.ori d a i) s = execOri d a i s := rfl
theorem exec_xori (d a : BitVec 5) (i : BitVec 13) (s : State) : exec (.xori d a i) s = execXori d a i s := rfl
theorem exec_slti (d a : BitVec 5) (i : BitVec 13) (s : State) : exec (.slti d a i) s = execSlti d a i s := rfl
theorem exec_sltiu (d a : BitVec 5) (i : BitVec 13) (s : State) : exec (.sltiu d a i) s = execSltiu d a i s := rfl
theorem exec_shli (d a : BitVec 5) (n : BitVec 6) (s : State) : exec (.shli d a n) s = execShli d a n s := rfl
theorem exec_shri (d a : BitVec 5) (n : BitVec 6) (s : State) : exec (.shri d a n) s = execShri d a n s := rfl
theorem exec_srai (d a : BitVec 5) (n : BitVec 6) (s : State) : exec (.srai d a n) s = execSrai d a n s := rfl
theorem exec_movz (d : BitVec 5) (hw : BitVec 2) (i : BitVec 16) (s : State) : exec (.movz d hw i) s = execMovz d hw i s := rfl
theorem exec_movk (d : BitVec 5) (hw : BitVec 2) (i : BitVec 16) (s : State) : exec (.movk d hw i) s = execMovk d hw i s := rfl
theorem exec_movn (d : BitVec 5) (hw : BitVec 2) (i : BitVec 16) (s : State) : exec (.movn d hw i) s = execMovn d hw i s := rfl
theorem exec_movl (d : BitVec 5) (x : BitVec 32) (s : State) : exec (.movl d x) s = execMovl d x s := rfl
theorem exec_movlS (d : BitVec 5) (x : BitVec 32) (s : State) : exec (.movlS d x) s = execMovlS d x s := rfl
theorem exec_movlh (d : BitVec 5) (x : BitVec 32) (s : State) : exec (.movlh d x) s = execMovlh d x s := rfl

/-! ## Words with one scalar source, and words that change part of d -/

/-- A word of one FULL source issues with its result. -/
theorem finish_scalar1 {s : State} {d a : BitVec 5} {f : Word → Word} {v : Word} (hc : NoCall s) (ha : Full s a)
    (hv : f (s.cur.sv a) = v) : finish s (s.scalar1 1 d a 0 f) = .next (issued (s.pushS 1 d v)) := by
  rw [State.scalar1_full ha, finish_ok hc, hv]

/-- A word that changes part of d reads it: FULL, it issues with its result. -/
theorem finish_scalarMod {s : State} {d : BitVec 5} {f : Word → Word} {v : Word} (hc : NoCall s) (hd : Full s d)
    (hv : f (s.cur.sv d) = v) : finish s (s.scalarMod d [] f) = .next (issued (s.pushS 1 d v)) := by
  have hread : s.scalarMod d [] f = .ok (s.pushS 1 d (f (s.cur.sv d))) := State.withSrcs_s hd
  rw [hread, finish_ok hc, hv]

/-! ## What the results are as numbers -/

theorem add_eq_ofInt (a b : Word) : a + b = BitVec.ofInt 64 (a.toInt + b.toInt) := by
  rw [BitVec.ofInt_add, BitVec.ofInt_toInt, BitVec.ofInt_toInt]

theorem boolWord_slt (a b : Word) : boolWord (a.slt b) = if a.toInt < b.toInt then 1 else 0 := by
  simp only [boolWord, BitVec.slt_eq_decide, decide_eq_true_eq]

theorem boolWord_ult (a b : Word) : boolWord (a.ult b) = if a.toNat < b.toNat then 1 else 0 := by
  simp only [boolWord, BitVec.ult, decide_eq_true_eq]

theorem shiftLeft_eq_ofNat (a : Word) (n : Nat) : a <<< n = BitVec.ofNat 64 (a.toNat * 2 ^ n) := by
  apply BitVec.eq_of_toNat_eq
  rw [BitVec.toNat_shiftLeft, BitVec.toNat_ofNat, Nat.shiftLeft_eq]

theorem ushiftRight_eq_ofNat (a : Word) (n : Nat) : a >>> n = BitVec.ofNat 64 (a.toNat / 2 ^ n) := by
  apply BitVec.eq_of_toNat_eq
  rw [BitVec.toNat_ushiftRight, BitVec.toNat_ofNat, Nat.shiftRight_eq_div_pow,
    Nat.mod_eq_of_lt (Nat.lt_of_le_of_lt (Nat.div_le_self _ _) a.isLt)]

theorem sshiftRight_eq_ofInt (a : Word) (n : Nat) : a.sshiftRight n = BitVec.ofInt 64 (a.toInt / 2 ^ n) := by
  rw [BitVec.sshiftRight, Int.shiftRight_eq_div_pow]
  rfl

/-- A shorter literal, moved up, as a number. -/
theorem setWidth_shiftLeft_eq_ofNat {w : Nat} (x : BitVec w) (hw : w ≤ 64) (n : Nat) :
    (x.setWidth 64 : Word) <<< n = BitVec.ofNat 64 (x.toNat * 2 ^ n) := by
  rw [shiftLeft_eq_ofNat, BitVec.toNat_setWidth_of_le hw]

/-- A field put into a word: its own bits at its place, the word's elsewhere. -/
theorem getLsbD_setSeg {n : Nat} (x : Word) (lo : Nat) (v : BitVec n) (hn : lo + n ≤ 64) (i : Nat) (hi : i < 64) :
    (setSeg x lo v).getLsbD i = if lo ≤ i ∧ i < lo + n then v.getLsbD (i - lo) else x.getLsbD i := by
  simp only [setSeg, BitVec.getLsbD_or, BitVec.getLsbD_and, BitVec.getLsbD_not, BitVec.getLsbD_shiftLeft, BitVec.getLsbD_setWidth,
    BitVec.getLsbD_allOnes, hi]
  by_cases hlo : lo ≤ i
  · by_cases hin : i < lo + n
    · have h1 : i - lo < 64 := by omega
      have h2 : i - lo < n := by omega
      simp [hlo, hin, h1, h2, Nat.not_lt.mpr hlo]
    · have h2 : ¬ i - lo < n := by omega
      simp [hin, h2, BitVec.getLsbD_of_ge v (i - lo) (by omega)]
  · simp [hlo, Nat.lt_of_not_le hlo]

/-! ## The obligation -/

theorem simmResults : Claim.SimmResults := by
  intro d a s hc ha
  refine ⟨fun x hx imm => ?_, fun n => ⟨?_, ?_, ?_⟩⟩
  · simp only [Claim.simm, List.mem_cons, List.not_mem_nil, or_false] at hx
    rcases hx with rfl | rfl | rfl | rfl | rfl | rfl
    · exact (exec_addi d a imm s).trans (finish_scalar1 hc ha (add_eq_ofInt _ _))
    · exact (exec_andi d a imm s).trans (finish_scalar1 hc ha rfl)
    · exact (exec_ori d a imm s).trans (finish_scalar1 hc ha rfl)
    · exact (exec_xori d a imm s).trans (finish_scalar1 hc ha rfl)
    · exact (exec_slti d a imm s).trans (finish_scalar1 hc ha (boolWord_slt _ _))
    · exact (exec_sltiu d a imm s).trans (finish_scalar1 hc ha (boolWord_ult _ _))
  · exact (exec_shli d a n s).trans (finish_scalar1 hc ha (shiftLeft_eq_ofNat _ _))
  · exact (exec_shri d a n s).trans (finish_scalar1 hc ha (ushiftRight_eq_ofNat _ _))
  · exact (exec_srai d a n s).trans (finish_scalar1 hc ha (sshiftRight_eq_ofInt _ _))

theorem constantWords : Claim.ConstantWords := by
  intro d s hc
  refine ⟨fun hw imm => ⟨?_, ?_, fun hd => ?_⟩, fun x => ⟨?_, ?_, fun hd => ?_⟩⟩
  · rw [exec_movz, execMovz, finish_ok hc, setWidth_shiftLeft_eq_ofNat imm (by decide)]
  · rw [exec_movn, execMovn, finish_ok hc, setWidth_shiftLeft_eq_ofNat imm (by decide)]
  · have hroom : 16 * hw.toNat + 16 ≤ 64 := by
      have := hw.isLt
      omega
    exact ⟨_, (exec_movk d hw imm s).trans (finish_scalarMod hc hd rfl), fun i hi => getLsbD_setSeg _ _ imm hroom i hi⟩
  · rw [exec_movl, execMovl, finish_ok hc, ← BitVec.ofNat_toNat]
  · rw [exec_movlS, execMovlS, finish_ok hc]
    rfl
  · exact (exec_movlh d x s).trans
      (finish_scalarMod hc hd (congrArg (s.cur.sv d ||| ·) (setWidth_shiftLeft_eq_ofNat x (by decide) 32)))

/-- Settles O2: each word reads its sources through one lemma, and its result is the table's as a number, bit by bit for MOVK. -/
theorem immediateWords : Obligations.ImmediateWords := ⟨simmResults, constantWords⟩

end Sys2Proof.Machine
end

section
/-! PROOFS. Control words (07 R160, R178-R181; 13 R312): the fetch state after a bundle, words that end their bundle; O8 and O10. -/

namespace Sys2Proof.Machine

open Safe

/-! ## The arms of these words -/

theorem exec_nop (s : State) : exec .nop s = execNop s := rfl
theorem exec_trap (b : BitVec 5) (sb : BitVec 3) (s : State) : exec (.trap b sb) s = execTrap b sb s := rfl
theorem exec_brk (s : State) : exec .brk s = execBrk s := rfl
theorem exec_yield (s : State) : exec .yield s = execYield s := rfl
theorem exec_quant (s : State) : exec .quant s = execQuant s := rfl

/-! ## The fetch state after a bundle (R160) -/

/-- What the update of the fetch state leaves of a context: all but the crossings of its strand, the fetch state itself, the bundles to
annul and the note on the packet. -/
theorem State.afterBundle_cur (s : State) (target : Option Word) :
    ∃ x l, (s.afterBundle target).cur = { s.cur with
        strand := x, line := l, pc := s.cur.npc, npc := s.cur.nnpc, annul := s.cur.annul - 1
        nnpc := match target with
          | some t => t
          | none => s.seq s.cur.nnpc }
      ∧ (x = s.cur.strand ∨ x = s.cur.strand.map Strand.nearer) := by
  simp only [State.afterBundle, State.modCur]
  split
  · exact ⟨_, _, rfl, Or.inr rfl⟩
  · exact ⟨_, _, rfl, Or.inl rfl⟩

/-- Settles O8: the update of the fetch state writes these fields and no register. -/
theorem fetchStateMovesOn : Obligations.FetchStateMovesOn := by
  intro s target
  obtain ⟨x, l, h, -⟩ := s.afterBundle_cur target
  rw [h]
  exact ⟨rfl, rfl, rfl, rfl, rfl, fun _ => rfl⟩

/-! ## TRAP (R179, R312) -/

/-- TRAP outside a speculative task issues its bundle, and then traps with the fetch state after it. -/
theorem execTrap_issues {s : State} {b : BitVec 5} {sb : BitVec 3} (hr : s.iss.repMore = false) (h : s.cur.level = .s ∨ NotSpec s) :
    execTrap b sb s = .next (ended (s.bundleDone.trapHere ⟨cTrap, BitVec.ofNat 64 (b.toNat * 8 + sb.toNat)⟩)) := by
  have hgo : (s.cur.level == .u && s.curSpec) = false := by
    rcases h with hl | hn
    · rw [hl]; rfl
    · rw [show s.curSpec = false from hn, Bool.and_false]
  simp only [execTrap, hgo, Bool.false_eq_true, if_false]
  exact finishEnd_ok _ _ hr

/-- In one it traps before its bundle issues. -/
theorem execTrap_deferred {s : State} {b : BitVec 5} {sb : BitVec 3} (hl : s.cur.level = .u) (hs : s.curSpec = true) :
    execTrap b sb s = .next (s.trapHere ⟨cTrap, BitVec.ofNat 64 (b.toNat * 8 + sb.toNat)⟩) := by
  simp only [execTrap, hl, hs, beq_self_eq_true, Bool.and_self, if_true, finish_trap, w64]

/-! ## YIELD and QUANT (R181) -/

theorem execYield_ends {s : State} (hr : s.iss.repMore = false) : execYield s = .next (ended s.bundleDone.yield) := finishEnd_ok _ _ hr

/-- A strand that yields stays in its context, READY with why = 5, at the level of its priority. -/
theorem State.yield_strand {s : State} {x : Strand} (hx : s.cur.strand = some x) :
    ∃ y, s.yield.cur.strand = some y ∧ y.id = x.id ∧ y.state = .ready ∧ y.why = 5 ∧ y.level = y.prio := by
  obtain ⟨w, h, -⟩ := State.suspend_eq .ready 5 hx
  unfold State.yield
  rw [h]
  exact ⟨_, rfl, rfl, rfl, rfl, rfl⟩

theorem Ctx.quantumSpent_iff (c : Ctx) : c.quantumSpent = true ↔ c.sc.quantum ≠ 0 ∧ c.sc.quantum.toNat ≤ c.sc.qcnt.toNat := by
  simp only [Ctx.quantumSpent, Bool.and_eq_true, bne_iff_ne, decide_eq_true_eq]

/-- QUANT yields when the quantum is spent, and changes nothing otherwise. -/
theorem execQuant_spent {s : State} (h : s.cur.quantumSpent = true) : execQuant s = execYield s := by
  simp only [execQuant, h, if_true, execYield]

theorem execQuant_nop {s : State} (hc : NoCall s) (h : s.cur.quantumSpent = false) : execQuant s = .next (issued s) := by
  simp only [execQuant, h, Bool.false_eq_true, if_false, finish_ok hc]

/-- Settles O10: NOP and BRK are their outcomes; TRAP, YIELD and QUANT end their bundle as their conditions say. -/
theorem controlWords : Obligations.ControlWords := by
  intro b sb s hc hr
  refine ⟨?_, fun h => ?_, fun hl hs => ?_, ?_, ⟨_, (exec_yield s).trans (execYield_ends hr), rfl, fun x hx => State.yield_strand hx⟩,
    fun h0 hle => ?_, fun h => ?_⟩
  · exact (exec_nop s).trans (finish_ok hc)
  · exact (exec_trap b sb s).trans (execTrap_issues hr h)
  · exact (exec_trap b sb s).trans (execTrap_deferred hl hs)
  · exact (exec_brk s).trans (finish_trap s _)
  · rw [exec_quant, exec_yield]
    exact execQuant_spent ((Ctx.quantumSpent_iff _).mpr ⟨h0, hle⟩)
  · refine (exec_quant s).trans (execQuant_nop hc ?_)
    rw [Bool.eq_false_iff, Ne, Ctx.quantumSpent_iff]
    rintro ⟨h0, hle⟩
    rcases h with h | h
    · exact h0 h
    · omega

end Sys2Proof.Machine
end

section
/-! PROOFS. What a write to memory leaves of the machine (01 R28, 04 R94, 05 R131, 23 R415): all but memory and its poison, what the
caches and the header shadow hold, the waits that it settles, an injection that it meets. -/

namespace Sys2Proof.Machine

/-- A change of strands that leaves all of a strand but its wait. -/
def WaitOnly (f : Strand → Strand) : Prop := ∀ x, ∃ w, f x = { x with wait := w }

theorem WaitOnly.id : WaitOnly id := fun x => ⟨x.wait, rfl⟩

theorem WaitOnly.comp {f g : Strand → Strand} (hf : WaitOnly f) (hg : WaitOnly g) : WaitOnly (g ∘ f) := by
  intro x
  obtain ⟨w, hw⟩ := hf x
  obtain ⟨v, hv⟩ := hg (f x)
  exact ⟨v, by rw [Function.comp_apply, hv, hw]⟩

theorem WaitOnly.strandId {f : Strand → Strand} (hf : WaitOnly f) (x : Strand) : (f x).id = x.id := by
  obtain ⟨w, hw⟩ := hf x
  rw [hw]

/-- A state that a write to memory may leave. -/
def State.Written (s t : State) : Prop :=
  ∃ f m p l d h k e g, WaitOnly f ∧ t = { s with
    cur := s.cur.modStrand f
    oth := s.oth.modStrand f
    mem := m
    poison := p
    pkg := { s.pkg with strands := s.pkg.strands.map f, lines := l, dirty := d, hostLines := h, shadowKnown := k }
    core := { s.core with einj := e }
    agenda := g }

/-- A change that settles no wait. -/
theorem State.written_of_store (s : State) (m : Mem) (p : List Nat) (l : List CLine) (d : List (Nat × Nat)) (h k : List Nat) (e : Word)
    (g : List (EvArgs × Instr)) :
    State.Written s { s with
      mem := m, poison := p, agenda := g, core := { s.core with einj := e }
      pkg := { s.pkg with lines := l, dirty := d, hostLines := h, shadowKnown := k } } :=
  ⟨id, m, p, l, d, h, k, e, g, WaitOnly.id, by simp [Ctx.modStrand]⟩

theorem State.Written.refl (s : State) : State.Written s s := s.written_of_store _ _ _ _ _ _ _ _

theorem State.Written.trans {s t u : State} (h : State.Written s t) (k : State.Written t u) : State.Written s u := by
  obtain ⟨f, _, _, _, _, _, _, _, _, hf, rfl⟩ := h
  obtain ⟨g, m, p, l, d, h, k, e, a, hg, rfl⟩ := k
  exact ⟨g ∘ f, m, p, l, d, h, k, e, a, hf.comp hg, by simp [Ctx.modStrand]⟩

/-- A fold of steps that each write no more writes no more. -/
theorem State.Written.foldl {α : Type} {f : State → α → State} (hf : ∀ s x, State.Written s (f s x)) :
    ∀ (l : List α) (s : State), State.Written s (l.foldl f s)
  | [], s => State.Written.refl s
  | x :: t, s => (hf s x).trans (State.Written.foldl hf t (f s x))

/-! ## The parts of a write -/

theorem State.putLine_written (s : State) (key : BitVec 8) (l : Nat) (f : List Byte → List Byte) : State.Written s (s.putLine key l f) :=
  s.written_of_store _ _ _ _ _ _ _ _

theorem State.pokeAt_written (s : State) (p : Phys) (bs : List Byte) : State.Written s (s.pokeAt p bs) := by
  unfold State.pokeAt
  split
  · refine State.Written.foldl (fun s l => ?_) _ _
    dsimp only
    split <;> exact s.putLine_written _ _ _
  · exact s.written_of_store _ _ _ _ _ _ _ _

theorem State.pokePool_written (s : State) (p : Phys) (bs : List Byte) : State.Written s (s.pokePool p bs) := by
  refine State.Written.foldl (fun s l => ?_) _ _
  dsimp only
  split <;> exact s.written_of_store _ _ _ _ _ _ _ _

theorem State.putAt_written (s : State) (p : Phys) (bs : List Byte) : State.Written s (s.putAt p bs) := by
  unfold State.putAt
  split
  · exact s.pokePool_written p bs
  · exact (s.pokeAt_written p bs).trans
      (State.Written.foldl (f := State.clearPoison) (fun s _ => s.written_of_store _ _ _ _ _ _ _ _) _ _)

theorem State.fillShadow_written (s : State) (p : Phys) : State.Written s (s.fillShadow p) := by
  unfold State.fillShadow
  split
  · exact s.written_of_store _ _ _ _ _ _ _ _
  · exact State.Written.refl s

theorem State.shadowWrite_written (s : State) (p : Phys) (n : Nat) : State.Written s (s.shadowWrite p n) := by
  unfold State.shadowWrite State.shadowAfter
  split
  · exact State.Written.refl s
  · split
    · refine State.Written.foldl (fun s l => ?_) _ _
      split
      · exact s.fillShadow_written _
      · exact State.Written.refl s
    · exact State.Written.refl s

theorem State.dirtyAfter_written (s : State) (p : Phys) (n : Nat) : State.Written s (s.dirtyAfter p n) := by
  unfold State.dirtyAfter
  split
  · exact s.written_of_store _ _ _ _ _ _ _ _
  · split
    · exact s.written_of_store _ _ _ _ _ _ _ _
    · exact State.Written.refl s

theorem State.settleStrand_waitOnly (s : State) (k n : Nat) : WaitOnly (s.settleStrand k n) := by
  intro x
  unfold State.settleStrand
  split
  · exact ⟨x.wait, rfl⟩
  · split
    · exact ⟨x.wait, rfl⟩
    · split
      · exact ⟨_, rfl⟩
      · exact ⟨x.wait, rfl⟩

theorem State.recheck_written (s : State) (p : Phys) (n : Nat) : State.Written s (s.recheck p n) :=
  ⟨s.settleStrand p.key0 n, _, _, _, _, _, _, _, _, s.settleStrand_waitOnly _ _, rfl⟩

theorem State.injectAfter_written (s : State) (p : Phys) (n : Nat) : State.Written s (s.injectAfter p n) := by
  unfold State.injectAfter State.injectIn
  dsimp only
  split
  · exact s.written_of_store _ _ _ _ _ _ _ _
  · exact State.Written.refl s

/-! ## Writes -/

theorem State.writeAt_written (s : State) (p : Phys) (bs : List Byte) : State.Written s (s.writeAt p bs) :=
  ((((s.putAt_written p bs).trans (State.shadowWrite_written _ p bs.length)).trans (State.dirtyAfter_written _ p bs.length)).trans
    (State.recheck_written _ p bs.length)).trans (State.injectAfter_written _ p bs.length)

theorem State.writeRange_written : ∀ (l : List (Phys × Nat)) (s : State) (bs : List Byte), State.Written s (s.writeRange l bs)
  | [], s, _ => State.Written.refl s
  | (p, m) :: t, s, bs => (s.writeAt_written p (bs.take m)).trans (State.writeRange_written t _ (bs.drop m))

theorem State.vwrite_written (s : State) (satp va : Word) (bs : List Byte) : State.Written s (s.vwrite satp va bs) := by
  unfold State.vwrite
  split
  · exact State.Written.refl s
  · exact State.writeRange_written _ s bs

theorem State.writeRecord_written (s : State) (x : Strand) (pc npc nnpc : Word) (live : Nat) :
    State.Written s (s.writeRecord x pc npc nnpc live) := s.vwrite_written _ _ _

theorem State.touchRecord_written (s : State) (x : Strand) : State.Written s (s.touchRecord x) := by
  unfold State.touchRecord
  dsimp only
  split
  · exact s.vwrite_written _ _ _
  · exact State.Written.refl s

theorem State.Written.versions {s t : State} (h : State.Written s t) : t.pkg.versions = s.pkg.versions := by
  obtain ⟨_, _, _, _, _, _, _, _, _, _, rfl⟩ := h
  rfl

/-! ## The strand of the current context keeps its id -/

/-- The id of the strand that is resident in the current context, if there is one. -/
def State.curId (s : State) : Option (BitVec 40) := s.cur.strand.map Strand.id

theorem State.Written.curId {s t : State} (h : State.Written s t) : t.curId = s.curId := by
  obtain ⟨f, _, _, _, _, _, _, _, _, hf, rfl⟩ := h
  simp only [State.curId, Ctx.modStrand, Option.map_map]
  exact congrArg (fun g => s.cur.strand.map g) (funext hf.strandId)

/-- A change of the event bits settles waits and readies tasks; no strand changes its id (R281, R316). -/
theorem State.eventStrand_id (s : State) (x : Strand) : (s.eventStrand x).id = x.id := by
  have hready : ∀ b : Bool, (if b then { x with state := .ready, since := s.core.cyc } else x : Strand).id = x.id := by
    intro b
    cases b <;> rfl
  unfold State.eventStrand
  dsimp only
  split
  · split
    · split
      · exact hready _
      · exact hready _
    · exact hready _
  · exact hready _

theorem State.orEvents_curId (s : State) (m : Mask) : (s.orEvents m).curId = s.curId := by
  unfold State.orEvents State.setEvents
  dsimp only
  refine (State.Written.foldl (fun s x => s.touchRecord_written _) _ _).curId.trans ?_
  simp only [State.curId, Option.map_map]
  exact congrArg (fun g => s.cur.strand.map g) (funext fun x => State.eventStrand_id _ x)

end Sys2Proof.Machine
end

section
/-! PROOFS. Ends of runs (07 R183; 13 R315, R320): where a strand is gone, where a task is DONE, TABORT; O28. -/

namespace Sys2Proof.Machine

open Safe

/-! ## The arms of these words -/

theorem exec_exit (s : State) : exec .exit s = execExit s := rfl
theorem exec_tend (s : State) : exec .tend s = execTend s := rfl
theorem exec_tabort (a : BitVec 5) (s : State) : exec (.tabort a) s = execTabort a s := rfl

/-! ## A strand taken out of the tables -/

/-- A context whose strand has been taken out, if it was this one. -/
theorem State.dropStrand_cur (s : State) (id : BitVec 40) : (s.dropStrand id).cur.strand = s.cur.strand.filter (fun x => x.id != id) := by
  cases hx : s.cur.strand with
  | none => simp [State.dropStrand, hx]
  | some x => by_cases he : x.id = id <;> simp [State.dropStrand, hx, he, Option.filter_some]

theorem State.dropStrand_oth (s : State) (id : BitVec 40) : (s.dropStrand id).oth.strand = s.oth.strand.filter (fun x => x.id != id) := by
  cases hx : s.oth.strand with
  | none => simp [State.dropStrand, hx]
  | some x => by_cases he : x.id = id <;> simp [State.dropStrand, hx, he, Option.filter_some]

/-- The current context is empty once its strand has been taken out. -/
theorem State.dropStrand_vacates {s : State} {id : BitVec 40} (h : s.curId = some id) : (s.dropStrand id).cur.strand = none := by
  obtain ⟨x, hx, rfl⟩ := Option.map_eq_some_iff.mp h
  rw [State.dropStrand_cur, hx]
  simp

/-- No strand of the device has its id any more. -/
theorem State.dropStrand_gone {s : State} {id : BitVec 40} {y : Strand} (h : y ∈ (s.dropStrand id).strands) : y.id ≠ id := by
  have hpkg : (s.dropStrand id).pkg.strands = s.pkg.strands.filter (fun x => x.id != id) := rfl
  unfold State.strands at h
  rw [State.dropStrand_cur, State.dropStrand_oth, hpkg, List.mem_append, List.mem_append, Option.mem_toList, Option.mem_toList,
    List.mem_filter] at h
  have hne : (y.id != id) = true := by
    rcases h with (h | h) | ⟨-, h⟩
    · exact (Option.filter_eq_some_iff.mp h).2
    · exact (Option.filter_eq_some_iff.mp h).2
    · exact h
  simpa using hne

/-! ## Any strand but an ordered task is gone (R183) -/

/-- Its record is written, and it is taken out of the tables. -/
theorem State.exitStrand_drops (s : State) (x : Strand) (c : Ctx) (why : BitVec 8) :
    ∃ u, State.Written s u ∧ (s.exitStrand x c why).cur = (u.dropStrand x.id).cur
      ∧ (s.exitStrand x c why).strands = (u.dropStrand x.id).strands := by
  unfold State.exitStrand
  extract_lets x1 s1 s2
  refine ⟨s1, s.writeRecord_written x1 c.pc c.npc c.nnpc c.liveMask, ?_⟩
  clear_value s1
  split <;> exact ⟨rfl, rfl⟩

theorem State.endRun_exits {s : State} {x : Strand} (hx : s.cur.strand = some x) (ho : x.ord = false) :
    s.endRun.cur.strand = none ∧ ∀ y ∈ s.endRun.strands, y.id ≠ x.id := by
  have hid : (if x.isTask then s.orEvents x.setMask else s : State).curId = some x.id := by
    have hs : s.curId = some x.id := by rw [State.curId, hx]; rfl
    split
    · exact (s.orEvents_curId _).trans hs
    · exact hs
  have hend : s.endRun = (if x.isTask then s.orEvents x.setMask else s : State).exitStrand x s.cur 6 := by
    simp only [State.endRun, hx, ho, Bool.false_eq_true, if_false]
  obtain ⟨u, hu, hcur, hall⟩ := State.exitStrand_drops (if x.isTask then s.orEvents x.setMask else s : State) x s.cur 6
  rw [hend, hcur, hall]
  exact ⟨State.dropStrand_vacates (hu.curId.trans hid), fun y hy => State.dropStrand_gone hy⟩

/-! ## An ordered task is DONE (R315) -/

/-- The strand with the id of the current context's is found there. -/
theorem State.strandOf_cur {s : State} {x : Strand} (hx : s.cur.strand = some x) : s.strandOf x.id = some x := by
  simp [State.strandOf, State.strands, hx]

/-- A strand that leaves its context stays among those that are not resident. -/
theorem State.leave_cur {s : State} {x : Strand} (hx : s.cur.strand = some x) :
    (s.leave x.id).cur.strand = none ∧ x ∈ (s.leave x.id).pkg.strands ∧ (s.leave x.id).pkg.versions = s.pkg.versions := by
  simp only [State.leave, State.strandOf_cur hx]
  exact ⟨State.dropStrand_vacates (by rw [State.curId, hx]; rfl), List.mem_append_right _ (List.mem_singleton.mpr rfl), rfl⟩

/-- It stands there with the data that it is given. -/
theorem State.leave_modStrand {s : State} {id : BitVec 40} (y : Strand) (h : s.curId = some id) :
    ((s.leave id).modStrand id (fun _ => y)).cur.strand = none ∧ y ∈ ((s.leave id).modStrand id (fun _ => y)).pkg.strands
      ∧ ((s.leave id).modStrand id (fun _ => y)).pkg.versions = s.pkg.versions := by
  obtain ⟨x, hx, rfl⟩ := Option.map_eq_some_iff.mp h
  obtain ⟨hnone, hin, hver⟩ := State.leave_cur hx
  refine ⟨?_, List.mem_map.mpr ⟨x, hin, if_pos (beq_self_eq_true x.id)⟩, hver⟩
  rw [State.modStrand_cur, hnone]
  rfl

theorem State.endRun_done {s : State} {x : Strand} (hx : s.cur.strand = some x) (ho : x.ord = true) :
    s.endRun.cur.strand = none ∧ s.endRun.pkg.versions = s.pkg.versions
      ∧ ∃ y ∈ s.endRun.pkg.strands, y.id = x.id ∧ y.state = .done ∧ y.why = 8 := by
  have hend : s.endRun = s.taskDone x := by simp only [State.endRun, hx, ho, if_true]
  have hid : s.curId = some x.id := by rw [State.curId, hx]; rfl
  rw [hend]
  unfold State.taskDone
  extract_lets x1 s1
  have hw := s.writeRecord_written x1 x1.pc x1.npc x1.nnpc 0
  obtain ⟨hnone, hin, hver⟩ := State.leave_modStrand x1 (hw.curId.trans hid)
  exact ⟨hnone, hver.trans hw.versions, x1, hin, rfl, rfl, rfl⟩

/-! ## EXIT, TEND and TABORT -/

/-- EXIT and TEND, not held by a release, issue their bundle and end the run. -/
theorem finishEnd_endRun {s : State} (i : Instr) (hr : s.iss.repMore = false) (hh : s.endHeld = false) :
    finishEnd i 0 s (if s.endHeld then .hold .other else .ok s.bundleDone.endRun) = .next (ended s.bundleDone.endRun) := by
  rw [hh]
  exact finishEnd_ok i 0 hr

theorem endOfRun : Claim.EndOfRun := by
  intro s x hr hh hx i hi
  have hend : exec i s = .next (ended s.bundleDone.endRun) := by
    simp only [List.mem_cons, List.not_mem_nil, or_false] at hi
    rcases hi with rfl | rfl
    · exact (exec_exit s).trans (finishEnd_endRun .exit hr hh)
    · exact (exec_tend s).trans (finishEnd_endRun .tend hr hh)
  refine ⟨_, hend, rfl, ?_, fun ho => (State.endRun_done hx ho).2, fun ho => (State.endRun_exits hx ho).2⟩
  cases ho : x.ord with
  | true => exact (State.endRun_done hx ho).1
  | false => exact (State.endRun_exits hx ho).1

/-- The source of a word that ends its bundle, read at its place. -/
theorem State.withEndSrc_full {s : State} {a : BitVec 5} {w : Bool} {k : Word → Res} (he : s.iss.endVal = none) (ha : Full s a) :
    s.withEndSrc a w k = k (s.cur.sv a) := by
  simp only [State.withEndSrc, he]
  exact State.withSrcs_s ha

section Tabort

variable {s : State} {a : BitVec 5} {x : Strand} {k : TaskInfo}

/-- TABORT of anything but an ordered task. -/
theorem execTabort_unordered (ha : Full s a) (he : s.iss.endVal = none) (h : ∀ x, s.cur.strand = some x → x.ord = false) :
    execTabort a s = .next (s.trapHere ⟨cTsOrder, 4⟩) := by
  unfold execTabort
  rw [State.withEndSrc_full he ha]
  cases hx : s.cur.strand with
  | none => rfl
  | some x => simp only [h x hx]; rfl

/-- TABORT of an irrevocable task. -/
theorem execTabort_irrevocable (ha : Full s a) (he : s.iss.endVal = none) (hx : s.cur.strand = some x) (ho : x.ord = true)
    (hk : x.task = some k) (hi : k.irrev = true) : execTabort a s = .next (s.trapHere ⟨cTsOrder, 5⟩) := by
  unfold execTabort
  rw [State.withEndSrc_full he ha]
  simp only [hx, ho, hk, hi, if_true]
  rfl

/-- TABORT with bit 0 of its register: the task ends, to be dropped at its commit. -/
theorem execTabort_drops (ha : Full s a) (hr : s.iss.repMore = false) (he : s.iss.endVal = none) (hx : s.cur.strand = some x)
    (ho : x.ord = true) (hk : x.task = some k) (hi : k.irrev = false) (hv : (s.cur.sv a).toNat % 2 = 1) :
    execTabort a s = .next (ended
      (s.bundleDone.modStrand x.id (fun y => { y with task := y.task.map (fun t => { t with drop := true }) })).endRun) := by
  have hb : (s.cur.sv a).getLsbD 0 = true := by simp [BitVec.getLsbD, Nat.testBit_zero, hv]
  unfold execTabort
  rw [State.withEndSrc_full he ha]
  simp only [hx, ho, hk, hi, hb, Bool.false_eq_true, if_false, if_true, finishEnd_ok _ _ hr]

/-- TABORT without it: the task is aborted, and runs again only as the oldest. -/
theorem execTabort_aborts (ha : Full s a) (hr : s.iss.repMore = false) (he : s.iss.endVal = none) (hx : s.cur.strand = some x)
    (ho : x.ord = true) (hk : x.task = some k) (hi : k.irrev = false) (hv : (s.cur.sv a).toNat % 2 = 0) :
    execTabort a s = .next (ended
      ((s.bundleDone.modStrand x.id (fun y => { y with task := y.task.map (fun t => { t with onlyOldest := true }) })).abort [x.id])) := by
  have hb : (s.cur.sv a).getLsbD 0 = false := by simp [BitVec.getLsbD, Nat.testBit_zero, hv]
  unfold execTabort
  rw [State.withEndSrc_full he ha]
  simp only [hx, ho, hk, hi, hb, Bool.false_eq_true, if_false, finishEnd_ok _ _ hr]

end Tabort

theorem abortWord : Claim.AbortWord := by
  intro a s ha hr he
  refine ⟨fun h => (exec_tabort a s).trans (execTabort_unordered ha he h),
    fun x k hx ho hk => ⟨fun hi => (exec_tabort a s).trans (execTabort_irrevocable ha he hx ho hk hi),
      fun hi => ⟨fun hv => ?_, fun hv => ?_⟩⟩⟩
  · exact (exec_tabort a s).trans (execTabort_drops ha hr he hx ho hk hi hv)
  · exact (exec_tabort a s).trans (execTabort_aborts ha hr he hx ho hk hi hv)

/-- Settles O28: an end of a run takes its strand out of the tables, or leaves it DONE; a write to memory keeps what this rests on. -/
theorem endsOfRuns : Obligations.EndsOfRuns := ⟨endOfRun, abortWord⟩

end Sys2Proof.Machine
end

section
/-! PROOFS. The strand through a bundle (02 R43; 07 R160): what lands, and what a context notes when its bundle has issued, keeps the
strand that is resident. -/

namespace Sys2Proof.Machine

open Safe

/-! ## What landing leaves: the strand (R43, R110) -/

theorem State.foldl_strand {α : Type} {f : State → α → State} (hf : ∀ s x, (f s x).cur.strand = s.cur.strand) :
    ∀ (l : List α) (s : State), (l.foldl f s).cur.strand = s.cur.strand
  | [], _ => rfl
  | x :: t, s => (State.foldl_strand hf t (f s x)).trans (hf s x)

/-- Sending a request leaves the current context. -/
theorem State.send_cur (s : State) (q : Req) : (s.send q).cur = s.cur := by
  obtain ⟨_, _, _, _, _, _, _, _, _, _, h⟩ := s.send_rest q
  rw [h]

theorem State.pushStream_strand (s : State) (t : BitVec 4) (r : BitVec 6) : (s.pushStream t r).cur.strand = s.cur.strand := by
  unfold State.pushStream
  split
  · rfl
  · dsimp only
    split
    · rfl
    · split
      · rw [State.modCur_cur, Ctx.modStream_strand, State.send_cur, State.newTag_cur]
      · rfl

theorem State.writeCoreCsr_strand (s : State) (n : BitVec 10) (v : Word) : (s.writeCoreCsr n v).cur.strand = s.cur.strand := by
  unfold State.writeCoreCsr; split <;> rfl

theorem Ctx.put_strand (c : Ctx) (now : Nat) (d : Dest) (v : Row) (sel : Mask) (poison : Bool) :
    (c.put now d v sel poison).strand = c.strand := by
  cases d <;> simp [Ctx.put, Ctx.setRow]

theorem Ctx.empty_strand (c : Ctx) (now : Nat) (d : Dest) : (c.empty now d).strand = c.strand := by
  cases d <;> simp [Ctx.empty, Ctx.setRow]

/-- Whatever lands, the strand stays. -/
theorem State.land_strand (s : State) (e : Eff) : (s.land e).cur.strand = s.cur.strand := by
  cases e with
  | write d v sel poison =>
    have h : (s.modCur (fun c => c.put s.landCycle d v sel poison)).cur.strand = s.cur.strand := Ctx.put_strand _ _ _ _ _ _
    cases d with
    | row t r => exact (State.pushStream_strand _ t r).trans h
    | s r | k r | p r | ma r => exact h
  | zeroTile t keep => exact State.foldl_strand (fun s r => s.pushStream_strand t r) _ _
  | mark d => exact Ctx.empty_strand _ _ _
  | csr n v =>
    unfold State.land State.writeCsr
    dsimp only
    split
    · rfl
    · exact State.writeCoreCsr_strand _ _ _
  | flags f | gen v | attr t v bm | moved t v bm | tsw t clear v => rfl

theorem State.tick_strand (s : State) : s.tick.cur.strand = s.cur.strand :=
  State.foldl_strand (f := fun s (p : Pend) => s.land p.eff) (fun s p => s.land_strand p.eff) _ _

theorem State.cycleEnd_strand (s : State) : s.cycleEnd.cur.strand = s.cur.strand := by
  unfold State.cycleEnd
  dsimp only
  split <;> split
  · exact State.tick_strand _
  · rfl
  · exact State.tick_strand _
  · rfl

/-! ## A bundle that has issued keeps the id of its strand -/

/-- A change of the current context's strand that keeps its id. -/
theorem curId_map {o : Option Strand} {f : Strand → Strand} (hf : ∀ x, (f x).id = x.id) : (o.map f).map Strand.id = o.map Strand.id := by
  rw [Option.map_map]
  exact congrArg (fun g => o.map g) (funext hf)

theorem State.afterBundle_curId (s : State) (target : Option Word) : (s.afterBundle target).curId = s.curId := by
  unfold State.curId State.afterBundle
  rw [State.modCur_cur]
  dsimp only
  split
  · exact curId_map fun _ => rfl
  · rfl

theorem State.noteIssued_curId (s : State) : s.noteIssued.curId = s.curId := by
  have h : ∀ b : Bool, (if b then s.cur.strand.map (fun x => { x with steps := x.steps + 1 }) else s.cur.strand).map Strand.id
      = s.curId := by
    intro b
    cases b
    · rfl
    · exact curId_map fun _ => rfl
  unfold State.noteIssued
  dsimp only
  split <;> exact h _

theorem State.bundleDone_curId (s : State) : s.bundleDone.curId = s.curId := by
  unfold State.bundleDone
  extract_lets target s1 s2 s3 s4
  have h2 : s2.curId = s1.curId := by
    simp only [s2]
    split <;> rfl
  have h3 : s3.curId = s2.curId := by
    simp only [s3]
    split
    · exact curId_map fun _ => rfl
    · rfl
  have h4 : s4.curId = s3.curId := rfl
  calc s4.noteIssued.cycleEnd.curId = s4.noteIssued.curId := congrArg (Option.map Strand.id) s4.noteIssued.cycleEnd_strand
    _ = s.curId := by rw [s4.noteIssued_curId, h4, h3, h2, s.afterBundle_curId]

end Sys2Proof.Machine
end

section
/-! PROOFS. Words that wait, signal or repeat (07 R182, R188, R191; 12 R276, R278, R280-R282), and O24. -/

namespace Sys2Proof.Machine

open Safe

/-! ## The arms of these words -/

theorem exec_arrb (d a : BitVec 5) (s : State) : exec (.arrb d a) s = execArrb d a s := rfl
theorem exec_waitb (d a b : BitVec 5) (s : State) : exec (.waitb d a b) s = execWaitb d a b s := rfl
theorem exec_waita (d a b : BitVec 5) (ord sc : BitVec 2) (s : State) : exec (.waita d a b ord sc) s = execWaita d a b ord sc s := rfl
theorem exec_evwait (d a : BitVec 5) (ord sc : BitVec 2) (s : State) : exec (.evwait d a ord sc) s = execEvwait d a ord sc s := rfl
theorem exec_evset (a : BitVec 5) (ord sc : BitVec 2) (s : State) : exec (.evset a ord sc) s = execEvset a ord sc s := rfl
theorem exec_evclr (a : BitVec 5) (ord sc : BitVec 2) (s : State) : exec (.evclr a ord sc) s = execEvclr a ord sc s := rfl
theorem exec_susp (a : BitVec 5) (sb : BitVec 3) (s : State) : exec (.susp a sb) s = execSusp a sb s := rfl
theorem exec_rep (cnt : BitVec 6) (creg : BitVec 1) (stp : BitVec 4) (stride : BitVec 2) (ke : BitVec 1) (k : BitVec 3) (s : State) :
    exec (.rep cnt creg stp stride ke k) s = execRep cnt creg stp stride ke k s := rfl
theorem exec_repRepetition (s : State) : exec .repRepetition s = execRepRepetition s := rfl

/-! ## What the mark of an irrevocable task leaves (R311) -/

/-- The current strand, marked irrevocable if it is an ordered task. -/
def Strand.irrevocable (x : Strand) : Strand := { x with task := x.task.map (fun t => { t with irrev := true }) }

theorem State.irrev_strand {s : State} {x : Strand} (hx : s.cur.strand = some x) : s.irrev.cur.strand = some x.irrevocable := by
  show s.cur.strand.map _ = _
  rw [hx]
  rfl

theorem State.irrev_rs (s : State) (r : BitVec 5) : s.irrev.rs r = s.cur.sv r := rfl

theorem State.irrev_check (s : State) (k : Acc) (align n : Nat) (ea : Word) : s.irrev.check k align n ea = s.check k align n ea := rfl

theorem State.irrev_checkObj (s : State) (ea : Word) : s.irrev.checkObj ea = s.checkObj ea := rfl

theorem State.irrev_exposed (s : State) (p : Phys) : s.irrev.exposed p = s.exposed p := rfl

theorem State.irrev_curId (s : State) : s.irrev.curId = s.curId := curId_map fun _ => rfl

/-- A task has the same sets whether it is irrevocable or not, so its accesses are treated alike (R304). -/
theorem State.irrev_tracking (s : State) (w : Bool) (ea : Word) : s.irrev.tracking w ea = s.tracking w ea := by
  have hlevel : s.irrev.cur.level = s.cur.level := rfl
  have hpage : s.irrev.pageWritable ea = s.pageWritable ea := rfl
  unfold State.tracking
  rw [hlevel, hpage]
  cases s.cur.level with
  | s => rfl
  | u =>
    cases hx : s.cur.strand with
    | none =>
      have hi : s.irrev.cur.strand = none := congrArg (Option.map _) hx
      rw [hi]
    | some x =>
      have hr : x.irrevocable.task.map TaskInfo.rset = x.task.map TaskInfo.rset := Option.map_map _ _ _
      have hw : x.irrevocable.task.map TaskInfo.wset = x.task.map TaskInfo.wset := Option.map_map _ _ _
      have ho : x.irrevocable.ord = x.ord := rfl
      simp only [State.irrev_strand hx, hr, hw, ho]

theorem State.irrev_accessHeld (s : State) (w : Bool) (va : Word) : s.irrev.accessHeld w va = s.accessHeld w va :=
  State.accessHeld_near s.irrev_near w va

theorem State.irrev_accessPending (s : State) (p : Phys) (n : Nat) : s.irrev.accessPending p n = s.accessPending p n := by
  unfold State.accessPending
  rw [s.irrev_sid]
  rfl

theorem State.declared_in {s : State} {w : Bool} {ea : Word} {k : Unit → Res} (h : s.tracking w ea ≠ .undeclared) :
    s.declared w ea k = k () := by
  simp only [State.declared, h, if_false]

/-! ## Requests (R276, R281) -/

/-- A request that is sent is in flight, as it was asked. -/
theorem State.send_reqs (s : State) (q : Req) :
    ∃ r, (s.send q).pkg.reqs = s.pkg.reqs ++ [r] ∧ r.op = q.op ∧ r.loc = q.loc := by
  obtain ⟨_, _, _, _, _, _, _, _, _, _, h⟩ := s.send_rest q
  rw [h]
  exact ⟨_, rfl, rfl, rfl⟩

theorem State.mark_reqs (s : State) (tag : Nat) (d : Dest) : (s.mark tag d).pkg.reqs = s.pkg.reqs := by
  obtain ⟨-, -, -, -, -, -, -, -, -, h⟩ := s.mark_rest tag d
  rw [h]

theorem State.mark_strand (s : State) (tag : Nat) (d : Dest) : (s.mark tag d).cur.strand = s.cur.strand := by
  obtain ⟨-, -, -, -, -, -, -, -, h, -⟩ := s.mark_rest tag d
  rw [h]

/-- The state with other banks of the own scratchpad occupied (R90). -/
def State.occupying (s : State) (b : List (BitVec 5 × Nat)) : State := { s with core := { s.core with banks := b } }

/-- A word on one place takes its bank where that is of the own scratchpad, and free (R90). -/
theorem State.ownBank_free {s : State} {p : Phys} {rest : State → Res} (h : s.exposed p = true → BankFree s p) :
    ∃ b, s.ownBank [p] rest = rest (s.occupying b) := by
  cases hp : s.exposed p with
  | false =>
    refine ⟨s.core.banks, ?_⟩
    simp only [State.ownBank, List.filter_cons, hp, Bool.false_eq_true, if_false, List.filter_nil, List.isEmpty_nil, if_true]
    rfl
  | true =>
    obtain ⟨hbank, hreq⟩ := h hp
    have hb : s.core.banks.any (fun x => x.1 == seg p.pa 8 5) = false := by
      rw [List.any_eq_false]
      intro x hx
      simp [hbank x hx]
    have hq : s.pkg.reqs.any (fun q => decide (q.due < s.core.cyc) && s.ownServed q) = false := by
      rw [List.any_eq_false]
      intro q hq hc
      simp only [Bool.and_eq_true, decide_eq_true_eq] at hc
      rw [hreq q hq hc.1] at hc
      exact Bool.noConfusion hc.2
    have hone : [seg p.pa 8 5].eraseDups = [seg p.pa 8 5] := rfl
    refine ⟨(seg p.pa 8 5, 2) :: s.core.banks, ?_⟩
    simp only [State.ownBank, List.filter_cons, hp, if_true, List.filter_nil, List.map_cons, List.map_nil, hone, List.any_cons,
      List.any_nil, hb, hq, Bool.or_self, List.isEmpty_cons, Bool.false_eq_true, if_false]
    rfl

/-- ARRB asks for its arrival (R276). -/
theorem execArrb_asks {s : State} {d a : BitVec 5} {p : Phys} (hc : NoCall s) (hn : NotSpec s) (ha : Full s a)
    (hk : s.checkObj (s.cur.sv a) = .ok p) (hin : s.tracking true (s.cur.sv a) ≠ .undeclared)
    (hfree : s.exposed p = true → BankFree s p) (hh : s.accessHeld true (s.cur.sv a) = false) :
    ∃ t q, execArrb d a s = .next t ∧ t.iss.verdict = .issued ∧ t.pkg.reqs = s.pkg.reqs ++ [q] ∧ q.op = .arrive none d ∧ q.loc = p := by
  rw [execArrb, State.withSrcs_s ha, State.irrevocable_goes hn]
  simp only [State.irrev_rs, State.irrev_checkObj, hk, orTrap_ok, State.declared_in ((s.irrev_tracking true _).symm ▸ hin),
    State.irrev_accessHeld, hh, Bool.false_eq_true, if_false]
  obtain ⟨b, hb⟩ := State.ownBank_free (s := s.irrev) (p := p) (rest := fun s1 =>
    .ok ((s1.newTag.2.mark s1.newTag.1 (.s d)).send
      { sid := s.cur.sid, tag := s1.newTag.1, op := .arrive none d, loc := p, va := s1.rs a, due := 0 })) hfree
  obtain ⟨q, hq, hop, hloc⟩ := State.send_reqs _ _
  exact ⟨_, q, (congrArg (finish s) hb).trans (finish_ok hc), rfl, hq.trans (by rw [State.mark_reqs]; rfl), hop, hloc⟩

/-- EVSET and EVCLR send their update to the event word (R281). -/
theorem State.event_sends {s : State} {set : Bool} {a : BitVec 5} {ord sc : BitVec 2} (hc : NoCall s) (hn : NotSpec s) (ha : Full s a)
    (hh : s.accessHeld true 0 = false) :
    ∃ t q, finish s (s.event set a ord sc) = .next t ∧ t.iss.verdict = .issued ∧ t.pkg.reqs = s.pkg.reqs ++ [q]
      ∧ q.op = .event set ((s.cur.sv a).setWidth 8) := by
  have hreqs : (if ord = 3 then s.irrev.addFence 3 sc none else s.irrev).pkg.reqs = s.pkg.reqs := by
    split
    · exact (State.addFence_fenced _ _ _ _).reqs
    · rfl
  rw [State.event, State.withSrcs_s ha, State.irrevocable_goes hn]
  simp only [State.irrev_accessHeld, hh, Bool.false_eq_true, if_false, finish_ok hc]
  obtain ⟨q, hq, hop, -⟩ := State.send_reqs _ _
  exact ⟨_, q, rfl, rfl, hq.trans (congrArg (· ++ [q]) hreqs), hop⟩

/-! ## Waits (R278-R282) -/

/-- A resident strand waits from here on. -/
theorem State.wait_waits {s : State} {x : Strand} (on : WaitOn) (d : BitVec 5) (acq full : Bool) (sc : BitVec 2) (va : Word)
    (hx : s.cur.strand = some x) :
    ∃ t y w, s.wait on d acq full sc va = .ok t ∧ t.cur.strand = some y ∧ y.wait = some w ∧ w.on = on ∧ w.d = d := by
  simp only [State.wait, hx]
  have hstr : ∀ f : Strand → Strand,
      ((s.newTag.2.mark s.newTag.1 (.s d)).dueSoon.2.modCur (fun c => c.modStrand f)).cur.strand = some (f x) := by
    intro f
    rw [State.modCur_cur, Ctx.modStrand_strand, State.dueSoon_cur, State.mark_strand, State.newTag_cur, hx]
    rfl
  exact ⟨_, _, _, rfl, hstr _, rfl, rfl, rfl⟩

/-- So its word issues, with the strand waiting. -/
theorem finish_wait {s u : State} {x : Strand} (on : WaitOn) (d : BitVec 5) (acq full : Bool) (sc : BitVec 2) (va : Word) (hc : NoCall s)
    (hx : u.cur.strand = some x) :
    ∃ t y w, finish s (u.wait on d acq full sc va) = .next t ∧ t.iss.verdict = .issued ∧ t.cur.strand = some y ∧ y.wait = some w
      ∧ w.on = on ∧ w.d = d := by
  obtain ⟨t, y, w, ht, hy, hw, hon, hd⟩ := State.wait_waits on d acq full sc va hx
  exact ⟨issued t, y, w, by rw [ht, finish_ok hc], rfl, hy, hw, hon, hd⟩

section Waits

variable {s : State} {x : Strand} {d a b : BitVec 5} {ord sc : BitVec 2} {p : Phys}

/-- WAITB (R278). -/
theorem execWaitb_waits (hc : NoCall s) (hn : NotSpec s) (ha : Full s a) (hb : Full s b) (hx : s.cur.strand = some x)
    (hk : s.checkObj (s.cur.sv a) = .ok p) (hin : s.tracking false (s.cur.sv a) ≠ .undeclared)
    (hh : s.accessHeld false (s.cur.sv a) = false) :
    ∃ t y w, execWaitb d a b s = .next t ∧ t.iss.verdict = .issued ∧ t.cur.strand = some y ∧ y.wait = some w
      ∧ w.on = .barrier p ((s.cur.sv b).setWidth 32) ∧ w.d = d := by
  rw [execWaitb, State.withSrcs_ss ha hb, State.irrevocable_goes hn]
  simp only [State.irrev_rs, State.irrev_checkObj, hk, orTrap_ok, State.declared_in ((s.irrev_tracking false _).symm ▸ hin),
    State.irrev_accessHeld, hh, Bool.false_eq_true, if_false]
  exact finish_wait _ d true false 3 _ hc (State.irrev_strand hx)

/-- WAITA (R280). -/
theorem execWaita_waits (hc : NoCall s) (hn : NotSpec s) (ha : Full s a) (hb : Full s b) (hx : s.cur.strand = some x)
    (hk : s.check .load 8 8 (s.cur.sv a) = .ok p) (hin : s.tracking false (s.cur.sv a) ≠ .undeclared)
    (hh : s.accessHeld false (s.cur.sv a) = false) :
    ∃ t y w, execWaita d a b ord sc s = .next t ∧ t.iss.verdict = .issued ∧ t.cur.strand = some y ∧ y.wait = some w
      ∧ w.on = .word p (s.cur.sv b) ∧ w.d = d := by
  rw [execWaita, State.withSrcs_ss ha hb, State.irrevocable_goes hn]
  simp only [State.irrev_rs, State.irrev_check, hk, orTrap_ok, State.declared_in ((s.irrev_tracking false _).symm ▸ hin),
    State.irrev_accessHeld, hh, Bool.false_eq_true, if_false]
  exact finish_wait _ d true (ord == 3) sc _ hc (State.irrev_strand hx)

/-! ## A read at issue of the own scratchpad (R90, R117) -/

theorem State.exposed_own {s : State} (h : s.exposed p = true) :
    s.ownSpad p = true ∧ s.inWindow (seg p.pa 0 21) = false ∧ p.tt = 2 ∧ seg p.pa 31 17 = s.core.device := by
  simp only [State.exposed, Bool.and_eq_true, Bool.not_eq_true'] at h
  obtain ⟨ho, hw⟩ := h
  have hparts := ho
  simp only [State.ownSpad, Bool.and_eq_true, beq_iff_eq] at hparts
  obtain ⟨⟨ht, hd⟩, -⟩ := hparts
  exact ⟨ho, hw, ht, hd⟩

/-- A read there returns what stands there, and changes nothing. -/
theorem State.coreRead_exposed {s : State} {n : Nat} (h : s.exposed p = true) : s.coreRead p n = (s.readAt p n, s.badAt p n, s) := by
  obtain ⟨ho, hw, ht, hd⟩ := State.exposed_own h
  have hserved : s.served p true false false = some p := by simp [State.served, State.otherDevice, ht, hd]
  have hcopy : s.copyOf p = none := by simp [State.copyOf, ho]
  have hhome : s.homeTouch p false = s := by simp [State.homeTouch, hw]
  have hask : s.askPanels p n = s := by simp [State.askPanels, ho]
  have hfill : s.fillLines p n = s := by simp [State.fillLines, Phys.pooled, ht]
  simp only [State.coreRead, hserved, State.readServed, State.replicaBytes, hcopy, Option.bind_none, hhome, hask, hfill]

/-- It completes at once where no access of the strand is on its way there and its bank is free, which it takes. -/
theorem State.readPieces_exposed {s : State} {n : Nat} (h : s.exposed p = true) (hp : s.accessPending p n = false)
    (hb : s.bankBusy p = false) : ∃ k, s.readPieces [(p, n)] = some (s.readAt p n, s.badAt p n, s.occupying k) := by
  obtain ⟨ho, -⟩ := State.exposed_own h
  generalize hk : (seg p.pa 8 5, if n ≤ 8 then 2 else 16) :: s.core.banks = k
  have htake : s.takeBank p (if n ≤ 8 then 2 else 16) = some (s.occupying k) := by
    simp only [State.takeBank, hb, ho, Bool.false_eq_true, if_false, if_true, hk, State.occupying]
  have hread : (s.occupying k).coreRead p n = (s.readAt p n, s.badAt p n, s.occupying k) := State.coreRead_exposed h
  refine ⟨k, ?_⟩
  simp only [State.readPieces, hp, htake, hread, Bool.false_eq_true, if_false, Option.map_some, List.append_nil, Bool.or_false]

theorem State.noteTlb_cur (s : State) (satp va : Word) : (s.noteTlb satp va).cur = s.cur := by
  obtain ⟨l, h⟩ := s.noteTlb_rest satp va
  rw [h]

/-- Where no ordering holds it, the word goes on with what it has read, in a state with the same current context. -/
theorem State.readNow_exposed {s : State} {align n : Nat} {ea : Word} {rest : List Byte → Bool → State → Res}
    (hk : s.check .load align n ea = .ok p) (hin : s.tracking false ea ≠ .undeclared) (hh : s.accessHeld false ea = false)
    (he : s.exposed p = true) (hp : s.accessPending p n = false) (hb : s.bankBusy p = false) :
    ∃ u, u.cur = s.cur ∧ s.readNow align n ea rest = rest (s.readAt p n) (s.badAt p n) u := by
  obtain ⟨k, hread⟩ := State.readPieces_exposed he hp hb
  rw [State.readNow, hk, orTrap_ok, State.declared_in hin]
  simp only [State.readPlace, hh, hread, Bool.false_eq_true, if_false]
  exact ⟨(s.occupying k).noteTlb s.cur.sc.satp ea, State.noteTlb_cur _ _ _, rfl⟩

/-- EVWAIT (R282). -/
theorem execEvwait_waits (hc : NoCall s) (hn : NotSpec s) (ha : Full s a) (hx : s.cur.strand = some x)
    (hk : s.check .load 32 32 (s.cur.sv a) = .ok p) (hin : s.tracking false (s.cur.sv a) ≠ .undeclared)
    (hh : s.accessHeld false (s.cur.sv a) = false) (he : s.exposed p = true) (hp : s.accessPending p 32 = false)
    (hb : s.bankBusy p = false) (hgood : s.badAt p 32 = false) :
    ∃ t y w, execEvwait d a ord sc s = .next t ∧ t.iss.verdict = .issued ∧ t.cur.strand = some y ∧ y.wait = some w
      ∧ w.on = .events (BitVec.ofNat 256 (ofBytes (s.readAt p 32))) ∧ w.d = d := by
  rw [execEvwait, State.withSrcs_s ha, State.irrevocable_goes hn, State.irrev_rs]
  obtain ⟨u, hu, hread⟩ := State.readNow_exposed (s := s.irrev) (ea := s.cur.sv a) (align := 32)
    (rest := fun b bad s2 => if bad then .ok (s2.longPoison d) else s2.wait (.events (BitVec.ofNat 256 (ofBytes b))) d true (ord == 3) sc)
    hk ((s.irrev_tracking false _).symm ▸ hin) ((s.irrev_accessHeld _ _).trans hh) he ((s.irrev_accessPending _ _).trans hp) hb
  have hbad : s.irrev.badAt p 32 = false := hgood
  rw [hread, hbad]
  have hux : u.cur.strand = some x.irrevocable := by
    rw [hu]
    exact State.irrev_strand hx
  exact finish_wait _ d true (ord == 3) sc 0 hc hux

end Waits

/-! ## SUSP (R115, R182) -/

/-- A good access that is not tracked goes on, its strand irrevocable where the target is far. -/
theorem State.reach_goes {s : State} {k : Acc} {align n : Nat} {ea : Word} {p : Phys} {rest : Phys → Bool → State → Res}
    (h : Reaches s k align n ea p) :
    s.reach k align n ea rest = rest p false ((if p.far then s.irrev else s).noteTlb s.cur.sc.satp ea) := by
  obtain ⟨hc, ht, hh, hf⟩ := h
  have hplain : (Tracking.plain == Tracking.tracked) = false := by decide
  unfold State.reach
  rw [hc, orTrap_ok]
  simp only [ht, reduceCtorEq, if_false, hplain]
  cases hp : p.far with
  | false => simp only [hh, Bool.false_eq_true, if_false]
  | true =>
    simp only [State.irrevocable_goes (hf hp), State.irrev_accessHeld, hh, Bool.false_eq_true, if_false, if_true]
    rfl

/-- A bank that is free stays so in a state near this one. -/
theorem State.Near.bankFree {s t : State} {p : Phys} (h : State.Near s t) (hb : BankFree s p) : BankFree t p := by
  obtain ⟨x, l, rfl, -⟩ := h
  exact hb

/-- SUSP reads its word, or is about to, and watches it; its strand keeps its id. -/
theorem State.suspRead_watches {s : State} {a : BitVec 5} {sb : BitVec 3} {p : Phys} {k : Wait → State → Res} (ha : Full s a)
    (hr : Reaches s .load 8 8 (s.cur.sv a) p) (hfree : s.exposed p = true → BankFree s p) (hs : s.iss.susp = none) :
    ∃ w u, s.suspRead a sb k = k w u ∧ u.curId = s.curId := by
  generalize hu : (if p.far then s.irrev else s).noteTlb s.cur.sc.satp (s.cur.sv a) = u
  have hnear : State.Near s u := by
    rw [← hu]
    split
    · exact s.irrev_near.noteTlb _ _
    · exact (State.Near.refl s).noteTlb _ _
  have hid : u.curId = s.curId := by
    rw [← hu, State.curId, State.noteTlb_cur]
    split
    · exact s.irrev_curId
    · rfl
  have hrs : s.rs a = s.cur.sv a := rfl
  simp only [State.suspRead, hs, State.withSrcs_s ha, hrs]
  rw [State.reach_goes hr, hu]
  simp only [Bool.false_or, Bool.not_false, Bool.and_true]
  cases hnow : u.exposed p && !u.acquiring with
  | false => exact ⟨_, _, rfl, hid⟩
  | true =>
    have hexp : u.exposed p = true := (Bool.and_eq_true_iff.mp hnow).1
    obtain ⟨hown, -⟩ := State.exposed_own hexp
    simp only [if_true]
    rw [State.bank_free (hnear.bankFree (hfree ((hnear.exposed p).symm.trans hexp))) hown]
    exact ⟨_, _, rfl, hid⟩

/-- Its strand parks after the bundle, with why = 4 and the watch. -/
theorem State.suspPark_parks {s : State} {id : BitVec 40} (w : Wait) (h : s.curId = some id) :
    ∃ y, (s.suspPark w).cur.strand = some y ∧ y.id = id ∧ y.state = .parked ∧ y.why = 4 ∧ y.wait.isSome = true := by
  obtain ⟨x, hx, rfl⟩ := Option.map_eq_some_iff.mp (s.bundleDone_curId.trans h)
  obtain ⟨v, hv, -⟩ := State.suspend_eq .parked 4 hx
  unfold State.suspPark
  rw [hv]
  exact ⟨_, rfl, rfl, rfl, rfl, rfl⟩

/-- SUSP with no further repetition of a REP to come and no word of its bundle after it. -/
theorem execSusp_parks {s : State} {x : Strand} {a : BitVec 5} {sb : BitVec 3} {p : Phys} (ha : Full s a) (hx : s.cur.strand = some x)
    (hr : Reaches s .load 8 8 (s.cur.sv a) p) (hfree : s.exposed p = true → BankFree s p) (hs : s.iss.susp = none)
    (hm : s.iss.repMore = false) (ho : s.iss.putOff = false) :
    ∃ t y, execSusp a sb s = .next t ∧ t.iss.verdict = .ended ∧ t.cur.strand = some y ∧ y.id = x.id ∧ y.state = .parked
      ∧ y.why = 4 ∧ y.wait.isSome = true := by
  obtain ⟨w, u, hread, hid⟩ := State.suspRead_watches (sb := sb)
    (k := fun w s1 => .ok { s1 with iss := { s1.iss with susp := some w } }) ha hr hfree hs
  have hu : u.curId = some x.id := by
    rw [hid, State.curId, hx]
    rfl
  obtain ⟨y, hy⟩ := State.suspPark_parks (s := { u with iss := { u.iss with susp := some w } }) w hu
  simp only [execSusp, hread, hm, ho, Bool.false_eq_true, if_false]
  exact ⟨_, y, rfl, rfl, hy⟩

/-! ## REP (R188, R191) -/

/-- REP with an immediate count at a fresh bundle brings up repetition 0 (R188, R190). -/
theorem execRep_immediate {s : State} {cnt : BitVec 6} {stp : BitVec 4} {stride : BitVec 2} {ke : BitVec 1} {k : BitVec 3}
    (hc : NoCall s) (hf : s.repResumes = false) (hv : s.curVer ≠ 1) :
    execRep cnt 0 stp stride ke k s = .next (issued (s.repSet 0 (cnt.toNat + 1) ke k)) := by
  have hlt := cnt.isLt
  have hn : (cnt.setWidth 64 + 1 : Word).toNat = cnt.toNat + 1 := by
    rw [BitVec.toNat_add, BitVec.toNat_setWidth_of_le (by decide)]
    exact Nat.mod_eq_of_lt (by simp; omega)
  have hhigh : ¬ 64 < cnt.toNat + 1 := by omega
  have hreg : ¬ (0 : BitVec 1) = 1 := by decide
  simp only [execRep, hreg, if_false, State.withSrcs_nil, hn, hv, hf, Bool.false_eq_true, hhigh, Nat.le_zero, Nat.add_eq_zero_iff,
    Nat.one_ne_zero, and_false, or_self, finish_ok hc]

/-- A further repetition comes up as REPC names it (R191). -/
theorem execRepRepetition_goes {s : State} {cnt : BitVec 6} {creg : BitVec 1} {stp : BitVec 4} {stride : BitVec 2} {ke : BitVec 1}
    {k : BitVec 3} {n : Nat} (hd : decode s.ev.word 0 = some (.rep cnt creg stp stride ke k)) (hn : s.cur.repN = some n) :
    execRepRepetition s = .next (issued (s.repSet (s.cur.u.repc.extractLsb' 0 6).toNat n ke k)) := by
  simp only [execRepRepetition, hd, hn, happen_ok, seg]

/-- Settles O24: each word reads its sources and its place, and nothing then holds it. -/
theorem waitingWordsComplete : Obligations.WaitingWordsComplete := by
  intro d a b ord sc sb s x p hc hn ha hb hx inside free
  refine ⟨fun hk hin hfree hh => ?_, fun hk hin hh => ?_, fun hk hin hh => ?_, fun hk hin hh he hp hbk hg => ?_, fun hh => ⟨?_, ?_⟩,
    fun hr hfree hs hm ho => ?_, fun cnt stp stride ke k hf hv => ?_, fun cnt creg stp stride ke k n hd hrep => ?_⟩
  · rw [exec_arrb]
    exact execArrb_asks hc hn ha hk hin hfree hh
  · rw [exec_waitb]
    exact execWaitb_waits hc hn ha hb hx hk hin hh
  · rw [exec_waita]
    exact execWaita_waits hc hn ha hb hx hk hin hh
  · rw [exec_evwait]
    exact execEvwait_waits hc hn ha hx hk hin hh he hp hbk hg
  · rw [exec_evset]
    exact State.event_sends hc hn ha hh
  · rw [exec_evclr]
    exact State.event_sends hc hn ha hh
  · rw [exec_susp]
    exact execSusp_parks ha hx hr hfree hs hm ho
  · exact ⟨_, (exec_rep _ _ _ _ _ _ _).trans (execRep_immediate hc hf hv), rfl, rfl, rfl, rfl⟩
  · exact ⟨_, (exec_repRepetition s).trans (execRepRepetition_goes hd hrep), rfl, rfl, rfl, rfl⟩

end Sys2Proof.Machine
end

section
/-! PROOFS. A step and the instruction at PC (07 R160; 20 R351): the statement O60 leaves out that the core is in service. -/

namespace Sys2Proof.Machine

open Safe

/-! ## A core out of service -/

/-- S code at a NOP, in a context without a strand, on a core that HALTC has taken out of its partition (R351). -/
def haltedAtNop : State :=
  ((State.reset.placed 0x1C000000).modCur (fun c => { c with level := .s, strand := none })).haltCore

/-- The NOP that stands at its PC. -/
def nopWord : BWord := { pos := 0, w := 0x1C000000, i := .nop }

/-- Where the fetch of the current context stands after a step. -/
def pcAfter : Out1 → Option Word
  | .next t => some t.cur.pc
  | _ => none

theorem haltedAtNop_strand : haltedAtNop.cur.strand = none := rfl

theorem haltedAtNop_noCall (x : BWord) (b : Bool) : NoCall (haltedAtNop.fresh.atWord x b) := by
  have hcalls : (haltedAtNop.fresh.atWord x b).core.calls = [] := rfl
  simp [NoCall, hcalls]

/-- Nothing of the machine's own comes, and nothing holds the bundle. -/
theorem haltedAtNop_quiet : haltedAtNop.pkg.powered = true ∧ haltedAtNop.agenda = [] ∧ haltedAtNop.dueEvents = []
    ∧ haltedAtNop.core.switching = 0 ∧ haltedAtNop.cur.level = .s ∧ haltedAtNop.cur.waiting = false ∧ haltedAtNop.cur.annul = 0
    ∧ haltedAtNop.atBreak = false ∧ haltedAtNop.cur.fpHold = none ∧ haltedAtNop.cur.start = false ∧ haltedAtNop.cur.tlbHold = false
    ∧ haltedAtNop.foreignHere = false := by
  decide +kernel

/-- Its packet is held, and the NOP is a bundle of its own. -/
theorem haltedAtNop_fetched : haltedAtNop.fresh.heldPacket (packetOf haltedAtNop.cur.pc) = some #v[0x1C000000, 0x1C000000, 0x1C000000]
    ∧ bundleIn #v[0x1C000000, 0x1C000000, 0x1C000000] haltedAtNop.cur.pc = some ⟨0, [(nopWord.pos, nopWord.w, 0)], none⟩
    ∧ decodeIn haltedAtNop.curVer nopWord.w 0 = some nopWord.i
    ∧ haltedAtNop.fresh.packetsFor [nopWord] = [] := by
  decide +kernel

/-- The step leaves the PC; an issued bundle would move it. -/
theorem haltedAtNop_pcs : pcAfter (step haltedAtNop) = some 0x60000
    ∧ pcAfter (.next (issued (haltedAtNop.fresh.atWord nopWord true)).bundleDone.aside) = some 0x60004 := by
  decide +kernel

theorem haltedAtNop_issued : (issued (haltedAtNop.fresh.atWord nopWord true)).iss.verdict = .issued
    ∧ (issued (haltedAtNop.fresh.atWord nopWord true)).cur.withinLimits = true := by
  decide +kernel

/-- Refutes O60: a core that HALTC has taken out of service (R351) issues nothing, so the NOP at its PC does not move the fetch state
on; the statement asks nothing of `halted` and `inPart` (`State.cycle` asks both). -/
theorem not_stepRunsTheInstruction : ¬ Obligations.StepRunsTheInstruction := by
  intro ⟨h, _⟩
  obtain ⟨hpow, hag, hdue, hsw, hlev, hwait, hann, hbrk, hfp, hst, htlb, hfor⟩ := haltedAtNop_quiet
  obtain ⟨hheld, hbundle, hdec, hpk⟩ := haltedAtNop_fetched
  obtain ⟨hver, hlim⟩ := haltedAtNop_issued
  obtain ⟨hstays, hmoves⟩ := haltedAtNop_pcs
  have hexec : exec nopWord.i (haltedAtNop.fresh.atWord nopWord true) = .next (issued (haltedAtNop.fresh.atWord nopWord true)) :=
    (exec_nop _).trans (finish_ok (haltedAtNop_noCall _ _))
  have hpackets : ∀ a ∈ haltedAtNop.fresh.packetsFor [nopWord], (haltedAtNop.fresh.heldPacket a).isSome = true := by simp [hpk]
  have hstep : step haltedAtNop = .next (issued (haltedAtNop.fresh.atWord nopWord true)).bundleDone.aside :=
    (h haltedAtNop _ _ nopWord.pos nopWord.w 0 nopWord.i _ hpow hag hdue hsw (.inl hlev) hwait (by simp [haltedAtNop_strand]) hann hbrk
      hfp hst htlb hfor hheld hbundle rfl rfl hdec rfl rfl hpackets hexec).1 hver hlim
  have hpcs := congrArg pcAfter hstep
  rw [hstays, hmoves] at hpcs
  exact absurd hpcs (by decide)

end Sys2Proof.Machine

end

section
/-! PROOFS. Row words and mask words of the V pipe (08 R194-R200, R211; 02 R44, R47; 03 R63, R83), and O34. -/

namespace Sys2Proof.Machine

open Safe

/-! ## The arms of these words -/

theorem exec_vceq (typ : BitVec 3) (td ta tb : BitVec 4) (row : BitVec 6) (s : State) :
    exec (.vceq typ td ta tb row) s = execVceq typ td ta tb row s := rfl
theorem exec_vcne (typ : BitVec 3) (td ta tb : BitVec 4) (row : BitVec 6) (s : State) :
    exec (.vcne typ td ta tb row) s = execVcne typ td ta tb row s := rfl
theorem exec_vclt (typ : BitVec 3) (td ta tb : BitVec 4) (row : BitVec 6) (s : State) :
    exec (.vclt typ td ta tb row) s = execVclt typ td ta tb row s := rfl
theorem exec_vcle (typ : BitVec 3) (td ta tb : BitVec 4) (row : BitVec 6) (s : State) :
    exec (.vcle typ td ta tb row) s = execVcle typ td ta tb row s := rfl
theorem exec_vadds (typ : BitVec 3) (td ta tb : BitVec 4) (row : BitVec 6) (s : State) :
    exec (.vadds typ td ta tb row) s = execVadds typ td ta tb row s := rfl
theorem exec_vsubs (typ : BitVec 3) (td ta tb : BitVec 4) (row : BitVec 6) (s : State) :
    exec (.vsubs typ td ta tb row) s = execVsubs typ td ta tb row s := rfl
theorem exec_vsel (typ : BitVec 3) (td ta tb : BitVec 4) (row : BitVec 6) (s : State) :
    exec (.vsel typ td ta tb row) s = execVsel typ td ta tb row s := rfl
theorem exec_kpopc (typ : BitVec 3) (r : BitVec 5) (k : BitVec 3) (s : State) : exec (.kpopc typ r k) s = execKpopc typ r k s := rfl
theorem exec_kfirst (typ : BitVec 3) (r : BitVec 5) (k : BitVec 3) (s : State) : exec (.kfirst typ r k) s = execKfirst typ r k s := rfl
theorem exec_kmovs (q : BitVec 2) (r : BitVec 5) (k : BitVec 3) (s : State) : exec (.kmovs q r k) s = execKmovs q r k s := rfl
theorem exec_kmovd (q : BitVec 2) (r : BitVec 5) (k : BitVec 3) (s : State) : exec (.kmovd q r k) s = execKmovd q r k s := rfl
theorem exec_kand (kt ks k : BitVec 3) (s : State) : exec (.kand kt ks k) s = execKand kt ks k s := rfl
theorem exec_kor (kt ks k : BitVec 3) (s : State) : exec (.kor kt ks k) s = execKor kt ks k s := rfl
theorem exec_kxor (kt ks k : BitVec 3) (s : State) : exec (.kxor kt ks k) s = execKxor kt ks k s := rfl
theorem exec_knot (kt k : BitVec 3) (s : State) : exec (.knot kt k) s = execKnot kt k s := rfl

/-! ## Lanes packed and read again (R194) -/

/-- Bit j of lane n of packed lanes is bit j of the n-th of them. -/
theorem testBit_packLanes {w j : Nat} (hj : j < w) (l : List (BitVec w)) (n : Nat) :
    (packLanes w l).testBit (n * w + j) = (l.getD n 0).getLsbD j := by
  induction l generalizing n with
  | nil => simp [packLanes]
  | cons x t ih =>
    rw [packLanes, Nat.add_comm, Nat.testBit_two_pow_mul_add _ x.isLt]
    cases n with
    | zero => simp [hj, BitVec.getLsbD]
    | succ n =>
      have hout : ¬ (n + 1) * w + j < w := by
        rw [Nat.succ_mul]
        omega
      have hsub : (n + 1) * w + j - w = n * w + j := by
        rw [Nat.succ_mul]
        omega
      rw [if_neg hout, hsub, ih n, List.getD_cons_succ]

/-- The bits of a lane lie inside the row. -/
theorem lane_bit_lt {w n j : Nat} (hn : n < 2048 / w) (hj : j < w) : n * w + j < 2048 := by
  have h : (n + 1) * w ≤ 2048 := Nat.le_trans (Nat.mul_le_mul_right w hn) (Nat.div_mul_le_self 2048 w)
  rw [Nat.succ_mul] at h
  omega

/-- Bit j of lane n of a row packed from lanes. -/
theorem getLsbD_packed {w n j : Nat} (hn : n < 2048 / w) (hj : j < w) (l : List (BitVec w)) :
    (BitVec.ofNat 2048 (packLanes w l)).getLsbD (n * w + j) = (l.getD n 0).getLsbD j := by
  rw [BitVec.getLsbD_ofNat, testBit_packLanes hj]
  simp [lane_bit_lt hn hj]

/-- Lane n of a row packed from lanes is the n-th of them. -/
theorem lane_packed {w n : Nat} (hn : n < 2048 / w) (l : List (BitVec w)) :
    lane w (BitVec.ofNat 2048 (packLanes w l)) n = l.getD n 0 := by
  apply BitVec.eq_of_getLsbD_eq
  intro j hj
  rw [lane, BitVec.getLsbD_extractLsb', getLsbD_packed hn hj]
  simp [hj]

theorem range_map_getD {α : Type} {m n : Nat} (hn : n < m) (f : Nat → α) (d : α) : ((List.range m).map f).getD n d = f n := by
  simp [List.getD, hn]

theorem lane_ofLanes {w n : Nat} (hn : n < 2048 / w) (f : Nat → BitVec w) : lane w (ofLanes w f) n = f n := by
  rw [ofLanes, lane_packed hn, range_map_getD hn]

/-- The lanes that the mask allows hold their results. -/
theorem lane_laneRow {w n : Nat} {m : Mask} (hn : n < 2048 / w) (hm : m.getLsbD n = true) (f : Nat → Nat × Flags) :
    lane w (laneRow w m f).1 n = BitVec.ofNat w (f n).1 := by
  simp only [laneRow, lane_packed hn, List.map_map, range_map_getD hn, Function.comp_apply, hm, if_true]

/-- A bit of flags ORed along a list is a bit of one of them, or of the flags before. -/
theorem getLsbD_foldl_flags (l : List (Nat × Flags)) (a : Flags) (b : Nat) :
    (l.foldl (fun a x => a ||| x.2) a).getLsbD b = true ↔ a.getLsbD b = true ∨ ∃ x ∈ l, x.2.getLsbD b = true := by
  induction l generalizing a with
  | nil => simp
  | cons x t ih => simp [ih, or_assoc]

theorem noFlags_bit (b : Nat) : ¬ (0 : Flags).getLsbD b = true := by
  have h : (0 : Flags).getLsbD b = false := BitVec.getLsbD_zero
  rw [h]
  exact Bool.false_ne_true

/-- The flags of a row are those of the lanes that the mask allows. -/
theorem flags_laneRow (w : Nat) (m : Mask) (f : Nat → Nat × Flags) (b : Nat) :
    (laneRow w m f).2.getLsbD b = true ↔ ∃ n, n < 2048 / w ∧ m.getLsbD n = true ∧ (f n).2.getLsbD b = true := by
  rw [laneRow, getLsbD_foldl_flags]
  constructor
  · rintro (h0 | ⟨x, hx, hb⟩)
    · exact absurd h0 (noFlags_bit b)
    · obtain ⟨n, hn, rfl⟩ := List.mem_map.mp hx
      cases hm : m.getLsbD n with
      | true => exact ⟨n, List.mem_range.mp hn, hm, by rwa [if_pos hm] at hb⟩
      | false =>
        rw [hm, if_neg Bool.false_ne_true] at hb
        exact absurd hb (noFlags_bit b)
  · rintro ⟨n, hn, hm, hb⟩
    exact .inr ⟨_, List.mem_map.mpr ⟨n, List.mem_range.mpr hn, rfl⟩, by rwa [if_pos hm]⟩

/-- Lanes without flags give a row without flags. -/
theorem flags_laneRow_zero {w : Nat} {m : Mask} {f : Nat → Nat × Flags} (h : ∀ n, (f n).2 = 0) : (laneRow w m f).2 = 0 := by
  apply BitVec.eq_of_getLsbD_eq
  intro b _
  rw [Bool.eq_iff_iff, flags_laneRow]
  refine ⟨?_, fun hb => absurd hb (noFlags_bit b)⟩
  rintro ⟨n, -, -, hb⟩
  rwa [h n] at hb

/-! ## A row word that may issue (R40, R44, R47, R83) -/

/-- The rows that a row word is handed: its sources, and behind them its destination where it is read (R47). -/
def State.rowOperands (s : State) (td : BitVec 4) (row : BitVec 6) (srcs : List (BitVec 4 × BitVec 6)) (rd : Bool) : List Row :=
  (if rd then srcs ++ [(td, row)] else srcs).map (fun x => (s.cur.rowReg x.1 x.2).v)

theorem State.rowOperands_first (s : State) (td : BitVec 4) (row : BitVec 6) (x : BitVec 4 × BitVec 6)
    (l : List (BitVec 4 × BitVec 6)) (rd : Bool) : (s.rowOperands td row (x :: l) rd).getD 0 0 = (s.cur.rowReg x.1 x.2).v := by
  cases rd <;> rfl

theorem State.rowOperands_second (s : State) (td : BitVec 4) (row : BitVec 6) (x y : BitVec 4 × BitVec 6)
    (l : List (BitVec 4 × BitVec 6)) (rd : Bool) : (s.rowOperands td row (x :: y :: l) rd).getD 1 0 = (s.cur.rowReg y.1 y.2).v := by
  cases rd <;> rfl

/-- With the pipe free and its rows FULL a row word queues what it computes from them, and the flags it raises. -/
theorem State.rowWord_ok {s : State} {l occ w : Nat} {td : BitVec 4} {row : BitVec 6} {srcs : List (BitVec 4 × BitVec 6)}
    {readsDst masked able : Bool} {f : List Row → Mask → Row × Flags} {m : Mask} {v : Row} {fl : Flags}
    (hv : VFree s) (hp : NoPush s td) (hs : ∀ x ∈ srcs, RowFull s x.1 x.2)
    (hd : (readsDst || (masked && s.iss.ke)) = true → RowFull s td row) (hm : (if masked then s.laneMask else BitVec.allOnes 256) = m)
    (hf : f (s.rowOperands td row srcs (readsDst || (masked && s.iss.ke))) m = (v, fl))
    (htrap : able = true → NoFpTrap s) (hfl : able = false → fl = 0) :
    s.rowWord l occ w td row srcs readsDst masked able f = .ok (Claim.rowOut s l occ td row v fl (laneSel (w / 8) m)) := by
  apply State.vpipe_free hv
  have hrows : ∀ x ∈ (if (readsDst || (masked && s.iss.ke)) = true then srcs ++ [(td, row)] else srcs), RowFull (vTaken s occ) x.1 x.2 := by
    intro x hx
    split at hx
    · rcases List.mem_append.mp hx with hx | hx
      · exact hs x hx
      · rw [List.mem_singleton.mp hx]
        exact hd ‹_›
    · exact hs x hx
  have hpush : NoPush (vTaken s occ) td := hp
  have hcomputed : f ((if (readsDst || (masked && s.iss.ke)) = true then srcs ++ [(td, row)] else srcs).map
      (fun x => ((vTaken s occ).cur.rowReg x.1 x.2).v)) m = (v, fl) := hf
  dsimp only
  rw [State.withRows_full (by simp) hrows, State.pushCheck_free hpush, hm, hcomputed]
  cases able with
  | true =>
    have hfree : NoFpTrap (vTaken s occ) := htrap rfl
    simp only [if_true, State.withFlags_free hfree, Claim.rowOut]
  | false => simp [Claim.rowOut, hfl]

/-- A row word computed lane by lane issues with its lanes and their flags; one that can raise no flag has lanes without flags. -/
theorem rowLanes_of_rowWord {s : State} {i : Instr} {l occ w : Nat} {td : BitVec 4} {row : BitVec 6} {srcs : List (BitVec 4 × BitVec 6)}
    {rd able : Bool} {g : List Row → Nat → Nat × Flags}
    (hi : exec i s = finish s (s.rowWord l occ w td row srcs rd true able (fun vs m => laneRow w m (g vs))))
    (hr : Claim.rowReady s td row srcs rd) (hfl : able = false → ∀ vs n, (g vs n).2 = 0) :
    Claim.rowLanes s i l occ w td row (g (s.rowOperands td row srcs (rd || s.iss.ke))) := by
  obtain ⟨hc, hv, htrap, hp, hs, hd⟩ := hr
  refine ⟨_, _, ?_, fun n hn hm => lane_laneRow hn hm _, flags_laneRow w s.laneMask _⟩
  rw [hi, State.rowWord_ok hv hp hs (by simpa using hd) rfl rfl (fun _ => htrap) (fun h => flags_laneRow_zero (hfl h _)), finish_ok hc]
  rfl

/-! ## Compares (R198) -/

/-- Lane n of a compare of two rows, and its flags. -/
def cmpLane (typ : BitVec 3) (rm : Word) (quiet onNan : Bool) (p : Ordering → Bool) (ra rb : Row) (n : Nat) : Nat × Flags :=
  let r := if typFloat typ then (fenv typ rm).cmp quiet p onNan (laneN (typW typ) ra n) (laneN (typW typ) rb n)
    else (p (compare (lane (typW typ) ra n).toInt (lane (typW typ) rb n).toInt), 0)
  (if r.1 then 2 ^ typW typ - 1 else 0, r.2)

/-- A compare is a row word of its lanes. -/
theorem State.rowCmp_eq (s : State) (typ : BitVec 3) (td ta tb : BitVec 4) (row : BitVec 6) (quiet onNan : Bool) (p : Ordering → Bool) :
    s.rowCmp typ td ta tb row quiet onNan p = s.rowWord 2 1 (typW typ) td row [(ta, row), (tb, row)] false true (typFloat typ)
      (fun vs m => laneRow (typW typ) m (cmpLane typ s.cur.u.rm quiet onNan p (vs.getD 0 0) (vs.getD 1 0))) := rfl

/-- Integer lanes compare without flags. -/
theorem cmpLane_noFlags {typ : BitVec 3} (h : typFloat typ = false) (rm : Word) (quiet onNan : Bool) (p : Ordering → Bool) (ra rb : Row)
    (n : Nat) : (cmpLane typ rm quiet onNan p ra rb n).2 = 0 := by
  simp [cmpLane, h]

/-- A lane of a compare whose test of an order of integers is the relation `q`, by its type. -/
theorem cmpLane_eq {p : Ordering → Bool} {q : Int → Int → Bool} (hq : ∀ a b : Int, p (compare a b) = q a b) (typ : BitVec 3) (rm : Word)
    (quiet onNan : Bool) (ra rb : Row) (n : Nat) :
    cmpLane typ rm quiet onNan p ra rb n = if typ.toNat < 4 then
        let r := (fenv typ rm).cmp quiet p onNan (lane (typW typ) ra n).toNat (lane (typW typ) rb n).toNat
        (if r.1 then 2 ^ typW typ - 1 else 0, r.2)
      else (if q (lane (typW typ) ra n).toInt (lane (typW typ) rb n).toInt then 2 ^ typW typ - 1 else 0, 0) := by
  by_cases hf : typ.toNat < 4
  · simp only [cmpLane, typFloat, hf, decide_true, if_true, laneN]
  · simp only [cmpLane, typFloat, hf, decide_false, Bool.false_eq_true, if_false, hq]

/-- A compare gives all ones or zeros by the format's compare, or by the relation of its test. -/
theorem rowLanes_rowCmp {s : State} {i : Instr} {typ : BitVec 3} {td ta tb : BitVec 4} {row : BitVec 6} {quiet onNan : Bool}
    {p : Ordering → Bool} {q : Int → Int → Bool} (hi : exec i s = finish s (s.rowCmp typ td ta tb row quiet onNan p))
    (hr : Claim.rowReady s td row [(ta, row), (tb, row)] false) (hq : ∀ a b : Int, p (compare a b) = q a b) :
    Claim.rowLanes s i 2 1 (typW typ) td row (fun n =>
      if typ.toNat < 4 then
        let r := (fenv typ s.cur.u.rm).cmp quiet p onNan (lane (typW typ) (s.cur.rowReg ta row).v n).toNat
          (lane (typW typ) (s.cur.rowReg tb row).v n).toNat
        (if r.1 then 2 ^ typW typ - 1 else 0, r.2)
      else (if q (lane (typW typ) (s.cur.rowReg ta row).v n).toInt (lane (typW typ) (s.cur.rowReg tb row).v n).toInt
        then 2 ^ typW typ - 1 else 0, 0)) := by
  have h := rowLanes_of_rowWord (hi.trans (congrArg (finish s) (s.rowCmp_eq typ td ta tb row quiet onNan p))) hr
    (fun hint _ _ => cmpLane_noFlags hint _ _ _ _ _ _ _)
  rw [State.rowOperands_first, State.rowOperands_second] at h
  exact funext (cmpLane_eq hq typ s.cur.u.rm quiet onNan _ _) ▸ h

/-- An order of integers as the model's tests see it. -/
theorem compare_int (a b : Int) : compare a b = if a < b then .lt else if a = b then .eq else .gt := rfl

/-- A test of an order is a relation of integers that agrees with it below, at and above. -/
theorem test_compare {p : Ordering → Bool} {q : Int → Int → Bool} (hlt : ∀ a b, a < b → q a b = p .lt) (heq : ∀ a, q a a = p .eq)
    (hgt : ∀ a b, b < a → q a b = p .gt) (a b : Int) : p (compare a b) = q a b := by
  rw [compare_int]
  split
  next h => exact (hlt a b h).symm
  next h =>
    split
    next he =>
      subst he
      exact (heq a).symm
    next he => exact (hgt a b (by omega)).symm

theorem compare_beq_eq (a b : Int) : (compare a b == .eq) = decide (a = b) :=
  test_compare (p := fun o => o == .eq) (q := fun a b => decide (a = b)) (fun _ _ _ => decide_eq_false (by omega))
    (fun _ => decide_eq_true rfl) (fun _ _ _ => decide_eq_false (by omega)) a b

theorem compare_bne_eq (a b : Int) : (compare a b != .eq) = decide (a ≠ b) :=
  test_compare (p := fun o => o != .eq) (q := fun a b => decide (a ≠ b)) (fun _ _ _ => decide_eq_true (by omega))
    (fun _ => decide_eq_false (by omega)) (fun _ _ _ => decide_eq_true (by omega)) a b

theorem compare_beq_lt (a b : Int) : (compare a b == .lt) = decide (a < b) :=
  test_compare (p := fun o => o == .lt) (q := fun a b => decide (a < b)) (fun _ _ h => decide_eq_true h)
    (fun _ => decide_eq_false (by omega)) (fun _ _ _ => decide_eq_false (by omega)) a b

theorem compare_bne_gt (a b : Int) : (compare a b != .gt) = decide (a ≤ b) :=
  test_compare (p := fun o => o != .gt) (q := fun a b => decide (a ≤ b)) (fun _ _ _ => decide_eq_true (by omega))
    (fun _ => decide_eq_true (by omega)) (fun _ _ _ => decide_eq_false (by omega)) a b

/-! ## Saturating words (R63, R197) -/

theorem typW_pos (typ : BitVec 3) : 0 < typW typ := by
  unfold typW
  split <;> decide

theorem two_pow_int (n : Nat) : (2 : Int) ^ n = ((2 ^ n : Nat) : Int) := (Int.natCast_pow 2 n).symm

/-- An exact result below the signed range, above it, and in it, as w bits. -/
theorem narrow_signed {w : Nat} (hw : 0 < w) (v : Int) :
    ({ w := w, signed := true } : IFm).narrow true v
      = if v < -(2 ^ (w - 1)) then (2 ^ (w - 1), fSAT)
        else if 2 ^ (w - 1) ≤ v then (2 ^ (w - 1) - 1, fSAT)
        else ((BitVec.ofInt w v).toNat, 0) := by
  have hpow : 2 ^ w = 2 * 2 ^ (w - 1) := by rw [← Nat.pow_succ', Nat.succ_eq_add_one, Nat.sub_add_cancel hw]
  have hpos : 0 < 2 ^ (w - 1) := Nat.two_pow_pos _
  simp only [IFm.narrow, IFm.encode, IFm.clamp, IFm.lo, IFm.hi, if_true, Bool.true_and, Bool.or_eq_true, decide_eq_true_eq, two_pow_int,
    BitVec.toNat_ofInt, hpow]
  generalize 2 ^ (w - 1) = h at hpos
  by_cases hbelow : v < -(h : Int)
  · have hclamp : max (-(h : Int)) (min ((h : Int) - 1) v) = -h := by omega
    have henc : (-(h : Int) % ((2 * h : Nat) : Int)).toNat = h := by
      rw [← Int.add_emod_right, Int.emod_eq_of_lt (by omega) (by omega)]
      omega
    rw [if_pos (Or.inl hbelow), if_pos hbelow, hclamp, henc]
  · by_cases habove : (h : Int) ≤ v
    · have hclamp : max (-(h : Int)) (min ((h : Int) - 1) v) = h - 1 := by omega
      have henc : (((h : Int) - 1) % ((2 * h : Nat) : Int)).toNat = h - 1 := by
        rw [Int.emod_eq_of_lt (by omega) (by omega)]
        omega
      rw [if_pos (Or.inr (by omega)), if_neg hbelow, if_pos habove, hclamp, henc]
    · rw [if_neg (by omega), if_neg hbelow, if_neg habove]

theorem RowTime.arith_lat (typ : BitVec 3) : RowTime.arith.lat typ = (Claim.arith typ).1 := by
  simp only [RowTime.lat, Claim.arith]
  split <;> rfl

theorem RowTime.arith_occ (typ : BitVec 3) : RowTime.arith.occ typ = (Claim.arith typ).2 := by
  simp only [RowTime.occ, Claim.arith]
  split <;> rfl

/-- A saturating word gives the exact results clamped to the signed range, with SAT where they were. -/
theorem rowLanes_rowSat {s : State} {i : Instr} {typ : BitVec 3} {td ta tb : BitVec 4} {row : BitVec 6} {g : Int → Int → Int}
    (hi : exec i s = finish s (s.rowSat typ td ta tb row g)) (hr : Claim.rowReady s td row [(ta, row), (tb, row)] false) :
    Claim.rowLanes s i (Claim.arith typ).1 (Claim.arith typ).2 (typW typ) td row (fun n =>
      let r := g (lane (typW typ) (s.cur.rowReg ta row).v n).toInt (lane (typW typ) (s.cur.rowReg tb row).v n).toInt
      if r < -(2 ^ (typW typ - 1)) then (2 ^ (typW typ - 1), fSAT)
      else if 2 ^ (typW typ - 1) ≤ r then (2 ^ (typW typ - 1) - 1, fSAT)
      else ((BitVec.ofInt (typW typ) r).toNat, 0)) := by
  have h := rowLanes_of_rowWord hi hr nofun
  simpa only [State.rowOperands_first, State.rowOperands_second, narrow_signed (typW_pos typ), RowTime.arith_lat, RowTime.arith_occ] using h

/-! ## VSEL (R200) -/

theorem laneSel_allOnes (w : Nat) : laneSel w (BitVec.allOnes 256) = BitVec.allOnes 256 := if_pos rfl

/-- VSEL takes each lane of a or b by the mask of the REP in force, and writes every lane. -/
theorem vsel_lanes {s : State} {typ : BitVec 3} {td ta tb : BitVec 4} {row : BitVec 6} (hc : NoCall s) (hv : VFree s) (hp : NoPush s td)
    (ha : RowFull s ta row) (hb : RowFull s tb row) :
    ∃ v, exec (.vsel typ td ta tb row) s
        = .next (issued (Claim.rowOut s (Claim.arith typ).1 (Claim.arith typ).2 td row v 0 (BitVec.allOnes 256)))
      ∧ ∀ n, n < 2048 / typW typ → lane (typW typ) v n
        = if s.laneMask.getLsbD n then lane (typW typ) (s.cur.rowReg ta row).v n else lane (typW typ) (s.cur.rowReg tb row).v n := by
  have hsrcs : ∀ x ∈ [(ta, row), (tb, row)], RowFull s x.1 x.2 := by simp [ha, hb]
  refine ⟨_, ?_, fun n hn => lane_ofLanes hn _⟩
  rw [exec_vsel, execVsel, RowTime.arith_lat, RowTime.arith_occ, ← finish_ok hc, ← laneSel_allOnes (typW typ / 8)]
  exact congrArg (finish s) (State.rowWord_ok hv hp hsrcs (by simp) rfl rfl (by simp) (fun _ => rfl))

/-- R198, R197, R200. -/
theorem rowComparesAndSelect : Claim.RowComparesAndSelect := by
  intro typ td ta tb row s
  refine ⟨fun hr => ⟨fun x hx => ?_, fun _ x hx => ?_⟩, fun hc hv hp ha hb => vsel_lanes hc hv hp ha hb⟩
  · simp only [List.mem_cons, List.not_mem_nil, or_false] at hx
    rcases hx with rfl | rfl | rfl | rfl
    · exact rowLanes_rowCmp (exec_vceq typ td ta tb row s) hr compare_beq_eq
    · exact rowLanes_rowCmp (exec_vcne typ td ta tb row s) hr compare_bne_eq
    · exact rowLanes_rowCmp (exec_vclt typ td ta tb row s) hr compare_beq_lt
    · exact rowLanes_rowCmp (exec_vcle typ td ta tb row s) hr compare_bne_gt
  · simp only [List.mem_cons, List.not_mem_nil, or_false] at hx
    rcases hx with rfl | rfl
    · exact rowLanes_rowSat (exec_vadds typ td ta tb row s) hr
    · exact rowLanes_rowSat (exec_vsubs typ td ta tb row s) hr

/-! ## Bytes of a register replaced (R47) -/

/-- A bit of the row of the selected bytes. -/
theorem getLsbD_spread (sel : Mask) {i : Nat} (hi : i < 2048) : (spread sel).getLsbD i = sel.getLsbD (i / 8) := by
  have hn : i / 8 < 2048 / 8 := by omega
  have hj : i % 8 < 8 := Nat.mod_lt _ (by decide)
  have hbyte : (if sel.getLsbD (i / 8) = true then (0xFF : Byte) else 0).getLsbD (i % 8) = sel.getLsbD (i / 8) := by
    generalize i % 8 = j at hj
    cases sel.getLsbD (i / 8)
    · simp
    · decide +revert
  rw [show i = i / 8 * 8 + i % 8 by omega, spread, ofLanes, getLsbD_packed hn hj, range_map_getD hn, hbyte]
  congr 1
  omega

/-- A bit of a row of which the selected bytes are replaced. -/
theorem getLsbD_blend (old new : Row) (sel : Mask) {i : Nat} (hi : i < 2048) :
    (blend old new sel).getLsbD i = if sel.getLsbD (i / 8) then new.getLsbD i else old.getLsbD i := by
  unfold blend
  split
  next hall =>
    have hbyte : i / 8 < 256 := by omega
    rw [hall, BitVec.getLsbD_allOnes, if_pos (decide_eq_true hbyte)]
  next =>
    rw [BitVec.getLsbD_or, BitVec.getLsbD_and, BitVec.getLsbD_and, BitVec.getLsbD_not, getLsbD_spread sel hi]
    cases sel.getLsbD (i / 8) <;> simp [hi]

/-- A mask register, but the hard-wired k0, after a result for it has landed. -/
theorem State.land_k_bit (s : State) {k : BitVec 3} (hk : k ≠ 0) (v : Row) (sel : Mask) {i : Nat} (hi : i < 256) :
    ((s.land (.write (.k k) v sel false)).cur.kv k).getLsbD i = if sel.getLsbD (i / 8) then v.getLsbD i else (s.cur.kv k).getLsbD i := by
  have hput : (s.land (.write (.k k) v sel false)).cur.kv k = (blend ((s.cur.kv k).setWidth 2048) v sel).setWidth 256 := by
    rw [State.land_write_cur s (.k k) v sel false (by simp), Ctx.put, Ctx.kv_setK, if_pos ⟨hk, rfl⟩]
  have hrow : i < 2048 := by omega
  rw [hput, BitVec.getLsbD_setWidth, getLsbD_blend _ _ _ hrow, BitVec.getLsbD_setWidth]
  simp [hi, hrow]

/-- The eight bytes of a quarter of a mask register, selected. -/
theorem getLsbD_quarterSel (q : BitVec 2) {i : Nat} (hi : i < 256) :
    (0xFF#256 <<< (8 * q.toNat)).getLsbD (i / 8) = decide (64 * q.toNat ≤ i ∧ i < 64 * q.toNat + 64) := by
  have hones : 0xFF#256 = (BitVec.allOnes 8).setWidth 256 := by decide
  rw [hones, BitVec.getLsbD_shiftLeft, BitVec.getLsbD_setWidth, BitVec.getLsbD_allOnes]
  have h1 : i / 8 < 256 := by omega
  have h2 : i / 8 - 8 * q.toNat < 256 := by omega
  simp only [h1, h2, decide_true, Bool.true_and, ← decide_not, ← Bool.decide_and]
  congr 1
  rw [eq_iff_iff]
  omega

/-- A scalar moved up to a quarter of a mask register, within it. -/
theorem getLsbD_quarter (x : Word) {lo i : Nat} (hlo : lo ≤ i) (hi : i < 256) :
    (x.setWidth 2048 <<< lo).getLsbD i = x.getLsbD (i - lo) := by
  rw [BitVec.getLsbD_shiftLeft, BitVec.getLsbD_setWidth]
  have h1 : i < 2048 := by omega
  have h2 : i - lo < 2048 := by omega
  simp [h1, h2, Nat.not_lt.mpr hlo]

/-! ## The words of mask registers (R211) -/

/-- A word that takes the free pipe for one issue cycle and goes on issues. -/
theorem finish_vpipe_one {s t : State} {f : State → Res} (hc : NoCall s) (hv : VFree s) (hf : f (vTaken s 1) = .ok t) :
    finish s (s.vpipe 1 f) = .next (issued t) := by
  rw [State.vpipe_free hv hf, finish_ok hc]

/-- Counting the bits that are set counts the places where they are. -/
theorem countTrue_map (f : Nat → Bool) (l : List Nat) : countTrue (l.map f) = (l.filter f).length := by
  induction l with
  | nil => rfl
  | cons x t ih => cases hx : f x <;> simp [countTrue, bit, ih, hx, Nat.add_comm]

/-- KMOVD queues the scalar in its quarter, with the bytes of that quarter alone selected. -/
theorem kmovd_issues {s : State} {q : BitVec 2} {r : BitVec 5} {k : BitVec 3} (hc : NoCall s) (hv : VFree s) (hr : Full s r) :
    exec (.kmovd q r k) s = .next (issued ((vTaken s 1).push 2
      (.write (.k k) ((s.cur.sv r).setWidth 2048 <<< (64 * q.toNat)) (0xFF#256 <<< (8 * q.toNat)) false))) := by
  have hr' : Full (vTaken s 1) r := hr
  exact (exec_kmovd q r k s).trans (finish_vpipe_one hc hv (State.withSrcs_s hr'))

/-- R211: what KMOVD queues changes its quarter alone. -/
theorem kmovd_lands (s : State) (q : BitVec 2) {k : BitVec 3} (hk : k ≠ 0) (x : Word) {i : Nat} (hi : i < 256) :
    ((s.land (.write (.k k) (x.setWidth 2048 <<< (64 * q.toNat)) (0xFF#256 <<< (8 * q.toNat)) false)).cur.kv k).getLsbD i
      = if 64 * q.toNat ≤ i ∧ i < 64 * q.toNat + 64 then x.getLsbD (i - 64 * q.toNat) else (s.cur.kv k).getLsbD i := by
  rw [State.land_k_bit s hk _ _ hi, getLsbD_quarterSel q hi]
  by_cases hin : 64 * q.toNat ≤ i ∧ i < 64 * q.toNat + 64
  · simp only [hin, and_self, decide_true, if_true, getLsbD_quarter x hin.1 hi]
  · simp only [hin, decide_false, Bool.false_eq_true, if_false]

/-- R211. -/
theorem maskWords : Claim.MaskWords := by
  intro typ r k kt ks q s hc hv
  refine ⟨?_, ?_, ?_, ?_, ?_, ?_, ?_, fun hr => ⟨_, _, kmovd_issues hc hv hr, fun hk i hi => kmovd_lands s q hk _ hi⟩⟩
  · rw [exec_kpopc]
    exact finish_vpipe_one hc hv (by rw [countTrue_map]; rfl)
  · exact (exec_kfirst typ r k s).trans (finish_vpipe_one hc hv rfl)
  · exact (exec_kmovs q r k s).trans (finish_vpipe_one hc hv rfl)
  · exact (exec_kand kt ks k s).trans (finish_vpipe_one hc hv rfl)
  · exact (exec_kor kt ks k s).trans (finish_vpipe_one hc hv rfl)
  · exact (exec_kxor kt ks k s).trans (finish_vpipe_one hc hv rfl)
  · exact (exec_knot kt k s).trans (finish_vpipe_one hc hv rfl)

/-- Settles O34: a row word is its lanes, packed, with their flags; each compare's test of an order is its relation, the narrowing to a
signed format is the clamp, and KMOVD selects the bytes of its quarter. -/
theorem rowMasks : Obligations.RowMasks := ⟨rowComparesAndSelect, maskWords⟩

end Sys2Proof.Machine

end

section
/-! PROOFS. Permutations of positions and the canonical routing (09 R212-R215): the two ports of a switch, the loop that gives each
input its sub-network, and the permutations that the sub-networks are left with. -/

namespace Sys2Proof.Machine

/-! ## Reading a list at a position -/

theorem getD_of_lt {α : Type} {l : List α} {i : Nat} (h : i < l.length) (d : α) : l.getD i d = l[i] := by
  rw [List.getD_eq_getElem?_getD, List.getElem?_eq_getElem h, Option.getD_some]

theorem getD_of_le {α : Type} {l : List α} {i : Nat} (h : l.length ≤ i) (d : α) : l.getD i d = d := by
  rw [List.getD_eq_getElem?_getD, List.getElem?_eq_none h, Option.getD_none]

/-! ## Permutations of the positions below a bound (R212) -/

/-- A list that permutes the positions below `n`. -/
structure PermOf (n : Nat) (q : List Nat) : Prop where
  length : q.length = n
  lt : ∀ x ∈ q, x < n
  nodup : q.Nodup

theorem PermOf.getD_lt {n o : Nat} {q : List Nat} (hq : PermOf n q) (ho : o < n) : q.getD o 0 < n := by
  have hlen : o < q.length := by rw [hq.length]; exact ho
  rw [getD_of_lt hlen]
  exact hq.lt _ (List.getElem_mem hlen)

/-- Every position is the image of one. -/
theorem PermOf.mem {n x : Nat} {q : List Nat} (hq : PermOf n q) (hx : x < n) : x ∈ q := by
  refine Decidable.byContradiction fun hout => ?_
  have hsub : x :: q ⊆ List.range n := fun y hy => by
    rcases List.mem_cons.mp hy with rfl | hy
    · exact List.mem_range.mpr hx
    · exact List.mem_range.mpr (hq.lt y hy)
  have hlen := (List.nodup_cons.mpr ⟨hout, hq.nodup⟩).length_le_of_subset hsub
  rw [List.length_cons, hq.length, List.length_range] at hlen
  omega

/-- The position of the value at `o` is `o`. -/
theorem invAt_getD {q : List Nat} {o : Nat} (hnd : q.Nodup) (ho : o < q.length) : invAt q (q.getD o 0) = o := by
  have hfind : q.findIdx? (· == q[o]) = some o := by
    rw [List.findIdx?_eq_some_iff_getElem]
    refine ⟨ho, beq_self_eq_true _, fun j hj hc => ?_⟩
    have heq : q[j] = q[o] := eq_of_beq hc
    have hjo : j = o := (List.getElem_inj hnd).mp heq
    omega
  rw [getD_of_lt ho, invAt, hfind, Option.getD_some]

theorem PermOf.getD_inj {n o o' : Nat} {q : List Nat} (hq : PermOf n q) (ho : o < n) (ho' : o' < n)
    (h : q.getD o 0 = q.getD o' 0) : o = o' :=
  (List.getD_inj (hq.length ▸ ho) (hq.length ▸ ho') hq.nodup).mp h

/-- Every position `x` is the value at `invAt q x`. -/
theorem PermOf.invAt_spec {n x : Nat} {q : List Nat} (hq : PermOf n q) (hx : x < n) : invAt q x < n ∧ q.getD (invAt q x) 0 = x := by
  obtain ⟨o, ho, rfl⟩ := List.getElem_of_mem (hq.mem hx)
  rw [← getD_of_lt ho 0, invAt_getD hq.nodup ho]
  exact ⟨hq.length ▸ ho, rfl⟩

/-! ## The two ports of a switch (R213) -/

/-- The other port of the switch of a port. -/
def mate (x : Nat) : Nat := if x % 2 = 0 then x + 1 else x - 1

theorem mate_mate (x : Nat) : mate (mate x) = x := by unfold mate; split <;> split <;> omega

theorem mate_ne (x : Nat) : mate x ≠ x := by unfold mate; split <;> omega

theorem mate_lt {x h : Nat} (hx : x < 2 * h) : mate x < 2 * h := by unfold mate; split <;> omega

/-- Two ports of one switch are the same, or each other's mates. -/
theorem eq_or_mate_of_half_eq {x y : Nat} (h : x / 2 = y / 2) : y = x ∨ y = mate x := by unfold mate; split <;> omega

/-- The input that leaves on the other output of the last-stage switch of input `x`. -/
def outMate (q : List Nat) (x : Nat) : Nat := q.getD (mate (invAt q x)) 0

section OutMate
variable {q : List Nat} {h : Nat} (hq : PermOf (2 * h) q)
include hq

theorem outMate_getD {o : Nat} (ho : o < 2 * h) : outMate q (q.getD o 0) = q.getD (mate o) 0 := by
  rw [outMate, invAt_getD hq.nodup (hq.length ▸ ho)]

theorem outMate_lt {x : Nat} (hx : x < 2 * h) : outMate q x < 2 * h := hq.getD_lt (mate_lt (hq.invAt_spec hx).1)

theorem outMate_outMate {x : Nat} (hx : x < 2 * h) : outMate q (outMate q x) = x := by
  obtain ⟨hlt, hval⟩ := hq.invAt_spec hx
  rw [show outMate q x = q.getD (mate (invAt q x)) 0 from rfl, outMate_getD hq (mate_lt hlt), mate_mate, hval]

theorem outMate_ne {x : Nat} (hx : x < 2 * h) : outMate q x ≠ x := by
  obtain ⟨hlt, hval⟩ := hq.invAt_spec hx
  intro heq
  exact mate_ne (invAt q x) (hq.getD_inj (mate_lt hlt) hlt (heq.trans hval.symm))

end OutMate

/-! ## Sides given to inputs (R215) -/

theorem listSet_eq_set {α : Type} (l : List α) (i : Nat) (a : α) : listSet l i a = l.set i a := by
  induction l generalizing i with
  | nil => rfl
  | cons x t ih => cases i with
    | zero => rfl
    | succ i => rw [listSet, ih, List.set_cons_succ]

theorem getD_listSet {α : Type} {l : List α} {i : Nat} (a d : α) (hi : i < l.length) (j : Nat) :
    (listSet l i a).getD j d = if j = i then a else l.getD j d := by
  rw [listSet_eq_set]
  by_cases hj : j = i
  · rw [if_pos hj, hj, getD_of_lt (by rwa [List.length_set]), List.getElem_set_self]
  · rw [if_neg hj, List.getD_eq_getElem?_getD, List.getElem?_set_ne (Ne.symm hj), ← List.getD_eq_getElem?_getD]

/-- Two inputs go to different sub-networks. -/
def Apart (sides : List (Option Nat)) (x y : Nat) : Prop :=
  (sides.getD x none = some 0 ∧ sides.getD y none = some 1) ∨ (sides.getD x none = some 1 ∧ sides.getD y none = some 0)

theorem Apart.symm {sides : List (Option Nat)} {x y : Nat} (h : Apart sides x y) : Apart sides y x := by
  rcases h with ⟨hx, hy⟩ | ⟨hx, hy⟩
  · exact .inr ⟨hy, hx⟩
  · exact .inl ⟨hy, hx⟩

theorem Apart.routed {sides : List (Option Nat)} {x y : Nat} (h : Apart sides x y) : sides.getD y none ≠ none := by
  rcases h with ⟨-, hy⟩ | ⟨-, hy⟩ <;> rw [hy] <;> exact Option.some_ne_none _

/-- Every input routed so far goes apart from the other input of its first-stage switch and of its last-stage switch. -/
structure Routed (q : List Nat) (sides : List (Option Nat)) : Prop where
  length : sides.length = q.length
  ins : ∀ y, sides.getD y none ≠ none → Apart sides y (mate y)
  outs : ∀ y, sides.getD y none ≠ none → Apart sides y (outMate q y)

/-- The loop that began at `x0` has come to `x`: all is as in `Routed`, but that the first-stage mates of `x0` and `x` need not be
routed; before the first round neither is, later `x0` went up, the mate of `x` went down, and `x` is routed only if it is `x0`. -/
structure Walk (q : List Nat) (x0 x : Nat) (sides : List (Option Nat)) : Prop where
  length : sides.length = q.length
  ins : ∀ y, sides.getD y none ≠ none → y ≠ x0 → y ≠ mate x → Apart sides y (mate y)
  outs : ∀ y, sides.getD y none ≠ none → Apart sides y (outMate q y)
  ends : (x = x0 ∧ sides.getD x none = none ∧ sides.getD (mate x) none = none)
    ∨ (sides.getD x0 none = some 0 ∧ sides.getD (mate x) none = some 1 ∧ (sides.getD x none ≠ none → x = x0))

theorem Routed.walk {q : List Nat} {x : Nat} {sides : List (Option Nat)} (h : Routed q sides) (hx : sides.getD x none = none) :
    Walk q x x sides where
  length := h.length
  ins y hy _ _ := h.ins y hy
  outs := h.outs
  ends := by
    refine .inl ⟨rfl, hx, Decidable.byContradiction fun hm => ?_⟩
    have := (h.ins _ hm).routed
    rw [mate_mate] at this
    exact this hx

/-- A loop that has come back to a routed input leaves all routed inputs apart from their mates. -/
theorem Walk.routed {q : List Nat} {x0 x : Nat} {sides : List (Option Nat)} (w : Walk q x0 x sides) (hx : sides.getD x none ≠ none) :
    Routed q sides ∧ sides.getD x0 none ≠ none := by
  rcases w.ends with ⟨-, hn, -⟩ | ⟨h0, h1, hback⟩
  · exact absurd hn hx
  obtain rfl := hback hx
  refine ⟨⟨w.length, fun y hy => ?_, w.outs⟩, hx⟩
  by_cases hyx : y = x
  · subst hyx
    exact .inl ⟨h0, h1⟩
  by_cases hym : y = mate x
  · subst hym
    rw [mate_mate]
    exact .inr ⟨h1, h0⟩
  · exact w.ins y hy hyx hym

/-- One round of the loop: the input goes up, the other input of its last-stage switch down. -/
def routeRound (q : List Nat) (x : Nat) (sides : List (Option Nat)) : List (Option Nat) :=
  listSet (listSet sides x (some 0)) (outMate q x) (some 1)

theorem routeLoop_routed (q : List Nat) (fuel : Nat) {x : Nat} {sides : List (Option Nat)} (h : sides.getD x none ≠ none) :
    routeLoop q (fuel + 1) x sides = sides := by
  rw [routeLoop, if_pos (Option.isSome_iff_ne_none.mpr h)]

theorem routeLoop_round (q : List Nat) (fuel : Nat) {x : Nat} {sides : List (Option Nat)} (h : sides.getD x none = none) :
    routeLoop q (fuel + 1) x sides = routeLoop q fuel (mate (outMate q x)) (routeRound q x sides) := by
  rw [routeLoop, h]
  rfl

theorem length_routeRound (q : List Nat) (x : Nat) (sides : List (Option Nat)) : (routeRound q x sides).length = sides.length := by
  rw [routeRound, listSet_eq_set, listSet_eq_set, List.length_set, List.length_set]

section Round
variable {q : List Nat} {h x0 x : Nat} {sides : List (Option Nat)} (hq : PermOf (2 * h) q) (hlen : sides.length = q.length) (hx : x < 2 * h)
include hq hlen hx

theorem getD_routeRound (y : Nat) : (routeRound q x sides).getD y none =
    if y = outMate q x then some 1 else if y = x then some 0 else sides.getD y none := by
  have hx1 : x < sides.length := by rw [hlen, hq.length]; exact hx
  have hx2 : outMate q x < (listSet sides x (some 0)).length := by
    rw [listSet_eq_set, List.length_set, hlen, hq.length]
    exact outMate_lt hq hx
  rw [routeRound, getD_listSet _ _ hx2, getD_listSet _ _ hx1]

theorem getD_routeRound_self : (routeRound q x sides).getD x none = some 0 := by
  rw [getD_routeRound hq hlen hx, if_neg (outMate_ne hq hx).symm, if_pos rfl]

theorem getD_routeRound_outMate : (routeRound q x sides).getD (outMate q x) none = some 1 := by
  rw [getD_routeRound hq hlen hx, if_pos rfl]

/-- An input has a side after a round only if it had one before, or the round gave it one. -/
theorem routed_routeRound {y : Nat} (hy : (routeRound q x sides).getD y none ≠ none) :
    y = outMate q x ∨ y = x ∨ sides.getD y none ≠ none := by
  rw [getD_routeRound hq hlen hx] at hy
  split at hy
  · exact .inl ‹_›
  split at hy
  · exact .inr (.inl ‹_›)
  · exact .inr (.inr hy)

theorem count_routeRound (hn : sides.getD x none = none) : (routeRound q x sides).count none < sides.count none := by
  have hx1 : x < sides.length := by rw [hlen, hq.length]; exact hx
  have hmem : sides[x] = none := by rwa [getD_of_lt hx1] at hn
  have hpos : 0 < sides.count none := List.count_pos_iff.mpr (hmem ▸ List.getElem_mem hx1)
  have hfirst : (sides.set x (some 0)).count none = sides.count none - 1 := by
    rw [List.count_set hx1, hmem]
    simp
  have hx2 : outMate q x < (sides.set x (some 0)).length := by
    rw [List.length_set, hlen, hq.length]
    exact outMate_lt hq hx
  rw [routeRound, listSet_eq_set, listSet_eq_set, List.count_set hx2, hfirst]
  simp only [Option.some_beq_none, Bool.false_eq_true, if_false]
  omega

end Round

section Step
variable {q : List Nat} {h x0 x : Nat} {sides : List (Option Nat)} (hq : PermOf (2 * h) q) (hx : x < 2 * h)
  (w : Walk q x0 x sides) (hn : sides.getD x none = none)
include hq hx w hn

/-- The other input of the last-stage switch of an input without a side has none either. -/
theorem Walk.outMate_unrouted : sides.getD (outMate q x) none = none := by
  refine Decidable.byContradiction fun hc => ?_
  have := (w.outs _ hc).routed
  rw [outMate_outMate hq hx] at this
  exact this hn

/-- Sides given before a round stay. -/
theorem Walk.getD_keeps {y : Nat} (hy : sides.getD y none ≠ none) : (routeRound q x sides).getD y none = sides.getD y none := by
  rw [getD_routeRound hq w.length hx, if_neg, if_neg]
  · rintro rfl
    exact hy hn
  · rintro rfl
    exact hy (w.outMate_unrouted hq hx hn)

theorem Walk.apart_keeps {y z : Nat} (ha : Apart sides y z) : Apart (routeRound q x sides) y z := by
  unfold Apart
  rw [w.getD_keeps hq hx hn ha.symm.routed, w.getD_keeps hq hx hn ha.routed]
  exact ha

theorem Walk.round_outs (y : Nat) (hy : (routeRound q x sides).getD y none ≠ none) :
    Apart (routeRound q x sides) y (outMate q y) := by
  have hself := getD_routeRound_self hq w.length hx
  have hmate := getD_routeRound_outMate hq w.length hx
  rcases routed_routeRound hq w.length hx hy with rfl | rfl | hold
  · rw [outMate_outMate hq hx]
    exact .inr ⟨hmate, hself⟩
  · exact .inl ⟨hself, hmate⟩
  · exact w.apart_keeps hq hx hn (w.outs y hold)

theorem Walk.round_ins (y : Nat) (hy : (routeRound q x sides).getD y none ≠ none) (h0 : y ≠ x0) (hm : y ≠ outMate q x) :
    Apart (routeRound q x sides) y (mate y) := by
  have hself := getD_routeRound_self hq w.length hx
  -- with a first round behind it, the mate of `x` went down
  have hmate : x ≠ x0 ∨ sides.getD (mate x) none ≠ none → Apart (routeRound q x sides) x (mate x) := by
    intro hc
    rcases w.ends with ⟨rfl, -, hnone⟩ | ⟨-, h1, -⟩
    · exact absurd hnone (hc.resolve_left (fun hne => hne rfl))
    · refine .inl ⟨hself, ?_⟩
      rw [w.getD_keeps hq hx hn (by rw [h1]; exact Option.some_ne_none _), h1]
  rcases routed_routeRound hq w.length hx hy with rfl | rfl | hold
  · exact absurd rfl hm
  · exact hmate (.inl h0)
  · by_cases hyx : y = mate x
    · subst hyx
      rw [mate_mate]
      exact (hmate (.inr hold)).symm
    · exact w.apart_keeps hq hx hn (w.ins y hold h0 hyx)

/-- The loop comes to a routed input only at its start: the mate of any other routed input was routed before. -/
theorem Walk.round_back (hb : (routeRound q x sides).getD (mate (outMate q x)) none ≠ none) : mate (outMate q x) = x0 := by
  have hun := w.outMate_unrouted hq hx hn
  rcases routed_routeRound hq w.length hx hb with heq | heq | hold
  · exact absurd heq (mate_ne _)
  · have hmx : mate x = outMate q x := by rw [← mate_mate (outMate q x), heq]
    rcases w.ends with ⟨rfl, -, -⟩ | ⟨-, h1, -⟩
    · exact heq
    · rw [hmx, hun] at h1
      exact absurd h1.symm (Option.some_ne_none _)
  · refine Decidable.byContradiction fun h0 => ?_
    have hne : mate (outMate q x) ≠ mate x := by
      intro hc
      have := congrArg mate hc
      rw [mate_mate, mate_mate] at this
      exact outMate_ne hq hx this
    have := (w.ins _ hold h0 hne).routed
    rw [mate_mate] at this
    exact this hun

theorem Walk.round : Walk q x0 (mate (outMate q x)) (routeRound q x sides) where
  length := (length_routeRound q x sides).trans w.length
  outs := w.round_outs hq hx hn
  ins y hy h0 hm := by
    rw [mate_mate] at hm
    exact w.round_ins hq hx hn y hy h0 hm
  ends := by
    refine .inr ⟨?_, ?_, w.round_back hq hx hn⟩
    · rcases w.ends with ⟨rfl, -, -⟩ | ⟨h0, -, -⟩
      · exact getD_routeRound_self hq w.length hx
      · rw [w.getD_keeps hq hx hn (by rw [h0]; exact Option.some_ne_none _), h0]
    · rw [mate_mate]
      exact getD_routeRound_outMate hq w.length hx

end Step

/-! ## The loop, and all loops (R215) -/

/-- With fuel for every input without a side, the loop closes. -/
theorem Walk.loop {q : List Nat} {h x0 : Nat} (hq : PermOf (2 * h) q) {fuel x : Nat} {sides : List (Option Nat)} (hx : x < 2 * h)
    (w : Walk q x0 x sides) (hf : sides.count none < fuel) :
    Routed q (routeLoop q fuel x sides) ∧ (routeLoop q fuel x sides).getD x0 none ≠ none
      ∧ ∀ y, sides.getD y none ≠ none → (routeLoop q fuel x sides).getD y none ≠ none := by
  induction fuel generalizing x sides with
  | zero => omega
  | succ fuel ih =>
    by_cases hn : sides.getD x none = none
    · rw [routeLoop_round q fuel hn]
      have hcount := count_routeRound hq w.length hx hn
      obtain ⟨hr, h0, hkeep⟩ := ih (mate_lt (outMate_lt hq hx)) (w.round hq hx hn) (by omega)
      exact ⟨hr, h0, fun y hy => hkeep y (by rwa [w.getD_keeps hq hx hn hy])⟩
    · rw [routeLoop_routed q fuel hn]
      obtain ⟨hr, h0⟩ := w.routed hn
      exact ⟨hr, h0, fun y hy => hy⟩

/-- A loop begun at any input leaves the sides as they must be, with a side for that input. -/
theorem Routed.loop {q : List Nat} {h x : Nat} (hq : PermOf (2 * h) q) {sides : List (Option Nat)} (hx : x < 2 * h)
    (hr : Routed q sides) :
    Routed q (routeLoop q (q.length + 1) x sides) ∧ (routeLoop q (q.length + 1) x sides).getD x none ≠ none
      ∧ ∀ y, sides.getD y none ≠ none → (routeLoop q (q.length + 1) x sides).getD y none ≠ none := by
  by_cases hn : sides.getD x none = none
  · have hcount : sides.count none ≤ sides.length := List.count_le_length
    exact (hr.walk hn).loop hq hx (by rw [hr.length] at hcount; omega)
  · rw [routeLoop_routed q _ hn]
    exact ⟨hr, hn, fun y hy => hy⟩

/-- The loops begun at each of a list of inputs. -/
theorem Routed.loops {q : List Nat} {h : Nat} (hq : PermOf (2 * h) q) (l : List Nat) (hl : ∀ x ∈ l, x < 2 * h)
    {sides : List (Option Nat)} (hr : Routed q sides) :
    Routed q (l.foldl (fun sides x => routeLoop q (q.length + 1) x sides) sides)
      ∧ ∀ y, y ∈ l ∨ sides.getD y none ≠ none →
        (l.foldl (fun sides x => routeLoop q (q.length + 1) x sides) sides).getD y none ≠ none := by
  induction l generalizing sides with
  | nil => exact ⟨hr, fun y hy => hy.resolve_left (by simp)⟩
  | cons x t ih =>
    obtain ⟨hr', hx, hkeep⟩ := hr.loop hq (hl x (by simp))
    obtain ⟨hres, hall⟩ := ih (fun y hy => hl y (by simp [hy])) hr'
    refine ⟨hres, fun y hy => hall y ?_⟩
    rcases hy with hy | hy
    · rcases List.mem_cons.mp hy with rfl | hy
      · exact .inr hx
      · exact .inl hy
    · exact .inr (hkeep y hy)

/-- Before the first loop no input has a side. -/
theorem routed_replicate (q : List Nat) : Routed q (List.replicate q.length none) := by
  have hnone : ∀ y, (List.replicate q.length (none : Option Nat)).getD y none = none := by
    intro y
    rw [List.getD_eq_getElem?_getD, List.getElem?_replicate]
    split <;> rfl
  exact ⟨List.length_replicate, fun y hy => absurd (hnone y) hy, fun y hy => absurd (hnone y) hy⟩

theorem getD_map_side (sides : List (Option Nat)) (x : Nat) :
    (sides.map (fun s => s.getD 0)).getD x 0 = (sides.getD x none).getD 0 := by
  rw [List.getD_eq_getElem?_getD, List.getElem?_map, List.getD_eq_getElem?_getD]
  cases sides[x]? <;> rfl

/-- Inputs that go apart have the sides 0 and 1. -/
theorem Apart.sum {sides : List (Option Nat)} {x y : Nat} (h : Apart sides x y) :
    (sides.map (fun s => s.getD 0)).getD x 0 + (sides.map (fun s => s.getD 0)).getD y 0 = 1 := by
  rw [getD_map_side, getD_map_side]
  rcases h with ⟨hx, hy⟩ | ⟨hx, hy⟩ <;> rw [hx, hy] <;> rfl

section Sides
variable {q : List Nat} {h : Nat} (hq : PermOf (2 * h) q)
include hq

/-- The two inputs of a first-stage switch go to different sub-networks. -/
theorem routeSides_mate {x : Nat} (hx : x < 2 * h) : (routeSides q).getD x 0 + (routeSides q).getD (mate x) 0 = 1 := by
  obtain ⟨hr, hall⟩ := (routed_replicate q).loops hq (List.range q.length) (by simp [hq.length])
  exact (hr.ins x (hall x (.inl (by simpa [hq.length] using hx)))).sum

/-- The inputs of the two outputs of a last-stage switch come from different sub-networks. -/
theorem routeSides_outputs {o : Nat} (ho : o < 2 * h) :
    (routeSides q).getD (q.getD o 0) 0 + (routeSides q).getD (q.getD (mate o) 0) 0 = 1 := by
  obtain ⟨hr, hall⟩ := (routed_replicate q).loops hq (List.range q.length) (by simp [hq.length])
  rw [← outMate_getD hq ho]
  exact (hr.outs _ (hall _ (.inl (by simpa [hq.length] using hq.getD_lt ho)))).sum

end Sides

/-! ## The permutations of the sub-networks (R213, R215) -/

/-- The output of last-stage switch `j` that is fed by a sub-network. -/
def subOut (q sides : List Nat) (side j : Nat) : Nat := if sides.getD (q.getD (2 * j) 0) 0 = side then 2 * j else 2 * j + 1

theorem subPerm_eq (q sides : List Nat) (side : Nat) :
    subPerm q sides side = (List.range (q.length / 2)).map (fun j => q.getD (subOut q sides side j) 0 / 2) := rfl

theorem length_subPerm (q sides : List Nat) (side : Nat) : (subPerm q sides side).length = q.length / 2 := by
  rw [subPerm_eq, List.length_map, List.length_range]

theorem subOut_half (q sides : List Nat) (side j : Nat) : subOut q sides side j / 2 = j := by unfold subOut; split <;> omega

theorem subOut_lt (q sides : List Nat) (side : Nat) {j h : Nat} (hj : j < h) : subOut q sides side j < 2 * h := by
  unfold subOut; split <;> omega

section SubPerm
variable {q : List Nat} {h : Nat} (hq : PermOf (2 * h) q)
include hq

/-- The outputs 2j and 2j + 1 get their inputs from different sub-networks. -/
theorem routeSides_pair {j : Nat} (hj : j < h) :
    (routeSides q).getD (q.getD (2 * j) 0) 0 + (routeSides q).getD (q.getD (2 * j + 1) 0) 0 = 1 := by
  have hmate : mate (2 * j) = 2 * j + 1 := by unfold mate; split <;> omega
  rw [← hmate]
  exact routeSides_outputs hq (by omega)

/-- The output that a sub-network feeds gets its input from it. -/
theorem routeSides_subOut {side j : Nat} (hs : side < 2) (hj : j < h) :
    (routeSides q).getD (q.getD (subOut q (routeSides q) side j) 0) 0 = side := by
  have hpair := routeSides_pair hq hj
  unfold subOut
  split
  · assumption
  · omega

/-- An output is fed by the sub-network of its input. -/
theorem subOut_routeSides {o : Nat} (ho : o < 2 * h) :
    subOut q (routeSides q) ((routeSides q).getD (q.getD o 0) 0) (o / 2) = o := by
  have hpair := routeSides_pair hq (j := o / 2) (by omega)
  unfold subOut
  rcases Nat.mod_two_eq_zero_or_one o with hm | hm
  · have ho2 : 2 * (o / 2) = o := by omega
    rw [if_pos (by rw [ho2])]
    exact ho2
  · have ho2 : 2 * (o / 2) + 1 = o := by omega
    rw [ho2] at hpair
    rw [if_neg (by omega)]
    exact ho2

/-- Output `o / 2` of the sub-network of the input that output `o` receives gets the input of that input's first-stage switch. -/
theorem getD_subPerm {o : Nat} (ho : o < 2 * h) :
    (subPerm q (routeSides q) ((routeSides q).getD (q.getD o 0) 0)).getD (o / 2) 0 = q.getD o 0 / 2 := by
  have hlt : o / 2 < q.length / 2 := by rw [hq.length]; omega
  rw [subPerm_eq, range_map_getD hlt, subOut_routeSides hq ho]

/-- A sub-network has a permutation of its own. -/
theorem permOf_subPerm {side : Nat} (hs : side < 2) : PermOf h (subPerm q (routeSides q) side) := by
  have hhalf : q.length / 2 = h := by rw [hq.length]; omega
  refine ⟨by rw [length_subPerm, hhalf], ?_, ?_⟩
  · intro x hx
    rw [subPerm_eq, hhalf] at hx
    obtain ⟨j, hj, rfl⟩ := List.mem_map.mp hx
    have := hq.getD_lt (subOut_lt q (routeSides q) side (List.mem_range.mp hj))
    omega
  · rw [subPerm_eq, hhalf]
    refine List.pairwise_map.mpr (List.nodup_range.imp_of_mem fun {i j} hi hj hij heq => hij ?_)
    rw [List.mem_range] at hi hj
    have hlti := subOut_lt q (routeSides q) side hi
    have hltj := subOut_lt q (routeSides q) side hj
    have hone : q.getD (subOut q (routeSides q) side i) 0 = q.getD (subOut q (routeSides q) side j) 0 := by
      rcases eq_or_mate_of_half_eq heq with heq | heq
      · exact heq.symm
      · have hsum := routeSides_mate hq (hq.getD_lt hlti)
        rw [← heq, routeSides_subOut hq hs hi, routeSides_subOut hq hs hj] at hsum
        omega
    rw [← subOut_half q (routeSides q) side i, hq.getD_inj hlti hltj hone, subOut_half]

end SubPerm

end Sys2Proof.Machine

end

section
/-! PROOFS. The switch network under the canonical routing (09 R213-R215): which bits are set, the part of the settings that a
sub-network owns, the input that an output receives, and O37. -/

namespace Sys2Proof.Machine

/-! ## The bits that a sub-network owns (R214) -/

/-- A bit of a stage and a switch that the sub-network of `fuel` further levels at level `l` with base `base` owns. -/
def InNet (fuel l base b : Nat) : Prop := l ≤ b / 32 ∧ b / 32 ≤ 10 - l ∧ base ≤ b % 32 ∧ b % 32 < base + 2 ^ fuel

/-- The base of a sub-network's upper or lower sub-network. -/
def sideBase (l base side : Nat) : Nat := base + side * 2 ^ (4 - l)

/-- The bits set below one level: a first-stage switch is crossed where its upper input goes down, a last-stage switch where its upper
output comes from below. -/
theorem mem_canonBits_succ (fuel l base : Nat) (q : List Nat) (b : Nat) :
    b ∈ canonBits (fuel + 1) l base q ↔
      (∃ j < q.length / 2, (routeSides q).getD (2 * j) 0 = 1 ∧ b = 32 * l + (base + j))
      ∨ (∃ j < q.length / 2, (routeSides q).getD (q.getD (2 * j) 0) 0 = 1 ∧ b = 32 * (10 - l) + (base + j))
      ∨ ∃ side < 2, b ∈ canonBits fuel (l + 1) (sideBase l base side) (subPerm q (routeSides q) side) := by
  have hsides : (∃ side < 2, b ∈ canonBits fuel (l + 1) (sideBase l base side) (subPerm q (routeSides q) side)) ↔
      b ∈ canonBits fuel (l + 1) base (subPerm q (routeSides q) 0)
      ∨ b ∈ canonBits fuel (l + 1) (base + 2 ^ (4 - l)) (subPerm q (routeSides q) 1) := by
    rw [Nat.exists_lt_succ_right, Nat.exists_lt_succ_right]
    simp [sideBase]
  rw [hsides]
  simp only [canonBits, List.mem_append, List.mem_map, List.mem_filter, List.mem_range, beq_iff_eq, Nat.add_assoc, and_assoc,
    or_assoc, eq_comm (b := b)]


/-- The two sub-networks below one level share its switches. -/
theorem sideBase_room {fuel l side : Nat} (base : Nat) (hl : fuel + 1 + l = 5) (hs : side < 2) :
    base ≤ sideBase l base side ∧ sideBase l base side + 2 ^ fuel ≤ base + 2 ^ (fuel + 1) := by
  have hpow : 4 - l = fuel := by omega
  have hside : side * 2 ^ fuel ≤ 1 * 2 ^ fuel := Nat.mul_le_mul_right _ (by omega)
  unfold sideBase
  rw [hpow, Nat.pow_succ]
  omega

/-- What the sub-networks below one level own, that level's network owns. -/
theorem InNet.of_side {fuel l base side b : Nat} (hl : fuel + 1 + l = 5) (hs : side < 2)
    (h : InNet fuel (l + 1) (sideBase l base side) b) : InNet (fuel + 1) l base b := by
  obtain ⟨hlo, hhi, hbase, htop⟩ := h
  obtain ⟨hle, hroom⟩ := sideBase_room base hl hs
  exact ⟨by omega, by omega, by omega, by omega⟩

/-- The routing of a sub-network sets bits of its own alone. -/
theorem canonBits_inNet {fuel l base b : Nat} {q : List Nat} (hl : fuel + l = 5) (hb : base + 2 ^ fuel ≤ 32)
    (hq : q.length = 2 ^ (fuel + 1)) (hm : b ∈ canonBits fuel l base q) : InNet fuel l base b := by
  induction fuel generalizing l base q with
  | zero =>
    unfold canonBits at hm
    split at hm
    · obtain rfl := List.mem_singleton.mp hm
      unfold InNet
      omega
    · exact absurd hm List.not_mem_nil
  | succ fuel ih =>
    have hhalf : q.length / 2 = 2 ^ (fuel + 1) := by rw [hq, Nat.pow_succ]; omega
    rcases (mem_canonBits_succ fuel l base q b).mp hm with ⟨j, hj, -, rfl⟩ | ⟨j, hj, -, rfl⟩ | ⟨side, hs, hm⟩
    · unfold InNet
      omega
    · unfold InNet
      omega
    · have hroom := (sideBase_room base hl hs).2
      exact InNet.of_side hl hs (ih (by omega) (by omega) (by rw [length_subPerm, hhalf]) hm)

/-! ## One level of the routing (R213, R215) -/

/-- The settings of a sub-network's own bits are its canonical routing. -/
def SetAs (v : Switches) (fuel l base : Nat) (q : List Nat) : Prop :=
  ∀ b, InNet fuel l base b → v.getLsbD b = decide (b ∈ canonBits fuel l base q)

theorem routeBack_succ (v : Switches) (fuel l base o : Nat) : routeBack v (fuel + 1) l base o =
    2 * routeBack v fuel (l + 1) (sideBase l base ((o + swBit v (10 - l) (base + o / 2)) % 2)) (o / 2)
      + ((o + swBit v (10 - l) (base + o / 2)) % 2
        + swBit v l (base + routeBack v fuel (l + 1) (sideBase l base ((o + swBit v (10 - l) (base + o / 2)) % 2)) (o / 2))) % 2 := rfl

/-- The setting of a switch whose bit says that a number below 2 is 1 is that number. -/
theorem swBit_of_iff {v : Switches} {stage sw n : Nat} (h : v.getLsbD (32 * stage + sw) = true ↔ n = 1) (hn : n < 2) :
    swBit v stage sw = n := by
  unfold swBit bit
  split
  next hset => exact (h.mp hset).symm
  next hclear =>
    have hne : n ≠ 1 := fun heq => hclear (h.mpr heq)
    omega

section Level
variable {fuel l base : Nat} {q : List Nat} (hl : fuel + 1 + l = 5) (hb : base + 2 ^ (fuel + 1) ≤ 32)
  (hq : PermOf (2 * 2 ^ (fuel + 1)) q)
include hl hb hq

theorem sub_inNet {side b : Nat} (hs : side < 2)
    (hm : b ∈ canonBits fuel (l + 1) (sideBase l base side) (subPerm q (routeSides q) side)) :
    InNet fuel (l + 1) (sideBase l base side) b := by
  have hroom := (sideBase_room base hl hs).2
  exact canonBits_inNet (by omega) (by omega) (permOf_subPerm hq hs).length hm

theorem first_mem_canonBits {j : Nat} (hj : j < 2 ^ (fuel + 1)) :
    32 * l + (base + j) ∈ canonBits (fuel + 1) l base q ↔ (routeSides q).getD (2 * j) 0 = 1 := by
  have hhalf : q.length / 2 = 2 ^ (fuel + 1) := by rw [hq.length]; omega
  rw [mem_canonBits_succ, hhalf]
  constructor
  · rintro (⟨i, hi, hside, heq⟩ | ⟨i, hi, -, heq⟩ | ⟨side, hs, hm⟩)
    · rwa [show j = i by omega]
    · omega
    · have hstage := (sub_inNet hl hb hq hs hm).1
      omega
  · exact fun hside => .inl ⟨j, hj, hside, rfl⟩

theorem last_mem_canonBits {j : Nat} (hj : j < 2 ^ (fuel + 1)) :
    32 * (10 - l) + (base + j) ∈ canonBits (fuel + 1) l base q ↔ (routeSides q).getD (q.getD (2 * j) 0) 0 = 1 := by
  have hhalf : q.length / 2 = 2 ^ (fuel + 1) := by rw [hq.length]; omega
  rw [mem_canonBits_succ, hhalf]
  constructor
  · rintro (⟨i, hi, -, heq⟩ | ⟨i, hi, hside, heq⟩ | ⟨side, hs, hm⟩)
    · omega
    · rwa [show j = i by omega]
    · have hstage := (sub_inNet hl hb hq hs hm).2.1
      omega
  · exact fun hside => .inr (.inl ⟨j, hj, hside, rfl⟩)

/-- Of the bits of a sub-network those are set that its own routing sets. -/
theorem side_mem_canonBits {side b : Nat} (hs : side < 2) (hin : InNet fuel (l + 1) (sideBase l base side) b) :
    b ∈ canonBits (fuel + 1) l base q ↔ b ∈ canonBits fuel (l + 1) (sideBase l base side) (subPerm q (routeSides q) side) := by
  have hhalf : q.length / 2 = 2 ^ (fuel + 1) := by rw [hq.length]; omega
  rw [mem_canonBits_succ, hhalf]
  constructor
  · obtain ⟨hlo, hhi, hbase, htop⟩ := hin
    rintro (⟨i, hi, -, heq⟩ | ⟨i, hi, -, heq⟩ | ⟨other, ho, hm⟩)
    · omega
    · omega
    · obtain ⟨-, -, hbase', htop'⟩ := sub_inNet hl hb hq ho hm
      have hpow : 4 - l = fuel := by omega
      have hsame : side = other := by
        unfold sideBase at hbase htop hbase' htop'
        rw [hpow] at hbase htop hbase' htop'
        refine Decidable.byContradiction fun hne => ?_
        rcases (by omega : side = 0 ∧ other = 1 ∨ side = 1 ∧ other = 0) with ⟨rfl, rfl⟩ | ⟨rfl, rfl⟩ <;> omega
      rwa [hsame]
  · exact fun hm => .inr (.inr ⟨side, hs, hm⟩)

variable {v : Switches} (hv : SetAs v (fuel + 1) l base q)
include hv

theorem SetAs.side {side : Nat} (hs : side < 2) : SetAs v fuel (l + 1) (sideBase l base side) (subPerm q (routeSides q) side) := by
  intro b hin
  rw [hv b (hin.of_side hl hs), decide_eq_decide]
  exact side_mem_canonBits hl hb hq hs hin

/-- The setting of a first-stage switch is the side of its upper input. -/
theorem SetAs.swBit_first {j : Nat} (hj : j < 2 ^ (fuel + 1)) : swBit v l (base + j) = (routeSides q).getD (2 * j) 0 := by
  have hsum := routeSides_mate hq (x := 2 * j) (by omega)
  have hin : InNet (fuel + 1) l base (32 * l + (base + j)) := by unfold InNet; omega
  refine swBit_of_iff ?_ (by omega)
  rw [hv _ hin, decide_eq_true_iff]
  exact first_mem_canonBits hl hb hq hj

/-- The setting of a last-stage switch is the side of the input of its upper output. -/
theorem SetAs.swBit_last {j : Nat} (hj : j < 2 ^ (fuel + 1)) :
    swBit v (10 - l) (base + j) = (routeSides q).getD (q.getD (2 * j) 0) 0 := by
  have hsum := routeSides_pair hq hj
  have hin : InNet (fuel + 1) l base (32 * (10 - l) + (base + j)) := by unfold InNet; omega
  refine swBit_of_iff ?_ (by omega)
  rw [hv _ hin, decide_eq_true_iff]
  exact last_mem_canonBits hl hb hq hj

/-- An output is fed by the sub-network of its input. -/
theorem SetAs.output_side {o : Nat} (ho : o < 2 * 2 ^ (fuel + 1)) :
    (o + swBit v (10 - l) (base + o / 2)) % 2 = (routeSides q).getD (q.getD o 0) 0 := by
  have hpair := routeSides_pair hq (j := o / 2) (by omega)
  rw [hv.swBit_last hl hb hq (by omega)]
  rcases Nat.mod_two_eq_zero_or_one o with hm | hm
  · rw [show 2 * (o / 2) = o by omega] at hpair ⊢
    omega
  · rw [show 2 * (o / 2) + 1 = o by omega] at hpair
    omega

/-- Through its first-stage switch an input goes to its side. -/
theorem SetAs.input_port {x : Nat} (hx : x < 2 * 2 ^ (fuel + 1)) :
    2 * (x / 2) + ((routeSides q).getD x 0 + swBit v l (base + x / 2)) % 2 = x := by
  have hsum := routeSides_mate hq hx
  rw [hv.swBit_first hl hb hq (by omega)]
  rcases Nat.mod_two_eq_zero_or_one x with hm | hm
  · rw [show 2 * (x / 2) = x by omega]
    omega
  · rw [mate, if_neg (by omega)] at hsum
    rw [show 2 * (x / 2) = x - 1 by omega]
    omega

end Level

/-! ## The whole network (R213, R215) -/

/-- A network set by the canonical routing connects each output to its input. -/
theorem routeBack_of_setAs {v : Switches} {fuel l base : Nat} {q : List Nat} (hl : fuel + l = 5) (hb : base + 2 ^ fuel ≤ 32)
    (hq : PermOf (2 ^ (fuel + 1)) q) (hv : SetAs v fuel l base q) {o : Nat} (ho : o < 2 ^ (fuel + 1)) :
    routeBack v fuel l base o = q.getD o 0 := by
  induction fuel generalizing l base q o with
  | zero =>
    have hin : InNet 0 l base (32 * l + base) := by unfold InNet; omega
    have h0 := hq.getD_lt (o := 0) (by decide)
    have h1 := hq.getD_lt (o := 1) (by decide)
    have hne : q.getD 0 0 ≠ q.getD 1 0 := fun heq => absurd (hq.getD_inj (by decide) (by decide) heq) (by decide)
    have hbit : swBit v l base = q.getD 0 0 := by
      refine swBit_of_iff ?_ (by omega)
      rw [hv _ hin, decide_eq_true_iff, canonBits, List.mem_ite_nil_right]
      simp
    rw [routeBack, hbit]
    rcases (by omega : o = 0 ∨ o = 1) with rfl | rfl <;> omega
  | succ fuel ih =>
    rw [Nat.pow_succ, Nat.mul_comm] at hq ho
    have hside := hv.output_side hl hb hq ho
    have hpos := hq.getD_lt ho
    have hsum := routeSides_mate hq hpos
    have hs : (routeSides q).getD (q.getD o 0) 0 < 2 := by omega
    have hroom := (sideBase_room base hl hs).2
    have hsub := ih (by omega) (by omega) (permOf_subPerm hq hs) (hv.side hl hb hq hs) (o := o / 2) (by omega)
    rw [getD_subPerm hq ho] at hsub
    rw [routeBack_succ, hside, hsub, hv.input_port hl hb hq hpos]

theorem getLsbD_orBits (l : List Nat) (v : Switches) {b : Nat} (hb : b < 352) :
    (l.foldl (fun (v : Switches) b => v ||| (1 <<< b)) v).getLsbD b = (v.getLsbD b || decide (b ∈ l)) := by
  induction l generalizing v with
  | nil => simp
  | cons x t ih =>
    have hone : ((1 <<< x : Nat) : Switches).getLsbD b = decide (x = b) := by
      rw [BitVec.natCast_eq_ofNat, BitVec.getLsbD_ofNat, Nat.one_shiftLeft, Nat.testBit_two_pow, decide_eq_true hb, Bool.true_and]
    rw [List.foldl_cons, ih, BitVec.getLsbD_or, hone, Bool.or_assoc]
    simp only [List.mem_cons, Bool.decide_or, eq_comm (a := b)]

theorem setAs_canon (p : List Nat) : SetAs (canon p) 5 0 0 p := by
  rintro b ⟨-, hstage, -⟩
  have hb : b < 352 := by omega
  have hzero : (0 : Switches).getLsbD b = false := BitVec.getLsbD_zero
  rw [canon, getLsbD_orBits _ _ hb, hzero, Bool.false_or]

/-- R215: the settings of the canonical routing connect output i to input p(i). -/
theorem permAt_canon {p : List Nat} (hp : PermOf 64 p) {i : Nat} (hi : i < 64) : permAt (canon p) i = p.getD i 0 :=
  routeBack_of_setAs rfl (by decide) hp (setAs_canon p) hi

/-! ## The permutation that settings hold (R212) -/

theorem routeBack_lt (v : Switches) (fuel l base o : Nat) : routeBack v fuel l base o < 2 ^ (fuel + 1) := by
  induction fuel generalizing l base o with
  | zero => exact Nat.mod_lt _ (by decide)
  | succ fuel ih =>
    have hsub := ih (l + 1) (sideBase l base ((o + swBit v (10 - l) (base + o / 2)) % 2)) (o / 2)
    rw [routeBack_succ, Nat.pow_succ]
    omega

theorem permAt_lt (v : Switches) (i : Nat) : permAt v i < 64 := routeBack_lt v 5 0 0 i

@[simp] theorem length_permList (v : Switches) : (permList v).length = 64 := by rw [permList, List.length_map, List.length_range]

theorem getD_permList (v : Switches) {i : Nat} (hi : i < 64) : (permList v).getD i 0 = permAt v i := range_map_getD hi _ _

theorem permOf_permList {v : Switches} (h : (permList v).Nodup) : PermOf 64 (permList v) where
  length := length_permList v
  lt x hx := by
    obtain ⟨i, -, rfl⟩ := List.mem_map.mp hx
    exact permAt_lt v i
  nodup := h

/-- Settles O37: at each level an output is fed by the sub-network its input was sent to, so the levels below connect them. -/
theorem canonicalRouting : Obligations.CanonicalRouting := by
  intro p hlen hlt hnd
  refine List.ext_getElem (by rw [length_permList, hlen]) fun i hi hip => ?_
  have hi64 : i < 64 := hlen ▸ hip
  rw [← getD_of_lt hi 0, ← getD_of_lt hip 0, getD_permList _ hi64, permAt_canon ⟨hlen, hlt, hnd⟩ hi64]

end Sys2Proof.Machine

end

section
/-! PROOFS. Solves (09 R217-R219, R221): what queueing one changes, the words that queue one, and O35. -/

namespace Sys2Proof.Machine

open Safe

/-! ## The arms of these words -/

theorem exec_pload (pd : BitVec 3) (t : BitVec 4) (row : BitVec 6) (r : BitVec 5) (s : State) :
    exec (.pload pd t row r) s = execPload pd t row r s := rfl
theorem exec_pcomp (pd pa pb : BitVec 3) (s : State) : exec (.pcomp pd pa pb) s = execPcomp pd pa pb s := rfl
theorem exec_pinv (pd pa : BitVec 3) (s : State) : exec (.pinv pd pa) s = execPinv pd pa s := rfl
theorem exec_prand (pd : BitVec 3) (r : BitVec 5) (s : State) : exec (.prand pd r) s = execPrand pd r s := rfl

/-! ## Permutation sources (R40) -/


theorem State.withSrcs_p {s : State} {p : BitVec 3} {k : Unit → Res} (h : PermFull s p) : s.withSrcs [.p p] k = k () :=
  State.withSrcs_ready (by simpa using Ctx.ready_p h)

theorem State.withSrcs_ps {s : State} {p : BitVec 3} {r : BitVec 5} {w : Bool} {k : Unit → Res} (hp : PermFull s p) (hr : Full s r) :
    s.withSrcs [.p p, .s r w] k = k () :=
  State.withSrcs_ready (by simpa using ⟨Ctx.ready_p hp, Ctx.ready_s w hr⟩)

theorem State.withSrcs_pp {s : State} {p q : BitVec 3} {k : Unit → Res} (hp : PermFull s p) (hq : PermFull s q) :
    s.withSrcs [.p p, .p q] k = k () :=
  State.withSrcs_ready (by simpa using ⟨Ctx.ready_p hp, Ctx.ready_p hq⟩)

/-! ## A solve queued (R219) -/

/-- The solve of settings into a permutation register, with the next tag. -/
def State.nextSolve (s : State) (pd : BitVec 3) (v : Switches) : Solve :=
  { sid := s.cur.sid, tag := s.pkg.tag, pd := pd, v := v, wait := max s.core.isc s.core.lastSolve,
    left := max s.core.isc s.core.lastSolve + 40 }

/-- The state with that solve behind those in progress and its register not yet marked. -/
def State.withSolve (s : State) (pd : BitVec 3) (v : Switches) : State :=
  { s.newTag.2 with core := { s.core with
      solves := s.core.solves ++ [s.nextSolve pd v], lastSolve := max s.core.isc s.core.lastSolve + 8 } }

theorem State.solve_room {s : State} (pd : BitVec 3) (v : Switches) (h : s.core.solves.length < 4) :
    s.solve pd v = .ok ((s.withSolve pd v).mark s.pkg.tag (.p pd)) := by
  rw [State.solve, if_neg (Nat.not_le.mpr h)]
  rfl

theorem State.solve_full {s : State} (pd : BitVec 3) (v : Switches) (h : 4 ≤ s.core.solves.length) : s.solve pd v = .hold .other := by
  rw [State.solve, if_pos h]

/-- Marking a register changes nothing that the registers and memory show. -/
theorem State.mark_sameMachine (s : State) (tag : Nat) (d : Dest) : SameMachine s (s.mark tag d) := by
  obtain ⟨hmem, -, hoth, hpoison, -, -, -, -, hcur, -⟩ := s.mark_rest tag d
  refine sameMachine_of ?_ ?_ ?_ ?_ ?_ ?_ ?_ ?_ hmem hpoison hoth <;> rw [hcur]

/-- A register that can be written is marked for the tag. -/
theorem State.marked_mark {s : State} {tag : Nat} {d : Dest} (h : d.real = true) : (s.mark tag d).marked s.cur.sid tag d = true := by
  rw [State.mark_real h]
  simp [State.marked]

/-- A word whose outcome is a solve with fewer than four in progress queues it. -/
theorem solves_of_solve {s : State} {i : Instr} {pd : BitVec 3} {p : List Nat} (hc : NoCall s) (hlen : s.core.solves.length < 4)
    (hi : exec i s = finish s (s.solve pd (canon p))) : ∃ u, exec i s = .next u ∧ Claim.solves s u pd p := by
  rw [State.solve_room pd _ hlen, finish_ok hc] at hi
  obtain ⟨-, hcore, -⟩ := (s.withSolve pd (canon p)).mark_rest s.pkg.tag (.p pd)
  refine ⟨_, hi, rfl, (s.withSolve pd (canon p)).mark_sameMachine s.pkg.tag (.p pd), ?_, s.nextSolve pd (canon p), ?_, rfl, rfl, rfl, rfl,
    fun h0 => ?_⟩
  · exact congrArg CoreSt.lastSolve hcore
  · exact congrArg CoreSt.solves hcore
  · exact (s.withSolve pd (canon p)).marked_mark (bne_iff_ne.mpr h0)

/-! ## The words -/

theorem execPrand_full {s : State} (pd : BitVec 3) {r : BitVec 5} (hr : Full s r) :
    execPrand pd r s = finish s (s.solve pd (canon (prandList (s.cur.sv r)))) := by
  rw [execPrand, State.withSrcs_s hr]
  rfl

theorem execPinv_full {s : State} (pd : BitVec 3) {pa : BitVec 3} (ha : PermFull s pa) :
    execPinv pd pa s = finish s (s.solve pd (canon ((List.range 64).map (invAt (permList (s.cur.pv pa).v))))) := by
  rw [execPinv, State.withSrcs_p ha]

theorem execPcomp_full {s : State} (pd : BitVec 3) {pa pb : BitVec 3} (ha : PermFull s pa) (hb : PermFull s pb) :
    execPcomp pd pa pb s = finish s (s.solve pd (canon ((List.range 64).map (fun i =>
      permAt (s.cur.pv pa).v (permAt (s.cur.pv pb).v i))))) := by
  rw [execPcomp, State.withSrcs_pp ha hb]

/-- The first 64 bytes of a row, as numbers. -/
def indexBytes (v : Row) : List Nat := ((rowBytes v).take 64).map BitVec.toNat

/-- PLOAD with its sources FULL goes by what its check says of the index vector (R218). -/
theorem execPload_full {s : State} (pd : BitVec 3) {t : BitVec 4} {row : BitVec 6} {r : BitVec 5} (hr : Full s r) (ht : RowFull s t row) :
    execPload pd t row r s = finish s (match permFault (s.cur.sv r) (indexBytes (s.cur.rowReg t row).v) with
      | some x => .trap ⟨cPermInvalid, x⟩
      | none => s.solve pd (canon ((List.range 64).map (fun i =>
          if i < (s.cur.sv r).toNat then (indexBytes (s.cur.rowReg t row).v).getD i 0 else i)))) := by
  rw [execPload, State.withRows_full (by simpa using Ctx.ready_s false hr) (by simpa using ht)]
  rfl

/-- The inverse of a permutation takes p(i) to i. -/
theorem getD_inverse {v : Switches} (h : (permList v).Nodup) {i : Nat} (hi : i < 64) :
    ((List.range 64).map (invAt (permList v))).getD (permAt v i) 0 = i := by
  rw [range_map_getD (permAt_lt v i), ← getD_permList v hi]
  exact invAt_getD h (by rwa [length_permList])

/-- Settles O35: a word with its sources FULL comes to a solve of its permutation or to the trap of its check; a solve is queued where
there is room for it, and held where there is none. -/
theorem permSolves : Obligations.PermSolves := by
  intro pd pa pb t row r s hc bytes n solved
  refine ⟨fun hlen => ⟨fun hr => ?_, fun ha => ⟨⟨_, ?_, by simp, fun hnd i hi => getD_inverse hnd hi⟩, fun hb => ?_⟩,
    fun hr ht hgood => ?_⟩, fun hr ht v hbad => ?_, fun hlen hr => ?_⟩
  · exact solves_of_solve hc hlen ((exec_prand pd r s).trans (execPrand_full pd hr))
  · exact solves_of_solve hc hlen ((exec_pinv pd pa s).trans (execPinv_full pd ha))
  · exact solves_of_solve hc hlen ((exec_pcomp pd pa pb s).trans (execPcomp_full pd ha hb))
  · have hgood : permFault (s.cur.sv r) (indexBytes (s.cur.rowReg t row).v) = none := hgood
    refine solves_of_solve hc hlen ?_
    rw [exec_pload, execPload_full pd hr ht, hgood]
    rfl
  · have hbad : permFault (s.cur.sv r) (indexBytes (s.cur.rowReg t row).v) = some v := hbad
    rw [exec_pload, execPload_full pd hr ht, hbad, finish_trap]
  · rw [exec_prand, execPrand_full pd hr, State.solve_full pd _ hlen, finish_hold]

end Sys2Proof.Machine

end

section
/-! PROOFS. Moves and queries of permutations and PAPPLY.L (09 R217, R222, R223, R225): rows written byte by byte, the length of a
cycle, equal permutations, and O36. -/

namespace Sys2Proof.Machine

open Safe

/-! ## The arms of these words -/

theorem exec_pstore (pa : BitVec 3) (t : BitVec 4) (row : BitVec 6) (s : State) :
    exec (.pstore pa t row) s = execPstore pa t row s := rfl
theorem exec_pgetr (pa : BitVec 3) (t : BitVec 4) (row : BitVec 6) (s : State) : exec (.pgetr pa t row) s = execPgetr pa t row s := rfl
theorem exec_psetr (pd : BitVec 3) (t : BitVec 4) (row : BitVec 6) (s : State) : exec (.psetr pd t row) s = execPsetr pd t row s := rfl
theorem exec_pid (pd : BitVec 3) (s : State) : exec (.pid pd) s = execPid pd s := rfl
theorem exec_pmov (pd pa : BitVec 3) (s : State) : exec (.pmov pd pa) s = execPmov pd pa s := rfl
theorem exec_pcyc (pa : BitVec 3) (r : BitVec 5) (s : State) : exec (.pcyc pa r) s = execPcyc pa r s := rfl
theorem exec_pfix (pa : BitVec 3) (r : BitVec 5) (s : State) : exec (.pfix pa r) s = execPfix pa r s := rfl
theorem exec_pord (pa : BitVec 3) (r : BitVec 5) (s : State) : exec (.pord pa r) s = execPord pa r s := rfl
theorem exec_pclen (pa : BitVec 3) (r : BitVec 5) (s : State) : exec (.pclen pa r) s = execPclen pa r s := rfl
theorem exec_peq (pa pb : BitVec 3) (r : BitVec 5) (s : State) : exec (.peq pa pb r) s = execPeq pa pb r s := rfl
theorem exec_papplyL (pa : BitVec 3) (td ta : BitVec 4) (row : BitVec 6) (s : State) :
    exec (.papplyL pa td ta row) s = execPapplyL pa td ta row s := rfl

/-! ## Moves (R217) -/

/-- A row of bytes packs them as its 8-bit lanes. -/
theorem ofBytes_eq_packLanes (bs : List Byte) : ofBytes bs = packLanes 8 bs := by
  induction bs with
  | nil => rfl
  | cons b t ih => simp only [ofBytes, packLanes, ih, Nat.reducePow]

theorem lane_rowOf (bs : List Byte) {i : Nat} (hi : i < 256) : lane 8 (rowOf bs) i = bs.getD i 0 := by
  rw [rowOf, ofBytes_eq_packLanes]
  exact lane_packed hi bs

/-- The bytes that PSTORE writes. -/
theorem permList_byte (v : Switches) {i : Nat} (hi : i < 256) :
    (lane 8 (rowOf ((permList v).map (BitVec.ofNat 8))) i).toNat = if i < 64 then permAt v i else 0 := by
  rw [lane_rowOf _ hi, permList, List.map_map]
  split
  next h =>
    have hlt := permAt_lt v i
    rw [range_map_getD h, Function.comp_apply, BitVec.toNat_ofNat]
    omega
  next h =>
    rw [getD_of_le (by simpa using h)]
    rfl

theorem permMoves : Claim.PermMoves := by
  intro pd pa t row s hc
  refine ⟨?_, fun ha => ⟨?_, fun hp => ⟨⟨_, ?_, fun i hi => permList_byte (s.cur.pv pa).v hi⟩, ?_⟩⟩, fun ht => ?_⟩
  · exact (exec_pid pd s).trans (finish_ok hc)
  · rw [exec_pmov, execPmov, State.withSrcs_p ha, finish_ok hc]
  · rw [exec_pstore, execPstore, State.withSrcs_p ha, State.pushCheck_free hp, finish_ok hc]
  · rw [exec_pgetr, execPgetr, State.withSrcs_p ha, State.pushCheck_free hp, finish_ok hc]
  · rw [exec_psetr, execPsetr, State.withRows_full (by simp) (by simpa using ht), finish_ok hc]
    rfl

/-! ## The length of a cycle (R217, R222) -/

theorem times_succ (f : Nat → Nat) (n x : Nat) : Claim.times f (n + 1) x = Claim.times f n (f x) := by
  induction n with
  | zero => rfl
  | succ n ih => rw [Claim.times, ih, Claim.times]

theorem times_add (f : Nat → Nat) (m n x : Nat) : Claim.times f (m + n) x = Claim.times f m (Claim.times f n x) := by
  induction m with
  | zero => rw [Nat.zero_add, Claim.times]
  | succ m ih => rw [Nat.succ_add, Claim.times, ih, Claim.times]

/-- A walk that comes to `stop` after `n + 1` steps and not before, with fuel for it, lists `n + 1` positions. -/
theorem length_cycleFrom {q : List Nat} {f : Nat → Nat} (hf : ∀ x, x < 64 → q.getD x 0 = f x) (hlt : ∀ x, f x < 64) {stop : Nat}
    {fuel n x : Nat} (hx : x < 64) (hn : n + 1 ≤ fuel) (hstop : Claim.times f (n + 1) x = stop)
    (hfirst : ∀ m < n, Claim.times f (m + 1) x ≠ stop) : (cycleFrom q stop fuel x).length = n + 1 := by
  induction fuel generalizing n x with
  | zero => omega
  | succ fuel ih =>
    rw [cycleFrom, hf x hx]
    cases n with
    | zero =>
      have hstop : f x = stop := hstop
      rw [if_pos hstop, List.length_singleton]
    | succ n =>
      have hgo : f x ≠ stop := hfirst 0 (by omega)
      rw [times_succ] at hstop
      have hlater : ∀ m < n, Claim.times f (m + 1) (f x) ≠ stop := fun m hm => times_succ f (m + 1) x ▸ hfirst (m + 1) (by omega)
      rw [if_neg hgo, List.length_cons, ih (hlt x) (by omega) hstop hlater]

theorem permAt_inj {v : Switches} (h : (permList v).Nodup) {i j : Nat} (hi : i < 64) (hj : j < 64) (heq : permAt v i = permAt v j) :
    i = j := by
  rw [← getD_permList v hi, ← getD_permList v hj] at heq
  exact (permOf_permList h).getD_inj hi hj heq

theorem times_permAt_lt (v : Switches) (n : Nat) {x : Nat} (hx : x < 64) : Claim.times (permAt v) n x < 64 := by
  cases n with
  | zero => exact hx
  | succ n => exact permAt_lt v _

/-- A permutation applied equally often to two positions tells them apart. -/
theorem times_permAt_inj {v : Switches} (h : (permList v).Nodup) {i j : Nat} (hi : i < 64) (hj : j < 64) (n : Nat)
    (heq : Claim.times (permAt v) n i = Claim.times (permAt v) n j) : i = j := by
  induction n with
  | zero => exact heq
  | succ n ih => exact ih (permAt_inj h (times_permAt_lt v n hi) (times_permAt_lt v n hj) heq)

/-- Among the first 65 positions of a walk two are the same, so a permutation brings a position back after at most 64 steps. -/
theorem exists_return {v : Switches} (h : (permList v).Nodup) {x : Nat} (hx : x < 64) :
    ∃ n, n + 1 ≤ 64 ∧ Claim.times (permAt v) (n + 1) x = x := by
  refine Classical.byContradiction fun hnone => ?_
  have hnd : ((List.range 65).map fun n => Claim.times (permAt v) n x).Nodup := by
    refine List.pairwise_map.mpr (List.pairwise_lt_range.imp_of_mem fun {i j} _ hj hij heq => hnone ⟨j - i - 1, ?_⟩)
    rw [List.mem_range] at hj
    rw [show j = i + (j - i - 1 + 1) by omega, times_add] at heq
    exact ⟨by omega, (times_permAt_inj h hx (times_permAt_lt v _ hx) i heq).symm⟩
  have hsub : ((List.range 65).map fun n => Claim.times (permAt v) n x) ⊆ List.range 64 := fun y hy => by
    obtain ⟨n, -, rfl⟩ := List.mem_map.mp hy
    exact List.mem_range.mpr (times_permAt_lt v n hx)
  have hlen := hnd.length_le_of_subset hsub
  rw [List.length_map, List.length_range, List.length_range] at hlen
  omega

/-- Of the numbers with a property one is the least. -/
theorem exists_least {P : Nat → Prop} {n : Nat} (hn : P n) : ∃ m, m ≤ n ∧ P m ∧ ∀ k < m, ¬ P k := by
  induction n using Nat.strongRecOn with
  | ind n ih =>
    by_cases hless : ∃ k, k < n ∧ P k
    · obtain ⟨k, hk, hpk⟩ := hless
      obtain ⟨m, hm, hleast⟩ := ih k hk hpk
      exact ⟨m, by omega, hleast⟩
    · exact ⟨n, Nat.le_refl n, hn, fun k hk hpk => hless ⟨k, hk, hpk⟩⟩

/-- A permutation brings every position back, first after at most 64 steps. -/
theorem exists_first_return {v : Switches} (h : (permList v).Nodup) {x : Nat} (hx : x < 64) :
    ∃ n, n + 1 ≤ 64 ∧ Claim.times (permAt v) (n + 1) x = x ∧ ∀ m < n, Claim.times (permAt v) (m + 1) x ≠ x := by
  obtain ⟨n, hn, hback⟩ := exists_return h hx
  obtain ⟨m, hm, hback, hfirst⟩ := exists_least (P := fun n => Claim.times (permAt v) (n + 1) x = x) hback
  exact ⟨m, by omega, hback, hfirst⟩

/-! ## Queries (R217, R222, R223) -/

/-- A query of one FULL permutation issues with its result. -/
theorem finish_query1 {s : State} {pa : BitVec 3} (hc : NoCall s) (ha : PermFull s pa) (r : BitVec 5) (f : List Nat → Nat) :
    finish s (s.query1 pa r f) = .next (issued (s.pushS 8 r (BitVec.ofNat 64 (f (permList (s.cur.pv pa).v))))) := by
  rw [State.query1, State.withSrcs_p ha, finish_ok hc]
  rfl

/-- PFIX counts the positions that the permutation leaves in place. -/
theorem filter_fixed (v : Switches) : (List.range 64).filter (fun i => (permList v).getD i 0 == i)
    = (List.range 64).filter (fun i => decide (permAt v i = i)) := by
  refine List.filter_congr fun i hi => ?_
  rw [getD_permList v (List.mem_range.mp hi)]
  rfl

theorem execPclen_full {s : State} {pa : BitVec 3} {r : BitVec 5} (hc : NoCall s) (ha : PermFull s pa) (hr : Full s r) :
    execPclen pa r s = .next (issued (s.pushS 8 r (if 64 ≤ (s.cur.sv r).toNat then 0
      else BitVec.ofNat 64 (cycleOf (permList (s.cur.pv pa).v) (s.cur.sv r).toNat).length))) := by
  rw [execPclen, State.withSrcs_ps ha hr, finish_ok hc]
  rfl

theorem execPeq_full {s : State} {pa pb : BitVec 3} (hc : NoCall s) (ha : PermFull s pa) (hb : PermFull s pb) (r : BitVec 5) :
    execPeq pa pb r s = .next (issued (s.pushS 8 r (if permList (s.cur.pv pa).v = permList (s.cur.pv pb).v then 1 else 0))) := by
  rw [execPeq, State.withSrcs_pp ha hb, finish_ok hc]

/-- Two settings hold one permutation when they connect every output alike (R223). -/
theorem permList_eq_iff (v w : Switches) : permList v = permList w ↔ ∀ i, i < 64 → permAt v i = permAt w i := by
  unfold permList
  rw [List.map_inj_left]
  simp only [List.mem_range]

theorem permQueries : Claim.PermQueries := by
  intro pa pb r s hc ha q gives at_
  refine ⟨?_, ?_, ?_, fun hr hn => ?_, fun hr hn hnd => ?_, fun hb => ⟨fun heq => ?_, fun i hi hne => ?_⟩⟩
  · refine (exec_pfix pa r s).trans ((finish_query1 hc ha r _).trans ?_)
    rw [filter_fixed]
  · exact (exec_pcyc pa r s).trans (finish_query1 hc ha r _)
  · exact (exec_pord pa r s).trans (finish_query1 hc ha r _)
  · refine (exec_pclen pa r s).trans ((execPclen_full hc ha hr).trans ?_)
    rw [if_pos hn]
    rfl
  · obtain ⟨n, hle, hback, hfirst⟩ := exists_first_return hnd hn
    have hlen := length_cycleFrom (fun x hx => getD_permList (s.cur.pv pa).v hx) (permAt_lt (s.cur.pv pa).v) hn hle hback hfirst
    refine ⟨n + 1, ?_, by omega, hback, fun m hm hlt hm' => ?_⟩
    · refine (exec_pclen pa r s).trans ((execPclen_full hc ha hr).trans ?_)
      rw [if_neg (Nat.not_le.mpr hn), cycleOf, hlen]
    · obtain ⟨k, rfl⟩ := Nat.exists_eq_add_of_le' hm
      exact hfirst k (by omega) hm'
  · refine (exec_peq pa pb r s).trans ((execPeq_full hc ha hb r).trans ?_)
    rw [if_pos ((permList_eq_iff _ _).mpr heq)]
    rfl
  · refine (exec_peq pa pb r s).trans ((execPeq_full hc ha hb r).trans ?_)
    rw [if_neg fun heq => hne ((permList_eq_iff _ _).mp heq i hi)]
    rfl

/-! ## PAPPLY.L (R225) -/

theorem permLanes : Claim.PermLanes := by
  intro pa td ta row s hc ha ht hp
  refine ⟨_, ?_, fun g hg => lane_ofLanes hg _⟩
  rw [exec_papplyL, execPapplyL, State.withRows_full (by simpa using Ctx.ready_p ha) (by simpa using ht), State.pushCheck_free hp,
    finish_ok hc]
  rfl

/-- Settles O36: a move queues the settings or the bytes it reads, a cycle closes after its permutation's first return, and PEQ compares
what two settings connect. -/
theorem permutationWords : Obligations.PermutationWords := ⟨permMoves, permQueries, permLanes⟩

end Sys2Proof.Machine

end
